-- ==== Sys2Proof/Word.lean ====
section
/-! DEFINITION. The words of the device: bytes and the register widths the spec names (R3, R4, R8). -/

namespace Sys2Proof

/-- A byte. -/
abbrev Byte := BitVec 8

/-- A register, a lane, a scalar or sequencer register (R8, R121). -/
abbrev Word := BitVec 32

/-- A core or chip operation, a counter, an address field (R7, R138, R140). -/
abbrev DWord := BitVec 64

/-- A tile-bank entry: S in bits [31:0], C in bits [47:32] (R44). -/
abbrev Entry := BitVec 48

end Sys2Proof
end

