-- ==== Sys2Proof/Machine/Bits.lean ====
section
/-! DEFINITION. Bit fields, little-endian byte strings and the two CRCs of the spec (R3, R4, R283, R287). -/

namespace Sys2Proof.Machine

/-- The field [hi:lo] of a word, as a number (R3). -/
def fld {n : Nat} (w : BitVec n) (hi lo : Nat) : Nat :=
  w.toNat >>> lo % 2 ^ (hi - lo + 1)

/-- Bit n of a word (R3). -/
def flag {n : Nat} (w : BitVec n) (i : Nat) : Bool :=
  w.getLsbD i

/-- The word with the field [hi:lo] replaced by v (taken modulo the field's size). -/
def putFld {n : Nat} (w : BitVec n) (hi lo v : Nat) : BitVec n :=
  BitVec.ofNat n (w.toNat - (fld w hi lo) <<< lo + (v % 2 ^ (hi - lo + 1)) <<< lo)

/-- The word with bit i set to b. -/
def putFlag {n : Nat} (w : BitVec n) (i : Nat) (b : Bool) : BitVec n :=
  putFld w i i b.toNat

/-- A number that stops at its field's largest value (the "saturating" counters). -/
def satAdd (bits a b : Nat) : Nat :=
  min (a + b) (2 ^ bits - 1)

/-- The number of a little-endian byte string (R4). -/
def leNat : List Byte → Nat
  | [] => 0
  | b :: bs => b.toNat + 256 * leNat bs

/-- n little-endian bytes of a number (R4). -/
def leBytes : Nat → Nat → List Byte
  | 0, _ => []
  | n + 1, v => BitVec.ofNat 8 v :: leBytes n (v / 256)

/-- The little-endian number in n bytes from offset off of a byte string; bytes beyond its end read as 0. -/
def numAt (bs : List Byte) (off n : Nat) : Nat :=
  leNat ((bs.drop off).take n)

/-- n bytes of a byte string from offset off. -/
def bytesAt (bs : List Byte) (off n : Nat) : List Byte :=
  (bs.drop off).take n

/-- The byte string is all zero. -/
def allZero (bs : List Byte) : Bool :=
  bs.all (· == 0)

/-- Bytes off to last of a byte string are zero (reserved fields, R14). -/
def zeroAt (bs : List Byte) (off last : Nat) : Bool :=
  allZero (bytesAt bs off (last + 1 - off))

/-- n big-endian bytes of a number (the r and s of a signature, R399). -/
def beBytes (n v : Nat) : List Byte :=
  (leBytes n v).reverse

/-- One bit step of the reflected CRC-32. -/
def crc32Bit (c : Word) : Word :=
  if c.getLsbD 0 then (c >>> 1) ^^^ 0xEDB88320#32 else c >>> 1

/-- One byte of the reflected CRC-32 of R287 (polynomial 0x04C1_1DB7, reflected 0xEDB8_8320). -/
def crc32Byte (c : Word) (b : Byte) : Word :=
  (List.range 8).foldl (fun c _ => crc32Bit c) (c ^^^ b.setWidth 32)

/-- CRC-32 of R287: initial and final value 0xFFFF_FFFF. -/
def crc32 (bs : List Byte) : Word :=
  bs.foldl crc32Byte 0xFFFFFFFF#32 ^^^ 0xFFFFFFFF#32

/-- One bit step of the CRC-64 of R283. -/
def crc64Bit (c : DWord) : DWord :=
  if c.getLsbD 63 then (c <<< 1) ^^^ 0x42F0E1EBA9EA3693#64 else c <<< 1

/-- One byte of the CRC-64 of R283. -/
def crc64Byte (c : DWord) (b : Byte) : DWord :=
  (List.range 8).foldl (fun c _ => crc64Bit c) (c ^^^ (b.setWidth 64 <<< 56))

/-- CRC-64 of R283: initial value zero, no reflection, no final XOR. -/
def crc64 (bs : List Byte) : DWord :=
  bs.foldl crc64Byte 0#64

/-- A word from fields: each value stands at its bit. -/
def packed (fs : List (Nat × Nat)) : Word := BitVec.ofNat 32 (fs.foldl (fun n f => n + f.2 * 2 ^ f.1) 0)

/-- The least set bit among the first n bits of a mask. -/
def lowestBit (mask n : Nat) : Option Nat :=
  (List.range n).find? (fun i => mask.testBit i)

/-- The set bits among the first n bits of a mask, in increasing order. -/
def bitsOf (mask n : Nat) : List Nat :=
  (List.range n).filter (fun i => mask.testBit i)

/-- ⌈a / b⌉. -/
def ceilDiv (a b : Nat) : Nat :=
  (a + b - 1) / b

/-- Replace element i of a list; a list too short is left alone. -/
def modifyAt {α : Type} (l : List α) (i : Nat) (f : α → α) : List α :=
  l.mapIdx (fun k x => if k = i then f x else x)

end Sys2Proof.Machine
end

