-- ==== Sys2Proof/Syntax.lean ====
section
/-! DEFINITION. The commands of the device: one constructor of Instr per row of spec/opcode_table.json, with the
operands each needs. -/

namespace Sys2Proof

/-- A core operation as it stands in a bundle: the logical core and slot of its lane (R137) and its 64 bits (R138). -/
structure CoreOp where
  core : Fin 16
  slot : Fin 4
  word : DWord
  deriving DecidableEq, Repr

/-- A chip operation: its chip slot (R137) and its 64 bits (R140). -/
structure ChipOp where
  slot : Fin 8
  word : DWord
  deriving DecidableEq, Repr

/-- The roles of R413; the device itself acts as `device` in the audit log (R421). -/
inductive Role where
  | device | operator | installer | maker
  deriving DecidableEq, Repr

/-- How an access reaches the management window (R433), PATH of R421. -/
inductive Path where
  | internal | chain | ethernet | speedwell
  deriving DecidableEq, Repr

/-- Who reads the window: the chain, in the open session, or the connection of an access-list entry (R381, R415). -/
inductive Reader where
  | chain
  | rdma (entry : Fin 16)
  deriving DecidableEq, Repr

/-- What the ECC of a word read shows (R226). -/
inductive Ecc where
  | clean | corrected | uncorrectable
  deriving DecidableEq, Repr

/-- Requesters of memory operations (R217, R229). -/
inductive Requester where
  | stream (core : Fin 16) (engine : Fin 16)
  | vetch | fetch | link | ethernet | meadowsweet | tansy
  deriving DecidableEq, Repr

/-- Kinds of memory operation (R217). -/
inductive MemKind where
  | read | write | accumulate
  deriving DecidableEq, Repr

/-- Tag pools of a bank die (R229). -/
inductive Pool where
  | general | fetch | tansy
  deriving DecidableEq, Repr

/-- A memory operation within one aligned 512-byte sector (R217), `sector` its number: `mask` bit k selects byte k, `data` holds the bytes
of a write by a requester other than a stream engine, whose data comes from its region; `ecc` is what its reads of HBM show
(R226), `sram` what the reads of tile store or accumulator buffer that give its data show (R115). -/
structure MemOp where
  who    : Requester
  kind   : MemKind
  sector : Nat
  mask   : BitVec 512
  data   : List Byte
  ecc    : Ecc
  sram   : Ecc
  deriving DecidableEq, Repr

/-- A Speedwell packet (R287): bytes 20 to 27 are `aux`, LEN is the payload's length, `crc` the received CRC. -/
structure Packet where
  dest    : DWord
  src     : BitVec 24
  kind    : Byte
  jobtag  : BitVec 16
  lseq    : Word
  aux     : DWord
  payload : List Byte
  crc     : Word
  deriving DecidableEq, Repr

/-- An identity block (R293). -/
structure IdBlock where
  serial   : BitVec 128
  coord    : BitVec 18
  physPort : BitVec 3
  label    : BitVec 3
  gen      : Byte
  vers     : BitVec 3
  fwrev    : Word
  features : DWord
  required : DWord
  jobtag   : BitVec 16
  toposeq  : DWord
  deriving DecidableEq, Repr

/-- A link-state notice (R307, R353): the link it names, if any (the coordinate and port of one end), and the job
tags it names. -/
structure Notice where
  origin : BitVec 18
  link   : Option (BitVec 18 × BitVec 3)
  up     : Bool
  tags   : List (BitVec 16)
  deriving DecidableEq, Repr

/-- A chain frame after its CRC bytes are split off (R426). -/
structure Frame where
  dest    : BitVec 16
  src     : BitVec 16
  typ     : Byte
  tag     : Byte
  len     : Byte
  status  : Byte
  offset  : Word
  payload : List Word
  crc     : Word
  deriving DecidableEq, Repr

/-- Layers of protection (R351, "Partner, feeds and layers"). -/
inductive Layer where
  | partner | flash | store
  deriving DecidableEq, Repr

/-- The joined payload of a recovery barrier (R367). -/
structure RecoveryPayload where
  need     : Bool
  mismatch : Bool
  none     : Bool
  target   : DWord
  rmin     : Word
  rmax     : Word
  deriving DecidableEq, Repr

/-- What a transfer of the Ethernet port brings when it completes (R380, R382). -/
inductive Transfer where
  /-- the job image of the claimed entry (step 6 of R387) -/
  | image (bytes : List Byte)
  /-- the lease table slot of the device's rank (steps 2 and 3 of R387): OWNER and EXPIRY -/
  | leaseSlot (owner expiry : DWord)
  /-- a compare-and-swap of OWNER (step 4 of R387, R388): the value it returned -/
  | claimSwap (returned : DWord)
  /-- the header and the entries of the job directory (R385) -/
  | directory (header : List Byte) (entries : List (List Byte))
  /-- STATE of the entry, read at a renewal (R388) -/
  | entryState (state : Byte)
  /-- Identify showed a namespace whose blocks are not of 4,096 bytes (R382) -/
  | badNamespace
  /-- a dataset unit (R391) -/
  | unit (number : Nat) (bytes : List Byte)
  /-- the partner's coordinate and FEED, the first page, the pages and the spill pages of the area it reserves for this device
  (R248, R351, R352), and the pages that this device's place reserves for it (R376) -/
  | partnerArea (coord : BitVec 18) (feed first pages spill own : Word)
  /-- the partner could not be reached (R351) -/
  | partnerUnreachable
  /-- the image read again by a restore (step 3 of R369) -/
  | restoreImage (bytes : List Byte)
  /-- a snapshot's slot page read by a restore (steps 4 and 5 of R369); none where its read failed its ECC or CRC -/
  | snapshotPage (page : Nat) (bytes : Option (List Byte))
  /-- a slot read from local flash: the pages whose reads met an uncorrectable error (step 4 of R369) -/
  | flashRead (failed : List Nat)
  /-- the step record C + 1 read from the directory (R366, R371) -/
  | stepRecord (bytes : List Byte)
  /-- a write or flush without data (step records, snapshot blocks, the release swap) -/
  | done
  deriving DecidableEq, Repr

/-- A frame of the Ethernet port as it came in (R377): its bytes, its 802.1Q tags, whether its FEC or its frame check failed,
and whether it carries the ECN congestion mark (R379). -/
structure EthFrame where
  length : Nat
  tags   : Nat
  bad    : Bool
  marked : Bool
  deriving DecidableEq, Repr

/-- An RDMA operation that a host asks of the device (R381). -/
inductive RdmaKind where
  | read | write | send | atomic
  deriving DecidableEq, Repr

/-- A message of IEEE 1588 as a time receiver sees it (R384), with the time stamps that it carries and those that the PHY took of
it, in ticks with 8 fractional bits: a Sync of a one-step or of a two-step transmitter, the Follow_Up of the latter, the response
to the device's delay request. -/
inductive PtpKind where
  | sync (t1 t2 : Nat)
  | syncTwoStep (t2 : Nat)
  | followUp (t1 : Nat)
  | delayResponse (t3 t4 : Nat)
  deriving DecidableEq, Repr

/-- A message of IEEE 1588 with its domain and its form: in an Ethernet frame, or over UDP. -/
structure PtpMessage where
  domain : Byte
  framed : Bool
  kind   : PtpKind
  deriving DecidableEq, Repr

/-- Steps of a domain's wake (R439). -/
inductive WakeStep where
  | regulator | oscillator | memory | logic
  deriving DecidableEq, Repr

/-- Board rails with an EN and PG pair, in the enable order of R476. -/
inductive Rail where
  | hbmPP | hbmC | hbmQ | bank | sram | coreW | coreE | link | nand
  deriving DecidableEq, Repr

/-- Requests the network layer answers (R377). -/
inductive NetRequest where
  | arp | neighbourDiscovery | echo
  deriving DecidableEq, Repr

/-- What a boot stage found (R409): the memory self-test (true: passed) and bad columns of each position for stage 4
(R132, R465), and the analogue units that failed (test code, unit). -/
structure StageReport where
  memOk   : BitVec 20
  badCols : List DWord
  failed  : List (Nat × Nat)
  deriving DecidableEq, Repr

/-- One step of the device. -/
inductive Instr where
  -- core operations, class M
  | nop (op : CoreOp)
  | smovi (op : CoreOp)
  | salu (op : CoreOp)
  | saddi (op : CoreOp)
  | bstat (op : CoreOp)
  | smovv (op : CoreOp)
  | vmovs (op : CoreOp)
  | flags (op : CoreOp)
  -- class A
  /-- with what the ECC of its tile-store reads shows (R115) -/
  | sweep (op : CoreOp) (ecc : Ecc)
  | zero (op : CoreOp)
  /-- with what the ECC of its buffer reads shows (R115) -/
  | preload (op : CoreOp) (ecc : Ecc)
  | drain (op : CoreOp)
  | drainx (op : CoreOp)
  -- class V
  | vfma (op : CoreOp)
  | vmul (op : CoreOp)
  | vadd (op : CoreOp)
  | vsub (op : CoreOp)
  | vmin (op : CoreOp)
  | vmax (op : CoreOp)
  | vcmp (op : CoreOp)
  | vand (op : CoreOp)
  | vor (op : CoreOp)
  | vxor (op : CoreOp)
  | vshl (op : CoreOp)
  | vshr (op : CoreOp)
  | vsel (op : CoreOp)
  | vmov (op : CoreOp)
  | vcvt (op : CoreOp)
  | vdrop (op : CoreOp)
  /-- with what the ECC of its read shows (R115) -/
  | vld (op : CoreOp) (ecc : Ecc)
  | vst (op : CoreOp)
  | exp (op : CoreOp)
  | log (op : CoreOp)
  | rcp (op : CoreOp)
  | rsqrt (op : CoreOp)
  | rstatClear (op : CoreOp)
  | rstatSmax (op : CoreOp)
  | rstatNorm (op : CoreOp)
  | rstatRead (op : CoreOp)
  -- class S
  | regionSet (op : CoreOp)
  | regionReopen (op : CoreOp)
  | regionStatus (op : CoreOp)
  | streamFill (op : CoreOp)
  | streamSpill (op : CoreOp)
  | streamArm (op : CoreOp)
  | streamLoad (op : CoreOp)
  | stashPush (op : CoreOp)
  | stashPop (op : CoreOp)
  | linkSend (op : CoreOp)
  | linkRecv (op : CoreOp)
  /-- with what the ECC of its reads at the sender shows (R115) -/
  | netSend (op : CoreOp) (ecc : Ecc)
  -- chip operations
  | loop (op : ChipOp)
  | loopBreak (op : ChipOp)
  | branch (op : ChipOp)
  | skipIf (op : ChipOp)
  | wait (op : ChipOp)
  | qmovi (op : ChipOp)
  | qaddi (op : ChipOp)
  | qalu (op : ChipOp)
  | collLaunch (op : ChipOp)
  | epochAdvance (op : ChipOp)
  | mbSet (op : ChipOp)
  | optLaunch (op : ChipOp)
  | stepCommit (op : ChipOp)
  -- the sequencer and the core units
  /-- a beat: whether the bundle due has arrived in every lane queue, and how many bundles are fetched ahead -/
  | bundleIssue (arrived : Bool) (ahead : Nat)
  | streamEndRelease
  | holdTimeout
  /-- a late arrival: the crossing's number, the lateness, the core position whose crossing it is -/
  | slip (crossing late : BitVec 16) (position : Option (Fin 20))
  | groupSumWrite (core : Fin 16)
  | drainFirstRead (core : Fin 16)
  /-- the next row of the core's oldest drain arrives; the ECC outcome of an accumulate's read (R115) -/
  | drainRowArrival (core : Fin 16) (ecc : Ecc)
  | shortResultWrite (core : Fin 16)
  /-- a scheduled operation's completion (none), or an elastic one's in a clk of the present beat -/
  | regionProducerComplete (core : Fin 16) (region : BitVec 8) (elastic : Option (Fin 8))
  /-- with what the ECC of the reads of a push shows that moves to the Twin here (R115) -/
  | regionConsumerComplete (core : Fin 16) (region : BitVec 8) (elastic : Option (Fin 8)) (ecc : Ecc)
  -- memory
  | memoryOperation (m : MemOp)
  | accumulateOnWrite (core engine : Fin 16) (element : Nat)
  | memoryOperationComplete (die : Fin 8) (pool : Pool)
  | patrolScrub (addr : Nat) (ecc : Ecc)
  /-- a channel of the stack goes out of service; none: its event ends -/
  | hbmMaintenance (stack : Fin 24) (channel : Option (Fin 32))
  /-- the mean queue depth of each stack over the window (R223) -/
  | imbalanceWindow (means : List Nat)
  -- positions
  | spareTakeover (position : Fin 20)
  | coreFence (value : Word)
  | clockLockLoss (domain : Fin 24)
  -- Meadowsweet and the commit
  | meadowsweetLaunchStart (desc : BitVec 12)
  | trustRatioSum (desc : BitVec 12)
  | meadowsweetLaunchComplete (desc : BitVec 12)
  | commitReductionLaunch
  | commitInstant
  | stepCommitComplete
  -- snapshots and recovery
  | tricklerCopy
  | lowerLayerCopy (slot : Fin 2) (layer : Layer)
  | snapshotComplete (slot : Fin 2) (layer : Layer)
  | layerCopyFail (slot : Fin 2) (layer : Layer)
  | recoveryDecide
  | restartBarrier
  | releaseBarrier
  | startBarrier
  -- collectives
  /-- with what the ECC of its reads of a core's stores shows, where it starts (R115) -/
  | launchSlotTest (desc : BitVec 12) (ecc : Option (Fin 16 × Ecc))
  /-- with what the ECC of its reads of a core's stores shows, where the packet's credit lets a queue item leave (R115) -/
  | collectivePacket (port : Fin 7) (p : Packet) (ecc : Option (Fin 16 × Ecc))
  /-- the sender's coordinate and epoch -/
  | epochDrained (port : Fin 7) (src : BitVec 18) (epoch : BitVec 16)
  | fenceExchange (port : Fin 7) (coord : BitVec 18) (jobtag : BitVec 16)
  | mcastTimeout (desc : BitVec 12) (port : Fin 7)
  | collectiveComplete (desc : BitVec 12)
  -- time base
  /-- t1 to t4 of R317, in ticks with 8 fractional bits, and the peer's stratum -/
  | timestampExchange (port : Fin 7) (t1 t2 t3 t4 : Nat) (stratum : BitVec 6)
  | frequencyCorrection
  | ptpMessage (m : PtpMessage) (frame : EthFrame)
  -- Speedwell ports
  | signalDetect (port : Fin 7)
  | trainingTimeout (port : Fin 7)
  | trainingRetry (port : Fin 7)
  | identityBlock (port : Fin 7) (b : IdBlock)
  | identityWaitTimeout (port : Fin 7)
  | linkDown (port : Fin 7)
  | linkStateNotice (port : Fin 7) (n : Notice)
  | laneGroupError (port : Fin 7) (group : Fin 4)
  /-- what comes in on a port: a packet, a cumulative acknowledgement, or both -/
  | speedwellPacket (port : Fin 7) (p : Option Packet) (ack : Option Word)
  /-- the peer asks again for everything from LSEQ -/
  | replayRequest (port : Fin 7) (lseq : Word)
  | topologyUpdate (path : Path) (bytes : List Byte)
  | retrain (port : Fin 7)
  | attestationRequest (port : Fin 7) (nonce : BitVec 256)
  -- Ethernet port and services
  /-- a request of a host: a read, or an operation that is refused -/
  | rdmaRead (source : BitVec 128) (key : Word) (offset length : Nat) (kind : RdmaKind) (frame : EthFrame)
  | transferComplete (id : Nat) (t : Transfer) (frame : EthFrame)
  | transferTimeout (id : Nat)
  /-- a storage target, or 8: the directory server -/
  | storeRetry (target : Fin 9)
  | directoryPoll
  | leaseConfirm
  | leaseRenewal
  | leaseLapse
  | leaseGraceExpiry
  | datasetFeedRead
  | statusRewrite
  -- boot, security, chain
  | boot
  | interlockAsserted
  | interlockLoss
  | program (chunk : BitVec 14)
  | commitRecord
  | reboot
  | personalise
  | seal
  | returnLife
  | close
  | jobStopGraceful
  | jobStopImmediate
  | attestGo
  | attestReportComplete
  | session (f : Frame) (role key : Byte) (signature : List Byte)
  | sessionTimeout
  | sessionLockoutEnd
  | enum (f : Frame)
  | read (f : Frame)
  | write (f : Frame)
  | chainForward (f : Frame)
  | chainBypass (closed : Bool)
  | registerWrite (offset : Nat) (value : Word)
  | linkEpochLoRead (reader : Reader)
  | cntValLoRead (reader : Reader) (n : Fin 32)
  | cntBeatsLoRead (reader : Reader)
  | auditSuppressedFlush
  -- power
  | retain
  /-- the units that fail the tests of R464: test code, unit -/
  | standby (failed : List (Nat × Nat))
  | shutdown (failed : List (Nat × Nat))
  | wake
  | wakeSend (ports : BitVec 7)
  | speedwellWakePattern (port : Fin 7)
  | ethernetWakePattern
  | retidleExpiry
  | domainReady (domain : Fin 40) (step : WakeStep)
  | domainWakeFail (domain : Fin 40)
  | mgmtDomainIdleOff
  /-- one 1-µs power sample in W -/
  | paceFastCheck (watts : Nat)
  | paceDecision
  /-- the readings in °C of the logic sensors, by domain index, and of the HBM sensors, by stack -/
  | thermalReading (logic hbm : List (BitVec 8))
  | powerGoodFall (rail : Rail)
  | referenceLoss
  | alwaysOnLoss
  -- self-test, training, boot progress, network
  | full
  /-- the failing units: test code, unit, margin step -/
  | fullComplete (failed : List (Nat × Nat × Nat))
  | invalidate
  | trainingComplete (port : Fin 7)
  | bootStageComplete (r : StageReport)
  /-- the port and the counter of a neighbour that has loaded its own, if there is one -/
  | epochLoadWaitExpiry (neighbour : Option (Fin 7 × DWord))
  | ethernetLinkDown
  /-- true: eight lanes, false: four -/
  | ethernetLinkUp (eight : Bool)
  /-- the request and the address that it asks for -/
  | arpOrEchoRequest (r : NetRequest) (address : BitVec 128) (frame : EthFrame)
  deriving DecidableEq, Repr

end Sys2Proof
end

