-- ==== Sys2Proof/WellFormed.lean ====
section
/-! DEFINITION. When a command is well formed: a core or chip operation carries the class and opcode of its row (R138,
R140, R175, R207), the parts of a message have the lengths the spec gives them. -/

namespace Sys2Proof

open Machine

/-- CLASS and OPCODE of a core operation's row (R175), with the operation. -/
def Instr.coreCode : Instr → Option (Nat × Nat × CoreOp)
  | .nop o => some (0, 0x00, o)
  | .smovi o => some (0, 0x01, o)
  | .salu o => some (0, 0x02, o)
  | .saddi o => some (0, 0x03, o)
  | .bstat o => some (0, 0x04, o)
  | .smovv o => some (0, 0x05, o)
  | .vmovs o => some (0, 0x06, o)
  | .flags o => some (0, 0x07, o)
  | .sweep o _ => some (1, 0x01, o)
  | .zero o => some (1, 0x02, o)
  | .preload o _ => some (1, 0x03, o)
  | .drain o => some (1, 0x04, o)
  | .drainx o => some (1, 0x05, o)
  | .vfma o => some (2, 0x01, o)
  | .vmul o => some (2, 0x02, o)
  | .vadd o => some (2, 0x03, o)
  | .vsub o => some (2, 0x04, o)
  | .vmin o => some (2, 0x05, o)
  | .vmax o => some (2, 0x06, o)
  | .vcmp o => some (2, 0x07, o)
  | .vand o => some (2, 0x08, o)
  | .vor o => some (2, 0x09, o)
  | .vxor o => some (2, 0x0A, o)
  | .vshl o => some (2, 0x0B, o)
  | .vshr o => some (2, 0x0C, o)
  | .vsel o => some (2, 0x0D, o)
  | .vmov o => some (2, 0x0E, o)
  | .vcvt o => some (2, 0x10, o)
  | .vdrop o => some (2, 0x11, o)
  | .vld o _ => some (2, 0x18, o)
  | .vst o => some (2, 0x19, o)
  | .exp o => some (2, 0x20, o)
  | .log o => some (2, 0x21, o)
  | .rcp o => some (2, 0x22, o)
  | .rsqrt o => some (2, 0x23, o)
  | .rstatClear o => some (2, 0x28, o)
  | .rstatSmax o => some (2, 0x29, o)
  | .rstatNorm o => some (2, 0x2A, o)
  | .rstatRead o => some (2, 0x2B, o)
  | .regionSet o => some (3, 0x01, o)
  | .regionReopen o => some (3, 0x02, o)
  | .regionStatus o => some (3, 0x03, o)
  | .streamFill o => some (3, 0x08, o)
  | .streamSpill o => some (3, 0x09, o)
  | .streamArm o => some (3, 0x0A, o)
  | .streamLoad o => some (3, 0x0B, o)
  | .stashPush o => some (3, 0x10, o)
  | .stashPop o => some (3, 0x11, o)
  | .linkSend o => some (3, 0x18, o)
  | .linkRecv o => some (3, 0x19, o)
  | .netSend o _ => some (3, 0x20, o)
  | _ => none

/-- Opcode of a chip operation's row (R207), with the operation. -/
def Instr.chipCode : Instr → Option (Nat × ChipOp)
  | .loop o => some (0x01, o)
  | .loopBreak o => some (0x02, o)
  | .branch o => some (0x03, o)
  | .skipIf o => some (0x04, o)
  | .wait o => some (0x05, o)
  | .qmovi o => some (0x06, o)
  | .qaddi o => some (0x07, o)
  | .qalu o => some (0x08, o)
  | .collLaunch o => some (0x10, o)
  | .epochAdvance o => some (0x11, o)
  | .mbSet o => some (0x12, o)
  | .optLaunch o => some (0x13, o)
  | .stepCommit o => some (0x14, o)
  | _ => none

/-- A packet's payload is a multiple of 32 bytes, at most 4,096 (R287). -/
def Packet.wellFormed (p : Packet) : Bool := p.payload.length % 32 == 0 && decide (p.payload.length ≤ 4096)

/-- A frame of a type. -/
def Frame.hasType (f : Frame) (typ : Nat) : Bool := f.typ.toNat == typ

/-- A memory operation's sector lies in the 44-bit address space, and the operation brings no data or all 512 bytes (R217). -/
def MemOp.wellFormed (m : MemOp) : Bool :=
  decide (m.sector < 2 ^ 35) && (m.data == [] || m.data.length == 512)

/-- A command is well formed. -/
def Instr.wellFormed (i : Instr) : Bool :=
  match i.coreCode, i.chipCode with
  | some (c, o, op), _ => fld op.word 4 3 == c && fld op.word 11 5 == o
  | none, some (o, op) => fld op.word 7 0 == o
  | none, none =>
    match i with
    | .memoryOperation m => m.wellFormed
    | .imbalanceWindow means => means.length == 24
    | .collectivePacket _ p _ => p.wellFormed && p.kind == 2
    | .speedwellPacket _ p _ => p.all Packet.wellFormed
    | .topologyUpdate _ b => b.length == 256
    | .session f _ _ sig => f.hasType 5 && (f.len == 0 || sig.length == 132)
    | .enum f => f.hasType 1
    | .read f => f.hasType 2
    | .write f => f.hasType 3
    | .bootStageComplete r => r.badCols.length == 20
    | .transferComplete _ (.directory header entries) _ => header.length == 64 && entries.all fun e => e.length == 256
    | .accumulateOnWrite _ _ n => decide (n < 2 ^ 32)
    | _ => true

end Sys2Proof
end

