-- ==== Sys2Proof/Decode.lean ====
section
/-! DEFINITION. From words to commands: spec/opcode_table.json gives no row any bits, so the host's word names no command;
the operations of a bundle are decoded from their 64 bits as R138, R140, R175 and R207 lay them out. -/

namespace Sys2Proof

open Machine

/-- The command that a word spells by the table's bits: none, as no row has bits. -/
def decodeTableWord (_nbits _w : Nat) : Option Instr := none

/-- The M-class operation of an opcode; a NOP has no operand bit (R176). -/
def decodeMove (o : CoreOp) : Nat → Option Instr
  | 0x00 => if fld o.word 63 12 = 0 then some (.nop o) else none
  | 0x01 => some (.smovi o)
  | 0x02 => some (.salu o)
  | 0x03 => some (.saddi o)
  | 0x04 => some (.bstat o)
  | 0x05 => some (.smovv o)
  | 0x06 => some (.vmovs o)
  | 0x07 => some (.flags o)
  | _ => none

/-- The A-class operation of an opcode. -/
def decodeArray (o : CoreOp) (ecc : Ecc) : Nat → Option Instr
  | 0x01 => some (.sweep o ecc)
  | 0x02 => some (.zero o)
  | 0x03 => some (.preload o ecc)
  | 0x04 => some (.drain o)
  | 0x05 => some (.drainx o)
  | _ => none

/-- The V-class operation of an opcode. -/
def decodeVector (o : CoreOp) (ecc : Ecc) : Nat → Option Instr
  | 0x01 => some (.vfma o)
  | 0x02 => some (.vmul o)
  | 0x03 => some (.vadd o)
  | 0x04 => some (.vsub o)
  | 0x05 => some (.vmin o)
  | 0x06 => some (.vmax o)
  | 0x07 => some (.vcmp o)
  | 0x08 => some (.vand o)
  | 0x09 => some (.vor o)
  | 0x0A => some (.vxor o)
  | 0x0B => some (.vshl o)
  | 0x0C => some (.vshr o)
  | 0x0D => some (.vsel o)
  | 0x0E => some (.vmov o)
  | 0x10 => some (.vcvt o)
  | 0x11 => some (.vdrop o)
  | 0x18 => some (.vld o ecc)
  | 0x19 => some (.vst o)
  | 0x20 => some (.exp o)
  | 0x21 => some (.log o)
  | 0x22 => some (.rcp o)
  | 0x23 => some (.rsqrt o)
  | 0x28 => some (.rstatClear o)
  | 0x29 => some (.rstatSmax o)
  | 0x2A => some (.rstatNorm o)
  | 0x2B => some (.rstatRead o)
  | _ => none

/-- The S-class operation of an opcode. -/
def decodeStream (o : CoreOp) (ecc : Ecc) : Nat → Option Instr
  | 0x01 => some (.regionSet o)
  | 0x02 => some (.regionReopen o)
  | 0x03 => some (.regionStatus o)
  | 0x08 => some (.streamFill o)
  | 0x09 => some (.streamSpill o)
  | 0x0A => some (.streamArm o)
  | 0x0B => some (.streamLoad o)
  | 0x10 => some (.stashPush o)
  | 0x11 => some (.stashPop o)
  | 0x18 => some (.linkSend o)
  | 0x19 => some (.linkRecv o)
  | 0x20 => some (.netSend o ecc)
  | _ => none

/-- The operation that a core slot's word spells; `ecc` is what its reads show. None is a reserved encoding. -/
def decodeCoreOp (o : CoreOp) (ecc : Ecc) : Option Instr :=
  match fld o.word 4 3 with
  | 0 => decodeMove o (fld o.word 11 5)
  | 1 => decodeArray o ecc (fld o.word 11 5)
  | 2 => decodeVector o ecc (fld o.word 11 5)
  | _ => decodeStream o ecc (fld o.word 11 5)

/-- The operation that a chip slot's word spells. None is the no-operation or a reserved encoding. -/
def decodeChipOp (o : ChipOp) : Option Instr :=
  match fld o.word 7 0 with
  | 0x01 => some (.loop o)
  | 0x02 => some (.loopBreak o)
  | 0x03 => some (.branch o)
  | 0x04 => some (.skipIf o)
  | 0x05 => some (.wait o)
  | 0x06 => some (.qmovi o)
  | 0x07 => some (.qaddi o)
  | 0x08 => some (.qalu o)
  | 0x10 => some (.collLaunch o)
  | 0x11 => some (.epochAdvance o)
  | 0x12 => some (.mbSet o)
  | 0x13 => some (.optLaunch o)
  | 0x14 => some (.stepCommit o)
  | _ => none

end Sys2Proof
end

