-- ==== Sys2Proof/Config.lean ====
section
/-! DEFINITION. What a single part or an outside standard fixes and the spec does not: constants without a body, so
that no proof can lean on a value of one of them. -/

namespace Sys2Proof.Config

/-- The chip serial number of this part (R293, R432). DESIGN CHOICE 7. -/
opaque serial : BitVec 128

/-- The maker's public key, whose hash the boot ROM holds (R404, R414). DESIGN CHOICE 7. -/
opaque makerKey : List Byte

/-- Cleavahorn's firmware public key, whose hash the boot ROM holds (R401). DESIGN CHOICE 7. -/
opaque firmwareKey : List Byte

/-- The certificate issued for the identity key (R418), at most 2,048 bytes are shown. DESIGN CHOICE 7. -/
opaque certificate : List Byte

/-- Flash capacity in 2 MiB pages, read from the NAND parameter pages at boot (RSL_FLASH). DESIGN CHOICE 7. -/
opaque flashPages : BitVec 24

/-- Features the firmware supports, bits 0 to 6 of R293. DESIGN CHOICE 7. -/
opaque firmwareFeatures : BitVec 7

/-- SHA-512, named by R310, R387, R399, R419 and others and defined outside the spec. DESIGN CHOICE 8. -/
opaque sha512 : List Byte → BitVec 512

/-- ECDSA P-521 verification: public key, hash, signature (R310, R399, R401, R414). DESIGN CHOICE 8. -/
opaque ecdsaVerify : List Byte → BitVec 512 → List Byte → Bool

/-- ECDSA P-521 signature of a hash with the identity key of the given entropy draw (R419, R423). DESIGN CHOICE 8. -/
opaque ecdsaSign : Nat → BitVec 512 → List Byte

/-- The public key of the identity key pair generated at the given entropy draw (R411, R418). DESIGN CHOICE 8. -/
opaque identityPublicKey : Nat → List Byte

/-- The n-th draw of the entropy source (R411, R414): a free value. DESIGN CHOICE 9. -/
opaque entropy : Nat → BitVec 512

/-- Which neighbour of the exact value an E1 or E2 row unit returns (profile, function, operand): true the upper
one. Each lies within 1 ulp of the exact value (R65). A free value. DESIGN CHOICE 10. -/
opaque rowUnitUpper : Nat → Nat → Word → Bool

/-- The statistics record an E1 or E2 update gives (profile, kind, record, unmasked lanes) (R125). A free value.
DESIGN CHOICE 11. -/
opaque earlierStatistics : Nat → Nat → BitVec 128 → List Word → BitVec 128

/-- What EXP, LOG, RCP and RSQRT (functions 0 to 3) return where the spec states no result: an infinite operand other
than the −∞ of EXP (R125), a zero or negative operand of LOG and RSQRT, a zero operand of RCP. A free value.
DESIGN CHOICE 10. -/
opaque rowUnitOpen : Nat → Word → Word

/-- A binary32 quotient R55 states no result for: a zero divisor, or an infinite operand. A free value. DESIGN
CHOICE 16. -/
opaque divOpen : Word → Word → Word

/-- The square root of a negative or infinite binary32 value (R264 states none). A free value. DESIGN CHOICE 16. -/
opaque sqrtOpen : Word → Word

/-- OFFSET of a mean offset (sum of the doubled offsets in 1/512 ns, number of exchanges) that 1/16 ns does not hold: its
bit 0 is the rounding direction, and all of it the reading outside the field's range (R318 states neither). A free value.
DESIGN CHOICE 19. -/
opaque offsetOpen : Int → Nat → BitVec 16

/-- How much faster than needed the discipline removes an offset, in parts per 10⁹ (R318: within 100 ms, no rate). A free
value. DESIGN CHOICE 19. -/
opaque steerExtra : Int → Nat → Nat

/-- The units that fail the shutdown tests (test code, unit) where a WRITE frame gives STANDBY or SHUTDOWN, by draw: nothing
in the frame says what the tests find (R464). A free value. DESIGN CHOICE 39. -/
opaque shutdownFailures : Nat → List (Nat × Nat)

/-- What a byte of a scratch page holds after the n-th re-key, against what memory lists for it (R224: undefined). A free
value. DESIGN CHOICE 5. -/
opaque staleByte : Nat → Nat → BitVec 8

/-- K of a scale record whose history of magnitudes holds a NaN (R71 states none). A free value. DESIGN CHOICE 55. -/
opaque scaleOpen : List Word → BitVec 8

/-- What a failed thermal sensor is taken to read whose die has no other one (R466 states none), by tick and unit. A free value.
DESIGN CHOICE 62. -/
opaque sensorOpen : Nat → Nat → BitVec 8

end Sys2Proof.Config
end

