-- ==== Sys2Proof/Machine/Float.lean ====
section
/-! DEFINITION. Element formats, exact arithmetic and rounding (02_number_formats.md). A finite value is held exactly as
a signed dyadic number, so every operation rounds once where the spec says it does. -/

namespace Sys2Proof.Machine

/-- A value: NaN, an infinity, or (−1)^neg × m × 2^e (R38). A zero keeps its sign. -/
inductive Num where
  | nan
  | inf (neg : Bool)
  | fin (neg : Bool) (m : Nat) (e : Int)
  deriving DecidableEq, Repr

/-- What the top exponent of a format encodes (R38). -/
inductive Special where
  | ieee | e4m3 | none
  deriving DecidableEq, Repr

/-- A scalar format (R38): exponent bits, mantissa bits, bias. -/
structure Fmt where
  eb   : Nat
  mb   : Nat
  bias : Nat
  special : Special
  deriving DecidableEq, Repr

/-- binary32. -/
def f32 : Fmt := ⟨8, 23, 127, .ieee⟩

/-- BF16. -/
def bf16 : Fmt := ⟨8, 7, 127, .ieee⟩

/-- The scalar or MX element format of an element format code (R35, R38); none for ACC48 and the reserved codes. -/
def fmtOf : Nat → Option Fmt
  | 0 => some f32
  | 1 => some bf16
  | 2 => some ⟨5, 10, 15, .ieee⟩
  | 3 => some ⟨4, 3, 7, .e4m3⟩
  | 4 => some ⟨5, 2, 15, .ieee⟩
  | 5 => some ⟨4, 3, 7, .e4m3⟩
  | 6 => some ⟨5, 2, 15, .ieee⟩
  | 7 => some ⟨3, 2, 3, .none⟩
  | 8 => some ⟨2, 3, 1, .none⟩
  | 9 => some ⟨2, 1, 1, .none⟩
  | _ => none

/-- Bits per element (R35). -/
def fmtBits : Nat → Nat
  | 0 => 32
  | 1 => 16
  | 2 => 16
  | 3 => 8
  | 4 => 8
  | 5 => 8
  | 6 => 8
  | 7 => 6
  | 8 => 6
  | 9 => 4
  | 10 => 48
  | _ => 0

/-- The MX codes (R35). -/
def isMX (c : Nat) : Bool := decide (5 ≤ c) && decide (c ≤ 9)

/-- The per-tensor scaled formats, E4M3 and E5M2 (R68). -/
def isScaled (c : Nat) : Bool := c == 3 || c == 4

/-- Operand class (R35): 0 F32, 1 Half, 2 FP8, 3 MX, 4 none. -/
def fmtClass (c : Nat) : Nat :=
  if c = 0 then 0 else if c ≤ 2 then 1 else if c ≤ 4 then 2 else if c ≤ 9 then 3 else 4

/-- Products per cell per clk (R35, R37). -/
def fmtProducts (c : Nat) : Nat :=
  if c = 0 then 1 else if c ≤ 2 then 4 else if c ≤ 8 then 8 else if c = 9 then 16 else 0

/-- Bits of a natural number. -/
def bitLen (n : Nat) : Nat := if n = 0 then 0 else Nat.log2 n + 1

/-- A signed dyadic number as a value; `z` is the sign a zero takes. -/
def Num.ofInt (i : Int) (e : Int) (z : Bool) : Num :=
  if i = 0 then .fin z 0 0 else .fin (decide (i < 0)) i.natAbs e

/-- The exact value of an encoding (R38, R40). -/
def decodeNum (f : Fmt) (bits : Nat) : Num :=
  let m := bits % 2 ^ f.mb
  let e := bits / 2 ^ f.mb % 2 ^ f.eb
  let s := decide (bits / 2 ^ (f.mb + f.eb) % 2 = 1)
  let lo : Int := 1 - (f.bias : Int) - f.mb
  if e = 2 ^ f.eb - 1 && f.special == .ieee then
    (if m = 0 then .inf s else .nan)
  else if e = 2 ^ f.eb - 1 && f.special == .e4m3 && m = 2 ^ f.mb - 1 then .nan
  else if e = 0 then .fin s m lo
  else .fin s (2 ^ f.mb + m) (lo + e - 1)

/-- Signed mantissa at a common exponent e0 ≤ e. -/
def alignInt (neg : Bool) (m : Nat) (e e0 : Int) : Int :=
  let v : Int := (m <<< (e - e0).toNat : Nat)
  if neg then -v else v

/-- The exact sum of two values (R55, R57). -/
def Num.add : Num → Num → Num
  | .nan, _ => .nan
  | _, .nan => .nan
  | .inf a, .inf b => if a = b then .inf a else .nan
  | .inf a, .fin .. => .inf a
  | .fin .., .inf b => .inf b
  | .fin s m e, .fin t n d =>
    let e0 := min e d
    Num.ofInt (alignInt s m e e0 + alignInt t n d e0) e0 (s && t && m == 0 && n == 0)

/-- The exact product of two values (R55). -/
def Num.mul : Num → Num → Num
  | .nan, _ => .nan
  | _, .nan => .nan
  | .inf a, .inf b => .inf (a != b)
  | .inf a, .fin t n _ => if n = 0 then .nan else .inf (a != t)
  | .fin s m _, .inf b => if m = 0 then .nan else .inf (s != b)
  | .fin s m e, .fin t n d => .fin (s != t) (m * n) (e + d)

/-- Negation. -/
def Num.neg : Num → Num
  | .nan => .nan
  | .inf a => .inf (!a)
  | .fin s m e => .fin (!s) m e

/-- Multiplication by 2^k. -/
def Num.scale (k : Int) : Num → Num
  | .fin s m e => .fin s m (e + k)
  | x => x

/-- The exact sum of a list; an exact zero is +0 unless every term is −0 (R57). -/
def Num.sum : List Num → Num
  | [] => .fin false 0 0
  | x :: xs => xs.foldl Num.add x

/-- Neither NaN nor infinite. -/
def Num.finite : Num → Bool
  | .fin .. => true
  | _ => false

/-- Zero of either sign. -/
def Num.isZero : Num → Bool
  | .fin _ m _ => m == 0
  | _ => false

/-- The sign of a finite value or infinity. -/
def Num.sign : Num → Bool
  | .nan => false
  | .inf s => s
  | .fin s _ _ => s

/-- a < b on non-NaN values, −0 = +0. -/
def Num.lt : Num → Num → Bool
  | .nan, _ => false
  | _, .nan => false
  | .inf a, .inf b => a && !b
  | .inf a, .fin .. => a
  | .fin .., .inf b => !b
  | .fin s m e, .fin t n d =>
    let e0 := min e d
    decide (alignInt s m e e0 < alignInt t n d e0)

/-- Equality of non-NaN values, −0 = +0. -/
def Num.eqv (a b : Num) : Bool :=
  match a, b with
  | .nan, _ => false
  | _, .nan => false
  | _, _ => !Num.lt a b && !Num.lt b a

/-- How an exact value is rounded: to nearest even (R47), to nearest with ties to +∞ (R61), stochastically with a
16-bit random value (R50). -/
inductive Rounding where
  | rne
  | rup
  | sr (r : Nat)
  deriving DecidableEq, Repr

/-- Round m × 2^e to a multiple n × 2^q of the quantum of its binade, without limit above (R50, R61). -/
def roundMag (f : Fmt) (mode : Rounding) (neg : Bool) (m : Nat) (e : Int) : Nat × Int :=
  let qmin : Int := 1 - (f.bias : Int) - f.mb
  let q := max qmin (e + bitLen m - 1 - f.mb)
  if q ≤ e then (m <<< (e - q).toNat, q)
  else
    let d := (q - e).toNat
    let n := m >>> d
    let rem := m % 2 ^ d
    let half := 2 ^ (d - 1)
    let up := match mode with
      | .rne => decide (rem > half) || (rem == half && n % 2 == 1)
      | .rup => decide (rem > half) || (rem == half && !neg)
      | .sr r => decide (rem ≠ 0) && decide (rem * 65536 / 2 ^ d + r ≥ 65536)
    (if up then n + 1 else n, q)

/-- The largest finite encoding without sign (R38). -/
def maxFinite (f : Fmt) : Nat :=
  match f.special with
  | .ieee => (2 ^ f.eb - 1) * 2 ^ f.mb - 1
  | .e4m3 => 2 ^ (f.eb + f.mb) - 2
  | .none => 2 ^ (f.eb + f.mb) - 1

/-- The sign bit of an encoding. -/
def signBit (f : Fmt) (neg : Bool) : Nat :=
  if neg then 2 ^ (f.eb + f.mb) else 0

/-- The canonical NaN of a format (R39); a format without NaN has none, and 0 stands. -/
def canonicalNaN (f : Fmt) : Nat :=
  match f.special with
  | .ieee => (2 ^ f.eb - 1) * 2 ^ f.mb + 2 ^ (f.mb - 1)
  | .e4m3 => 2 ^ (f.eb + f.mb) - 1
  | .none => 0

/-- The encoding without sign of n × 2^q, where q is a quantum of the format; it may exceed the largest finite. -/
def encodeMag (f : Fmt) (n : Nat) (q : Int) : Nat :=
  let qmin : Int := 1 - (f.bias : Int) - f.mb
  if n < 2 ^ f.mb then n
  else (q - qmin).toNat * 2 ^ f.mb + n

/-- The result of a conversion: its bits, and the flags it raises (R58): a non-finite value produced or consumed, a
finite value clamped. -/
structure Converted where
  bits    : Nat
  nonfin  : Bool
  clamped : Bool
  deriving DecidableEq, Repr

/-- One rounding of an exact value to a format (R47, R50, R52, R53). `sat` is the saturation field of R48, `mx` marks
an MX element (step 4 of R54), `flush` the P1 rule for subnormal results (R63). -/
def convert (f : Fmt) (mode : Rounding) (sat mx flush : Bool) : Num → Converted
  | .nan => ⟨canonicalNaN f, true, false⟩
  | .inf s =>
    match f.special with
    | .ieee => ⟨signBit f s + (2 ^ f.eb - 1) * 2 ^ f.mb, true, false⟩
    | .e4m3 => if sat then ⟨signBit f s + maxFinite f, true, false⟩ else ⟨canonicalNaN f, true, false⟩
    | .none => ⟨signBit f s + maxFinite f, true, false⟩
  | .fin s m e =>
    let (n, q) := roundMag f mode s m e
    let b := encodeMag f n q
    if b > maxFinite f then
      if mx || f.special == .none then ⟨signBit f s + maxFinite f, false, true⟩
      else match f.special with
        | .ieee => ⟨signBit f s + (2 ^ f.eb - 1) * 2 ^ f.mb, true, false⟩
        | _ => if sat then ⟨signBit f s + maxFinite f, false, true⟩ else ⟨canonicalNaN f, true, false⟩
    else if flush && decide (b < 2 ^ f.mb) then ⟨signBit f s, false, false⟩
    else ⟨signBit f s + b, false, false⟩

/-- binary32 bits as a value. -/
def dec32 (w : Word) : Num := decodeNum f32 w.toNat

/-- BF16 bits as a value. -/
def decBf (b : BitVec 16) : Num := decodeNum bf16 b.toNat

/-- rne32 (R61). -/
def rne32 (x : Num) : Word := BitVec.ofNat 32 (convert f32 .rne false false false x).bits

/-- rne32 with the P1 rule for subnormal results (R63). -/
def rne32p (flush : Bool) (x : Num) : Word := BitVec.ofNat 32 (convert f32 .rne false false flush x).bits

/-- rup32 (R61). -/
def rup32 (x : Num) : Word := BitVec.ofNat 32 (convert f32 .rup false false false x).bits

/-- A single rounding to BF16 (R64). -/
def rneBf (flush : Bool) (x : Num) : BitVec 16 := BitVec.ofNat 16 (convert bf16 .rne false false flush x).bits

/-- The canonical binary32 NaN (R39). -/
def nan32 : Word := 0x7FC00000#32

/-- An infinite or NaN binary32 value. -/
def nonfinite32 (w : Word) : Bool := decide (fld w 30 23 = 255)

/-- Subnormal binary32: replaced by zero of the same sign (the P1 input rule of R63). -/
def flush32 (w : Word) : Word := if fld w 30 23 = 0 then w &&& 0x80000000#32 else w

/-- A NaN is delivered as the canonical one (R39). -/
def canonical32 (w : Word) : Word := if nonfinite32 w && decide (fld w 22 0 ≠ 0) then nan32 else w

/-! ### Division, square root and the row unit's functions -/

/-- A correctly roundable quotient of finite values, the divisor not zero: 64 spare bits and a sticky bit. -/
def Num.divFin (s : Bool) (m : Nat) (e : Int) (n : Nat) (d : Int) : Num :=
  let k := bitLen n + 128
  let q := (m <<< k) / n
  let sticky := if (m <<< k) % n = 0 then 0 else 1
  if m = 0 then .fin s 0 0 else .fin s (2 * q + sticky) (e - d - k - 1)

/-- ⌊√n⌋ by one bit at a time from bit b. -/
def isqrtFrom (n : Nat) : Nat → Nat → Nat
  | 0, r => r
  | b + 1, r =>
    let r' := r + 2 ^ b
    isqrtFrom n b (if r' * r' ≤ n then r' else r)

/-- ⌊√n⌋. -/
def isqrt (n : Nat) : Nat := isqrtFrom n (bitLen n / 2 + 1) 0

/-- A correctly roundable square root of m × 2^e. -/
def Num.sqrtFin (m : Nat) (e : Int) : Num :=
  if m = 0 then .fin false 0 0
  else
    let odd := decide (e % 2 = 1)
    let m' := (if odd then 2 * m else m) <<< 256
    let e' := (if odd then e - 1 else e) / 2 - 128
    let r := isqrt m'
    .fin false (2 * r + (if r * r = m' then 0 else 1)) (e' - 1)

/-- A correctly rounded binary32 quotient (R264); R55 gives NaN operands their result, a zero divisor and infinite
operands have none stated. -/
def div32 (flush : Bool) (a b : Word) : Word :=
  match dec32 a, dec32 b with
  | .nan, _ => nan32
  | _, .nan => nan32
  | .fin s m e, .fin t n d => if n = 0 then canonical32 (Config.divOpen a b) else rne32p flush (Num.divFin (s != t) m e n d)
  | _, _ => canonical32 (Config.divOpen a b)

/-- A correctly rounded binary32 square root (R264). √±0 is ±0. -/
def sqrt32 (flush : Bool) (a : Word) : Word :=
  match dec32 a with
  | .nan => nan32
  | .fin s m e => if m = 0 then a else if s then canonical32 (Config.sqrtOpen a) else rne32p flush (Num.sqrtFin m e)
  | .inf _ => canonical32 (Config.sqrtOpen a)

/-- Fraction bits of the fixed-point evaluation of EXP and LOG (PRESUMED 15: enough for a correct rounding). -/
def fixBits : Nat := 320

/-- ⌊ln 2 × 2^400⌋. -/
def ln2Fix : Nat :=
  1789879222497203190815761498240779176894896805856420935579692301363062920687047601279850318367644315849030039181347319086

/-- Taylor series of exp in fixed point: the sum of term k and later ones, `fuel` terms. -/
def expSeries (r : Nat) : Nat → Nat → Nat → Nat
  | 0, _, _ => 0
  | fuel + 1, k, term => term + expSeries r fuel (k + 1) (term * r / 2 ^ fixBits / (k + 1))

/-- e^x of a finite non-zero value, to about 300 bits, with a sticky bit (e^x is irrational). -/
def Num.expFin (s : Bool) (m : Nat) (e : Int) : Num :=
  if e + bitLen m > 8 then (if s then .fin false 1 (-400) else .fin false 1 400)
  else
    let ln2 : Int := (ln2Fix / 2 ^ (400 - fixBits) : Nat)
    let x : Int :=
      let sh := e + fixBits
      let v : Nat := if 0 ≤ sh then m <<< sh.toNat else m >>> (-sh).toNat
      if s then -(v : Int) else v
    let k := x / ln2
    let r := (x - k * ln2).toNat
    let v := expSeries r 100 0 (2 ^ fixBits)
    .fin false (2 * v + 1) (k - fixBits - 1)

/-- The atanh series in fixed point: u + u³/3 + u⁵/5 + …, `fuel` terms; `p` is u^(2k+1). -/
def atanhSeries (u2 : Int) : Nat → Nat → Int → Int
  | 0, _, _ => 0
  | fuel + 1, k, p => p / (2 * k + 1 : Nat) + atanhSeries u2 fuel (k + 1) (p * u2 / (2 ^ fixBits : Nat))

/-- ln of m × 2^e, m not zero and the value not 1, to about 300 bits, with a sticky bit. -/
def Num.logFin (m : Nat) (e : Int) : Num :=
  -- z = m × 2^(−l) in [2/3, 4/3]
  let l0 := bitLen m
  let l := if 3 * m < 2 ^ (l0 + 1) then l0 - 1 else l0
  let one : Int := (2 ^ fixBits : Nat)
  let z : Int := ((m <<< fixBits) / 2 ^ l : Nat)
  let u := (z - one) * one / (z + one)
  let ln2 : Int := (ln2Fix / 2 ^ (400 - fixBits) : Nat)
  let v := 2 * atanhSeries (u * u / one) 120 0 u + (e + l) * ln2
  Num.ofInt (2 * v + (if v < 0 then -1 else 1)) (-(fixBits : Int) - 1) false

/-- 1/√(m × 2^e), m not zero, correctly roundable. -/
def Num.rsqrtFin (m : Nat) (e : Int) : Num :=
  let odd := decide (e % 2 = 1)
  let m' := if odd then 2 * m else m
  let e' := (if odd then e - 1 else e) / 2
  let n := 2 ^ (2 * (bitLen m' + 160))
  let r := isqrt (n / m')
  .fin false (2 * r + (if r * r * m' = n then 0 else 1)) (-e' - (bitLen m' + 160 : Nat) - 1)

/-- The exact value a row-unit function takes on an operand for which the spec states one: 0 EXP, 1 LOG, 2 RCP,
3 RSQRT (R65, and exp(−∞) = +0 of R125). -/
def rowExact (fn : Nat) (x : Num) : Option Num :=
  match fn, x with
  | _, .nan => some .nan
  | 0, .inf true => some (.fin false 0 0)
  | 0, .fin s m e => some (if m = 0 then .fin false 1 0 else Num.expFin s m e)
  | 1, .fin false m e =>
    if m = 0 then none
    else if Num.eqv (.fin false m e) (.fin false 1 0) then some (.fin false 0 0)
    else some (Num.logFin m e)
  | 2, .fin s m e => if m = 0 then none else some (Num.divFin s 1 0 m e)
  | 3, .fin false m e => if m = 0 then none else some (Num.rsqrtFin m e)
  | _, _ => none

/-- The largest binary32 magnitude not above a positive exact value, as an encoding without sign. -/
def floor32 (m : Nat) (e : Int) : Nat :=
  let q := max (-149 : Int) (e + bitLen m - 24)
  encodeMag f32 (if q ≤ e then m <<< (e - q).toNat else m >>> (q - e).toNat) q

/-- A value within 1 ulp of the exact one, upper or lower neighbour (R65 in P1 and P2); an exact binary32 value is
its own result, and beyond the largest finite one the neighbour is infinity. -/
def neighbour32 (upper : Bool) : Num → Word
  | .fin s m e =>
    let w := rne32 (.fin s m e)
    if Num.eqv (dec32 w) (.fin s m e) then w
    else
      let lo := floor32 m e
      -- the upper neighbour in value is the larger magnitude of a positive number
      let mag := if upper != s then lo + 1 else lo
      BitVec.ofNat 32 (signBit f32 s + min mag 0x7F800000)
  | x => rne32 x

/-- A row-unit function of one lane in a profile (R65): correctly rounded in P3, a free neighbour in P1 and P2, in P1 as in P2
of a subnormal operand and for a subnormal result too: the table of R63 names the vector unit. -/
def rowFn (profile fn : Nat) (x : Word) : Word :=
  match rowExact fn (dec32 x) with
  | none => canonical32 (Config.rowUnitOpen fn x)
  | some v => if profile = 3 then rne32 v else neighbour32 (Config.rowUnitUpper profile fn x) v

end Sys2Proof.Machine
end

