-- ==== Sys2Proof/Machine/Sparse.lean ====
section
/-! DEFINITION. Memories, register files and tables of the device as canonical lists: strictly rising keys, no entry
equal to zero, and zero for every key that is not listed. `Sparse 8` is a list of Host.Cell. -/

namespace Sys2Proof.Machine

/-- A store of w-bit values by number. -/
abbrev Sparse (w : Nat) := List (Nat × BitVec w)

/-- The value at key a; zero where none is listed. -/
def Sparse.get {w : Nat} : Sparse w → Nat → BitVec w
  | [], _ => 0
  | (k, v) :: m, a => if k = a then v else Sparse.get m a

/-- Put an entry before the first larger key. -/
def Sparse.place {w : Nat} (a : Nat) (v : BitVec w) : Sparse w → Sparse w
  | [] => [(a, v)]
  | (k, x) :: m => if a < k then (a, v) :: (k, x) :: m else (k, x) :: Sparse.place a v m

/-- Every key outside the given set, unchanged. -/
def Sparse.drop {w : Nat} (m : Sparse w) (p : Nat → Bool) : Sparse w :=
  m.filter (fun c => !p c.1)

/-- The store with v at key a. Writing zero unlists the key. -/
def Sparse.set {w : Nat} (m : Sparse w) (a : Nat) (v : BitVec w) : Sparse w :=
  let m' := Sparse.drop m (fun k => k == a)
  if v = 0#w then m' else Sparse.place a v m'

/-- Change the value at a key. -/
def Sparse.modify {w : Nat} (m : Sparse w) (a : Nat) (f : BitVec w → BitVec w) : Sparse w :=
  m.set a (f (m.get a))

/-- Zero in every key from lo to hi - 1. -/
def Sparse.clear {w : Nat} (m : Sparse w) (lo hi : Nat) : Sparse w :=
  Sparse.drop m (fun k => decide (lo ≤ k) && decide (k < hi))

/-- The non-zero values of a list as entries from key a on. -/
def Sparse.entries {w : Nat} : Nat → List (BitVec w) → Sparse w
  | _, [] => []
  | a, v :: vs => if v = 0#w then Sparse.entries (a + 1) vs else (a, v) :: Sparse.entries (a + 1) vs

/-- Write values at consecutive keys from a. -/
def Sparse.setList {w : Nat} (m : Sparse w) (a : Nat) (vs : List (BitVec w)) : Sparse w :=
  m.filter (fun c => decide (c.1 < a)) ++
    (Sparse.entries a vs ++ m.filter (fun c => decide (a + vs.length ≤ c.1)))

/-- The n values at consecutive keys from a. -/
def Sparse.getList {w : Nat} (m : Sparse w) (a n : Nat) : List (BitVec w) :=
  (List.range n).map (fun i => m.get (a + i))

/-- The n values at consecutive keys from a of a canonical list, read by walking it. -/
def Sparse.span {w : Nat} : Sparse w → Nat → Nat → List (BitVec w)
  | [], _, n => List.replicate n 0
  | (k, v) :: m, a, n =>
    if k < a then Sparse.span m a n
    else if a + n ≤ k then List.replicate n 0
    else List.replicate (k - a) 0 ++ v :: Sparse.span m (k + 1) (a + n - (k + 1))

/-- The canonical form: strictly rising keys and no zero entry. -/
def Sparse.wf {w : Nat} : Sparse w → Bool
  | [] => true
  | (k, v) :: m => v != 0#w && (m.all fun c => decide (k < c.1)) && Sparse.wf m

/-- The little-endian number in n bytes from address a (R4). -/
def Sparse.num (m : Sparse 8) (a n : Nat) : Nat :=
  leNat (m.getList a n)

end Sys2Proof.Machine
end

