-- ==== Sys2Proof/Machine/State.lean ====
section
/-! DEFINITION. The state of the device: everything the spec gives it, as plain data, and the queue of commands. A
register file or memory is a canonical list (Sparse.lean); a file of the cores is keyed with the core's number first. -/

namespace Sys2Proof.Machine

/-! ### The cores (03 to 07) -/

/-- Where a short operation's result goes (R146): lanes of a vector register from `lane` on, scalar registers from r
on, tile-store bytes from a 64-byte word on, accumulator-buffer entries from a row on, statistics records. -/
inductive Dest where
  | nowhere
  | vector (r lane : Nat) (vals : List Word)
  | scalar (r : Nat) (vals : List Word)
  | tile (word : Nat) (vals : List Word)
  | acc (row : Nat) (vals : List Word)
  | stat (recs : List (Nat × BitVec 128))
  deriving DecidableEq, Repr

/-- A short operation whose result is not yet written (R146): written at the end of schedule clk `due`, with the
sticky flags it sets then (R58). -/
structure Result where
  core   : Nat
  slot   : Nat
  bundle : Nat
  issue  : Nat
  due    : Nat
  dest   : Dest
  nonfin : Bool
  satf   : Bool
  deriving DecidableEq, Repr

/-- A ZERO or PRELOAD issued at schedule clk `clk` (R80, R81); a preload holds its base row O, whether its region is
ACC48, and the rows already written. -/
structure BankInit where
  core    : Nat
  mask    : Nat
  bank    : Nat
  clk     : Nat
  preload : Bool
  base    : Nat
  acc48   : Bool
  width   : Nat
  done    : Nat
  deriving DecidableEq, Repr

/-- A sweep in its arrays (R75, R180 to R184): the descriptors captured at issue, the first-slice clk, the number of
slices, and the group sums already written. -/
structure Sweep where
  core   : Nat
  slot   : Nat
  bundle : Nat
  issue  : Nat
  first  : Nat
  slices : Nat
  mask   : Nat
  bank   : Nat
  aRegs  : List (BitVec 128)
  bReg   : BitVec 128
  aCol   : Bool
  bCol   : Bool
  rshift : Bool
  chain  : Nat
  rows   : Nat
  cols   : Nat
  k      : Nat
  g      : Nat
  q      : Nat
  kscale : Int
  done   : Nat
  deriving DecidableEq, Repr

/-- A DRAIN or DRAINX (R88, R96): its first-read clk, the next row to read, the rows read and not yet arrived (256
entries each, array 0 first), the next row to arrive, the drain shadow of a DRAINX, and whether the status has been
cleared (R90). -/
structure Drain where
  core    : Nat
  slot    : Nat
  bundle  : Nat
  issue   : Nat
  first   : Nat
  mask    : Nat
  bank    : Nat
  clear   : Bool
  dest    : Nat
  regDesc : BitVec 128
  region  : Nat
  off     : Nat
  rnd     : Nat
  sat     : Bool
  scale   : Nat
  gen     : Nat
  offset  : Nat
  draw    : BitVec 64
  step    : BitVec 64
  micro   : BitVec 16
  copy    : Bool
  masked  : Bool
  qbase   : Nat
  kbase   : Nat
  started : Bool
  unread  : Nat
  buffer  : List (List Entry)
  toCome  : Nat
  shadow  : Sparse 48
  cleared : Bool
  deriving DecidableEq, Repr

/-- A core-to-core copy (R206): the producer's region at the receiver, the clk of issue, H, the byte addresses of its words in
the sender's and in the receiver's store in order, and how many have been written. -/
structure NetCopy where
  src    : Nat
  dst    : Nat
  region : Nat
  space  : Nat
  issue  : Nat
  delay  : Nat
  pairs  : List (Nat × Nat)
  sent   : Nat
  deriving DecidableEq, Repr

/-- The port claims of a scheduled user (R113, R114): each is ((clk × 2 + store) × 2 + write) × 128 + bank. -/
structure PortUser where
  core   : Nat
  slot   : Nat
  bundle : Nat
  issue  : Nat
  offset : Nat
  claims : List (Nat × Nat)
  deriving DecidableEq, Repr

/-- A scheduled producer or consumer of region `key` (core × 256 + n) that has issued: the schedule clk of its
completion point (table "Region roles and completion points"), and whether it has completed. -/
structure SchedEnd where
  key  : Nat
  prod : Bool
  due  : Nat
  done : Bool
  deriving DecidableEq, Repr

/-- A FILL or SPILL captured by a stream engine (R202): the cursor it starts at, whether it is the first after a
STREAM.LOAD or STREAM.ARM (R237), the elements (or MX blocks) moved, those sent to the bank die to accumulate with
their bits (R242), the bytes moved of elements that straddle sectors, and whether its region has already been completed. -/
structure Captured where
  core    : Nat
  engine  : Nat
  slot    : Nat
  bundle  : Nat
  issue   : Nat
  spill   : Bool
  add     : Bool
  desc    : BitVec 256
  regDesc : BitVec 128
  region  : Nat
  count   : Nat
  start   : Nat
  fresh   : Bool
  moved   : List Nat
  asked   : List (Nat × Nat)
  part    : List (Nat × Byte)
  freed   : Bool
  deriving DecidableEq, Repr

/-- The cores' registers, stores, arrays, units, scoreboards and stream engines. Keys: vreg core × 16384 + r × 256 +
lane; sreg core × 32 + r; tile core × 2^25 + byte; acc core × 2^20 + 64 × row + entry; bank ((core × 4 + array) × 4 +
bank) × 4096 + 64 i + j; bstat (core × 4 + array) × 4 + bank; dport core × 256 + lane; stat, region core × 256 + n;
gen, scale, stream core × 16 + n; readyV core × 64 + r, readyS core × 32 + r, readyD core × 4 + lane group (R148); slip
core × 64 + entry. `inflight` is ordered by due clk. `scaleMark`: bit 0 the slot is bound, bit 1 its record is
malformed (R72, R190). The logs hold what a write replaced and the clk at whose end it landed, so that a read can be
made as of an earlier clk; heldLog what elastic changes of clks 6 and 7 of a hold beat replaced (R153). -/
structure Cores where
  vreg      : Sparse 32
  sreg      : Sparse 32
  tile      : Sparse 8
  acc       : Sparse 32
  bank      : Sparse 48
  bstat     : Sparse 32
  dport     : Sparse 32
  stat      : Sparse 128
  gen       : Sparse 128
  gen0      : Sparse 64
  scale     : Sparse 128
  scaleMark : Sparse 2
  region    : Sparse 128
  schedEnds : List SchedEnd
  stream    : Sparse 256
  cursor    : Sparse 64
  fresh     : Sparse 1
  captured  : List Captured
  nonfin    : BitVec 16
  satf      : BitVec 16
  readyV    : Sparse 64
  readyS    : Sparse 64
  readyD    : Sparse 64
  inflight  : List Result
  inits     : List BankInit
  sweeps    : List Sweep
  drains    : List Drain
  rowFree   : Sparse 64
  drawClk   : Sparse 64
  nets      : List NetCopy
  ports     : List PortUser
  lost      : List (Nat × Nat)
  tileLog   : List (Nat × Byte × Nat)
  accLog    : List (Nat × Word × Nat)
  regionLog : List (Nat × BitVec 128 × Nat)
  heldLog   : List (Nat × BitVec 128)
  streamLog : List (Nat × (BitVec 256 × BitVec 64 × Bool) × Nat)
  slip      : Sparse 128
  slipBeats : Sparse 32
  slipSeq   : Sparse 16
  deriving DecidableEq, Repr

/-! ### The chip sequencer (05, 06) -/

/-- A section of the job image: TYPE, OFFSET, SIZE (R171, R172). -/
structure Section where
  typ  : Nat
  off  : Nat
  size : Nat
  deriving DecidableEq, Repr

/-- The header settings of the job image in force (R171), its position mask entries (R246) and its length. -/
structure Job where
  profile  : Nat
  width    : Nat
  cores    : Nat
  checked  : Bool
  clocked  : Bool
  halves   : BitVec 16
  holdLim  : Nat
  bcount   : Nat
  load     : Nat
  seed     : BitVec 128
  sections : List Section
  masks    : List Word
  length   : Nat
  deriving DecidableEq, Repr

/-- An active hardware loop (R161 to R163): its body's bundles, the latched count, the iterations left with the current
one, and whether a LOOP.BREAK marked it. -/
structure Loop where
  first : Nat
  last  : Nat
  count : Nat
  left  : Nat
  brk   : Bool
  deriving DecidableEq, Repr

/-- A run of hold beats (R156, R157): the bundle held, the epoch counter when it began, its beats, whether it was
caused only by WAIT so far, whether fetch held, per core the lowest failing region with its cause, the first
operation that failed in its last beat (chip lane, core, slot, offset), whether that beat was a fetch hold, and whether what it
waits for had come by the end of the tick of expiry (R322). -/
structure Hold where
  bundle : Nat
  start  : Nat
  beats  : Nat
  fetch  : Bool
  waits  : Bool
  cores  : List (Nat × Nat × Nat)
  who    : Bool × Nat × Nat × Nat
  late   : Bool
  met    : Bool
  deriving DecidableEq, Repr

/-- The fault record (SEQ_FAULT to SEQ_FAULT_OTHER), with the schedule clk that orders it (R170). -/
structure FaultRec where
  code   : Nat
  core   : Nat
  chip   : Bool
  slot   : Nat
  offset : Nat
  more   : Nat
  bundle : Nat
  info   : Nat
  aux    : Nat
  other  : Nat
  clk    : Nat
  deriving DecidableEq, Repr

/-- The chip sequencer: SEQ_MODE, the schedule, loops, holds, the fault record, the sequencer registers. `fresh`: the
next bundle is the first of its step; `look` is a SKIP.IF of the issuing bundle and its condition at the look clk
(R164); `bufFull`: the loop buffer holds its whole body (R160); `ahead`: bundles fetched beyond the current one on the
predicted path (R159); `fetched`: the target of `redirect` is in the run-ahead (R165); `looked`: the look clk of the current
beat has been tested. -/
structure Seq where
  checked    : Bool
  clocked    : Bool
  running    : Bool
  stopped    : Bool
  ended      : Bool
  job        : Option Job
  issued     : Nat
  current    : Option Nat
  redirect   : Option Nat
  flowOps    : Nat
  loops      : List Loop
  loopBuf    : Option (Nat × Nat)
  bufFull    : Bool
  ahead      : Nat
  fetched    : Bool
  looked     : Bool
  fresh      : Bool
  look       : Option (DWord × Bool)
  hold       : Option Hold
  fault      : FaultRec
  qreg       : Sparse 32
  microBatch : BitVec 16
  step       : DWord
  deriving DecidableEq, Repr

/-! ### Memory and bank dies (07, 09) -/

/-- A tag in use on a bank die (R229), for an operation issued at schedule clk `issue` in `slot`: what it does and its sector, the
operation itself while it waits for a channel out of service (R225), and whether its response comes too late for its core
position (R133). -/
structure Tag where
  die    : Fin 8
  pool   : Pool
  who    : Requester
  kind   : MemKind
  sector : Nat
  issue  : Nat
  slot   : Nat
  waits  : Option MemOp
  late   : Bool
  deriving DecidableEq, Repr

/-- A memory class entry (R227). -/
structure ClassEntry where
  first : Nat
  last  : Nat
  cls   : Nat
  deriving DecidableEq, Repr

/-- A Meadowsweet range: its first record, its pool span, its blocks (R259, R262). -/
structure Range where
  param  : Nat
  pool   : Nat
  blocks : Nat
  deriving DecidableEq, Repr

/-- Where a Meadowsweet launch stands (R266 to R268). -/
inductive LaunchPhase where
  | waiting | pass1 | final
  deriving DecidableEq, Repr

/-- A Meadowsweet launch (R267, R268): its descriptor, the schedule clk and chip slot of its OPT.LAUNCH, and the coefficient
record it read. -/
structure OptLaunch where
  desc  : Nat
  issue : Nat
  lane  : Nat
  phase : LaunchPhase
  coef  : List Word
  deriving DecidableEq, Repr

/-- HBM and the bank dies. `hbm` is keyed by local address, the pool copy of a block having the addresses of the pool span;
`stale` lists spans whose contents a re-key left undefined, as the number of that re-key, or 0 where they were written since
(R224; the first that holds an address governs); `bad` has one bit per 8-byte word by its physical place (R226); cur, staged and
snapCur (the copy current at the snapshot instant, R360) by block number. `held`: operations that wait for a tag, in order of
arrival; `maintenance`: stack, channel and idle tick of each event (R225); `lateCount`: responses that came too late (R133).
Registers of bank die b are keyed b. -/
structure Mem where
  hbm       : Sparse 8
  stale     : List (Nat × Nat × Nat)
  rekeys    : Nat
  bad       : Sparse 1
  classes   : List ClassEntry
  ranges    : List Range
  cur       : Sparse 1
  staged    : Sparse 1
  snapCur   : Sparse 1
  salt      : Word
  salts     : List Word
  keyIndex  : BitVec 4
  keyPending : Bool
  autokey   : Bool
  imbal     : Bool
  imbalStack : BitVec 5
  imbalRatio : BitVec 8
  imbalWindows : BitVec 16
  ce        : Sparse 16
  ue        : Sparse 8
  ueAddr    : Sparse 24
  tags      : List Tag
  held      : List MemOp
  lateCount : Nat
  tagPeak   : Sparse 16
  tagWaits  : Sparse 32
  dropped   : Word
  ueReport  : Bool
  nonfin    : BitVec 8
  optDesc   : Sparse 12
  optPass   : Sparse 2
  optBusy   : BitVec 8
  optCount  : Sparse 32
  launches  : List OptLaunch
  launched  : List Nat
  digest    : DWord
  patrol    : Nat
  maintenance : List (Nat × Nat × Nat)
  deriving DecidableEq, Repr

/-! ### Vetch (08) -/

/-- A stash entry held or dropped (R249 to R251), with the commit count of the step that pushed it (R252, R281). -/
structure StashEntry where
  set     : Nat
  index   : Nat
  fmt     : Nat
  count   : Nat
  dropped : Bool
  spilled : Bool
  granules : List Nat
  born    : DWord
  deriving DecidableEq, Repr

/-- What the group decision of the issuing bundle gave a push (R249): the count and entry index it uses, the register of the
two that was read too early, if any (INFO of LATENCY, R148), its outcome (0 placed, 1 spilled, 2 dropped, 3 fault; 4 for a push
whose decided values fault; 5 where the group's fault has been raised), and the entry that it freed. -/
structure PushPlan where
  set   : Nat
  core  : Nat
  slot  : Nat
  count : Nat
  index : Nat
  early : Option Nat
  outcome : Nat
  granules : List Nat
  old   : Option StashEntry
  deriving DecidableEq, Repr

/-- A push or pop in progress: Vetch's addresses of its granules in order, the bytes moved of each sector, and the bytes a pop
has read of elements that it has not written. -/
structure StashOp where
  core    : Nat
  region  : Nat
  regDesc : BitVec 128
  push    : Bool
  spilled : Bool
  count   : Nat
  issue   : Nat
  grans   : List Nat
  moved   : List (Nat × BitVec 512)
  part    : List (Nat × Byte)
  deriving DecidableEq, Repr

/-- Vetch; registers are keyed by set. `twin` holds what was spilled into the Twin's memory, by its address there. -/
structure Stash where
  entries : List StashEntry
  plan    : List PushPlan
  ops     : List StashOp
  twin    : Sparse 8
  drops   : Sparse 24
  orphan  : Sparse 8
  spills  : Sparse 32
  peak    : Sparse 28
  area    : Option (Nat × Nat)
  deriving DecidableEq, Repr

/-! ### Speedwell ports and the torus (10) -/

/-- The states of a port (R291), in the order of their codes. -/
inductive PortMode where
  | down | train | ident | check | up | mgmt | miswired
  deriving DecidableEq, Repr

/-- A Speedwell port (R284): LINK_STATE to LINK_FEAT, the last identity block received, lane groups out of use (R289) and
those the self-test found bad (R466),
whether it trains for Speedwell 3 (R292) or waits to retry, a wake pattern pending before training (R442), its sequence
numbers, the packets of its replay buffer and those that wait for room in it (R288), whether a block came since it trained
(R297), the packet counts of the step (R279), exchanges since it was last DOWN
(R320), the measured link delay in 1/512 tick and the peer's stratum (R316, R317). -/
structure Port where
  mode     : PortMode
  version  : BitVec 2
  half     : Bool
  label    : BitVec 3
  remap    : Bool
  cause    : BitVec 4
  downs    : BitVec 8
  peer     : Option IdBlock
  crcErr   : BitVec 16
  replays  : BitVec 16
  missing  : BitVec 8
  groupsOut : BitVec 4
  badGroups : BitVec 4
  fast     : Bool
  retry    : Bool
  heard    : Bool
  wakeSent : Bool
  rxSeq    : Word
  txSeq    : Word
  unacked  : List Packet
  waiting  : List Packet
  fails    : Nat
  sent     : Word
  received : Word
  exchanges : Nat
  wasDown  : Bool
  delay    : Int
  stratum  : BitVec 6
  deriving DecidableEq, Repr

/-- The links of the device: its ports, bytes 0 to 59 of the topology in force and of an accepted update that waits
(R312), links that notices report not UP (the coordinate and label of one end), labels of own links that were not UP at some time
since the last commit instant (R326), notices seen with the tick of
each (R307), LINK_UNREACH. -/
structure Link where
  ports    : List Port
  topo     : List Byte
  waiting  : Option (List Byte)
  downLinks : List (BitVec 18 × BitVec 3)
  away     : List (BitVec 3)
  notices  : List (Notice × DWord)
  unreach  : Word
  deriving DecidableEq, Repr

/-! ### Time base and collectives (11) -/

/-- The epoch counter and its discipline: LINK_EPOCH to LINK_ORIGIN, the offsets of this interval's exchanges with the
parent (in 1/512 tick), the runs of intervals within 2 ns and outside 30 ns (R318) and of those a root has been without
IEEE 1588 (R320), whether IEEE 1588 time is present on the Ethernet port, whether the boot waits to load the counter (R315), and the
last Sync: its t1 once it is known, and t2 (R384). -/
structure Time where
  epoch    : DWord
  epochHi  : Word
  parent   : BitVec 3
  ptp      : Bool
  loaded   : Bool
  locked   : Bool
  holdover : Bool
  alarm    : Bool
  stratum  : BitVec 6
  offset   : BitVec 16
  rate     : Word
  origin   : DWord
  thetas   : List Int
  inside   : Nat
  outside  : Nat
  lostFor  : Nat
  ptpSeen  : Bool
  loading  : Bool
  sync     : Option (Option Nat × Nat)
  deriving DecidableEq, Repr

/-- A region bound to a launch (R330): its core, region and descriptor, the schedule clk of the operation, the elements, WIDEN,
the relay step it takes, whether its data has all been read or written, and whether its region has been completed. -/
structure Binding where
  core    : Nat
  region  : Nat
  issue   : Nat
  regDesc : BitVec 128
  count   : Nat
  widen   : Bool
  step    : Nat
  doneB   : Bool
  freed   : Bool
  deriving DecidableEq, Repr

/-- A chunk held for a launch (R333): the rank that sent it, its direction, its index, its bytes. -/
structure Chunk where
  rank  : Nat
  down  : Bool
  index : Nat
  data  : List Byte
  deriving DecidableEq, Repr

/-- A chunk that waits for credit on an edge of a launch (R333, R338): the rank it goes to, its direction, bytes 20 to 27 of its
packet, its bytes, and the tick since which the edge has been blocked. -/
structure Wait where
  desc  : Nat
  rank  : Nat
  down  : Bool
  aux   : Nat
  data  : List Byte
  since : DWord
  deriving DecidableEq, Repr

/-- A join over the job tree (R321, R347, R367): children's payloads with their ranks, this device's own until it has gone up,
whether this device takes part, and the joined payload as far as it has come down, and whole. -/
structure TreeJoin where
  kids    : List (Nat × List Byte)
  own     : Option (List Byte)
  entered : Bool
  part    : List Byte
  down    : Option (List Byte)
  deriving DecidableEq, Repr

/-- A launch of a collective (R332): registered by COLL.LAUNCH, or only bound yet (R330), with the schedule clk and chip slot of
its COLL.LAUNCH. `vector` is the device's own vector in wire format once started; `result` what has arrived for its receive
bindings; `seen` the (2 × rank + down, index) of the chunks received; `given` the chunks of credit granted by 2 × rank + down
(R333). -/
structure Launch where
  desc       : Nat
  slot       : Nat
  issue      : Nat
  lane       : Nat
  registered : Bool
  started    : Bool
  slipped    : Bool
  slips      : Nat
  epoch      : Word
  sends      : List Binding
  recvs      : List Binding
  vector     : List Byte
  chunks     : List Chunk
  result     : List Chunk
  seen       : List (Nat × Nat)
  given      : List (Nat × Nat)
  deriving DecidableEq, Repr

/-- The collective engine: its launches in order, the layout epoch, the ring peers' epoch-drained exchanges received
(R344) and whether this device has sent its own, the counters of R332, R338 and R345, senders shut out (R345), the
non-finite flag (R336), and per queue descriptor the credits taken, the items received, the chunks landed of the next one and the
items delivered (R340); credit held (descriptor × 2^19 + 2 × rank + down) and the chunks that wait for it (R333); the joins of the
commit reduction and of barriers. -/
structure Coll where
  launches : List Launch
  layout   : Word
  drained  : List (BitVec 18 × BitVec 16)
  told     : Bool
  miss     : Word
  lastDesc : BitVec 12
  lastSlots : BitVec 16
  stale    : BitVec 16
  fenced   : BitVec 8
  mcast    : BitVec 8
  barred   : List (BitVec 18)
  nonfin   : Bool
  taken    : Sparse 8
  itemsIn  : Sparse 32
  landed   : Sparse 32
  itemsOut : Sparse 32
  credit   : Sparse 32
  waits    : List Wait
  reduction : TreeJoin
  barrier  : TreeJoin
  deriving DecidableEq, Repr

/-! ### The commit, snapshots and recovery (09, 12) -/

/-- Where a STEP.COMMIT stands (R275). -/
inductive CommitPhase where
  | idle | gathered | launched | decided
  deriving DecidableEq, Repr

/-- STEP.COMMIT: the local gather (NF, SOURCES bits 0 to 3, PENDING maxima), SEQ_COMMIT and SEQ_SKIPS, the joined BUSY
of the last instant (R357), whether that step committed, and whether its completion was delayed (R392). -/
structure Commit where
  phase   : CommitPhase
  nf      : Bool
  sources : BitVec 5
  pend    : List Word
  last    : BitVec 2
  limit   : Bool
  skiprun : Nat
  skips   : Word
  busy    : Bool
  good    : Bool
  late    : Bool
  deriving DecidableEq, Repr

/-- The content of a state record and of a rewind point (R354, R359). -/
structure StateRecord where
  c       : DWord
  step    : DWord
  cursor  : DWord
  layout  : Word
  bundle  : Word
  slotq   : DWord
  jobtag  : BitVec 16
  skiprun : Nat
  coord   : BitVec 18
  serial  : BitVec 128
  q       : Sparse 32
  loops   : List Loop
  pages   : Nat
  partner : BitVec 18
  gen     : Sparse 128
  streams : Sparse 256
  cursors : Sparse 64
  deriving DecidableEq, Repr

/-- A snapshot slot (RSL_SNAP, RSL_SNAPC): the record captured for it, layers whose copy runs, lower layers whose copy is due but
has not begun, the writes of its store copy that are done (R393), layers whose copy is damaged. -/
structure Slot where
  state   : BitVec 3
  partner : Bool
  flash   : Bool
  store   : Bool
  secure  : Bool
  c       : DWord
  record  : Option StateRecord
  copying : List Layer
  due     : List Layer
  stored  : Nat
  bad     : List Layer
  deriving DecidableEq, Repr

/-- Where a recovery stands (R367 to R372): the restore waits for the image and then the pages; `verify` runs from the
restart to the replayed commit; `release` awaits the release barrier; `ended` issues no further bundle. -/
inductive RecoveryPhase where
  | idle | decide | image | pages | restart | verify | release | ended
  deriving DecidableEq, Repr

/-- Resilience: RSL registers, slots, the slot being filled and its pages left, local flash (keyed by slot × 2^50 +
page × 2 MiB + byte), what the device wrote to its slots on the partner (keyed alike) and to the header of the area there
(R349, keyed 2^51 + byte), the commit count, the last snapshot, the rewind point, the recovery in progress with its
target, bound on candidates, layer and pages still to read, the record being restored and the step record to replay; the
partner in force, the first page of the area it reserves here for, whether it is reached over the torus (R376) and whether it was
lost in this job (R364); the pages of the area of a lost device that a spare reserves (R376); the step records in the ring (those
above `ringLow`, up to `recHigh`) and those that a spare found in the directory (R366). -/
structure Rsl where
  first    : BitVec 2
  sameFeed : Bool
  policy   : Bool
  plost    : Bool
  rngSkew  : Bool
  verifyFail : Bool
  slots    : List Slot
  filling  : Option Nat
  left     : List Nat
  touches  : Word
  defers   : BitVec 16
  flashPages : BitVec 24
  flash    : Sparse 8
  remote   : Sparse 8
  commits  : DWord
  lastSnap : DWord
  snapNo   : Nat
  rewind   : Option StateRecord
  last     : BitVec 2
  source   : BitVec 4
  cause    : BitVec 8
  runs     : BitVec 8
  count    : BitVec 8
  phase    : RecoveryPhase
  need     : Bool
  target   : DWord
  limit    : Option DWord
  layer    : Layer
  reading  : List Nat
  record   : Option StateRecord
  replay   : List Byte
  mismatch : Bool
  start    : Option DWord
  pcoord   : BitVec 18
  pfirst   : Nat
  viaTorus : Bool
  gone     : Bool
  lent     : Option Nat
  ringLow  : Nat
  recHigh  : Nat
  known    : List Nat
  deriving DecidableEq, Repr

/-! ### Ethernet and services (13) -/

/-- Where the lease stands: ETH_LEASE STATE, and before it the steps 2 to 4 of R387. -/
inductive LeasePhase where
  | none | slotRead | swap | claimed | confirmed | lapsing | releasing
  deriving DecidableEq, Repr

/-- What a transfer is for (R378 to R393). -/
inductive TransferUse where
  | directory | image | leaseSlot | claimSwap | renewal | entryState | unit (n : Nat) | partner | restoreImage | page (n : Nat) | flash
  | stepRecord | scanRecord (n : Nat) | write | record | release | store (slot : Nat)
  deriving DecidableEq, Repr

/-- A transfer in flight (R383): its target (0 to 7: a storage target; 8: the directory server; 9: the partner; 10: local flash),
the namespace and place it reads or writes, the bytes asked for, the bytes written; whether it was retried, whether it waits for
the target to be tried again, and the tick of its issue or of its being given up. -/
structure Pending where
  id      : Nat
  target  : Nat
  use     : TransferUse
  ns      : Nat
  addr    : Nat
  count   : Nat
  bytes   : List Byte
  retried : Bool
  parked  : Bool
  issued  : DWord
  deriving DecidableEq, Repr

/-- A peer of the Ethernet port (R379 to R382): the job-directory server, the admin queue or an I/O queue of a storage target, a
host of the access list. -/
inductive Peer where
  | server
  | admin (target : Nat)
  | queue (target : Nat)
  | host (entry : Nat)
  deriving DecidableEq, Repr

/-- A reliable connection that the device holds (R379). -/
structure Conn where
  peer   : Peer
  number : Nat
  deriving DecidableEq, Repr

/-- What a RoCEv2 message goes out under (R377, R379): UDP port, DSCP mark, lossless priority, VLAN of its 802.1Q tag, connection,
and its packets at the path MTU. -/
structure Roce where
  port     : Nat
  dscp     : Nat
  priority : Nat
  vlan     : Option Nat
  conn     : Option Nat
  packets  : Nat
  deriving DecidableEq, Repr

/-- A command of the NVMe admin queue (R382), and the Connect of an I/O queue. -/
inductive Capsule where
  | connect | identify (ns : Nat) | keepAlive
  deriving DecidableEq, Repr

/-- The Ethernet port: its registers, connections with the number of the next one, namespaces identified (target, number),
transfers, the directory entries still to try (number and bytes), the lease (entry, its number, rank, OWNER value, EXPIRY, the
tick at which step 7 of R387 began, a graceful stop waiting), the dataset feed (cursor, units resident, units read that wait for
an earlier one, next unit to fetch), the status record with its log and the step its rewrite stands at (R395), and lanes the
self-test found bad (R466). -/
structure Eth where
  up       : Bool
  mode     : BitVec 2
  downs    : BitVec 8
  uncorr   : BitVec 16
  refused  : BitVec 16
  reach    : BitVec 8
  retries  : BitVec 8
  conns    : List Conn
  nextConn : Nat
  spaces   : List (Nat × Nat)
  transfers : List Pending
  nextId   : Nat
  polled   : List (Nat × List Byte)
  phase    : LeasePhase
  entry    : List Byte
  entryNo  : Nat
  rank     : Nat
  owner    : DWord
  expiry   : DWord
  since    : DWord
  fails    : BitVec 8
  stopping : Bool
  spare    : Bool
  cursor   : DWord
  stepCursor : DWord
  resident : List Nat
  arrived  : List (Nat × List Byte)
  nextUnit : Nat
  feedWaits : BitVec 16
  status   : List Byte
  rewrite  : Nat
  reports  : Word
  log      : List (BitVec 64)
  badLanes : BitVec 8
  deriving DecidableEq, Repr

/-! ### Boot, security, the chain (14) -/

/-- An audit entry (R421). -/
structure AuditEntry where
  seq     : DWord
  epoch   : DWord
  event   : BitVec 16
  role    : Role
  path    : Path
  detail1 : Word
  detail2 : DWord
  raw     : Option (List Byte)
  chain   : List Byte
  deriving DecidableEq, Repr

/-- The Harebell island: SEC and MGT registers, the boot flash (slots A and B and boot control, by address), fuses, the
record in force, the staging window, the attestation report, the audit log, the session, the chain. `idDraw` is the
entropy draw of the identity key, `slotBad` the validity marks of the slots (R405); `sealed` whether the audit log ends in a seal and
the supply has not been lost but orderly (R423, R478), `sealDue` a seal that its second had no room for (R424); the identity block as it
was last written (R432). -/
structure Sec where
  stage    : Nat
  life     : BitVec 3
  bootfail : Bool
  svn      : BitVec 6
  enrolled : List (BitVec 512)
  slot     : Bool
  trial    : Bool
  nor      : Sparse 8
  record   : List Byte
  staging  : Sparse 8
  result   : BitVec 3
  idDraw   : Option Nat
  role     : Option Role
  key      : BitVec 2
  fails    : BitVec 4
  lockout  : Bool
  nonce    : BitVec 512
  attNonce : Sparse 32
  attesting : Option (Option (Fin 7) × BitVec 256)
  attQueue : List (Fin 7 × BitVec 256)
  report   : List Byte
  ready    : Bool
  audit    : List AuditEntry
  head     : DWord
  lastSeal : DWord
  sealed   : Bool
  sealDue  : Bool
  second   : DWord
  written  : Nat
  suppressed : List (BitVec 16 × DWord)
  auditBase : Word
  addr     : BitVec 12
  overflow : Bool
  bypass   : Bool
  align    : BitVec 8
  denied   : BitVec 8
  crcErr   : BitVec 16
  opsVoid  : Bool
  slotBad  : BitVec 2
  capability : List Byte
  idKey    : List Byte
  cert     : List Byte
  deriving DecidableEq, Repr

/-! ### Power (15, 17) and core positions (04) -/

/-- A core position (CORE_POS): STATE, LOGICAL, WIDTH, CAUSE, UNCOR, its bad columns (R101, R103), and the errors corrected in
its tile store and accumulator buffer (R115; no register shows them). -/
structure Position where
  state   : BitVec 3
  logical : BitVec 4
  width   : Nat
  cause   : BitVec 4
  uncor   : BitVec 8
  bad     : DWord
  corrected : Nat
  deriving DecidableEq, Repr

/-- Power: PWR registers, the current excursion in µs, µs since the last halving, the samples of this ms, the domains
on, those waking with the step they are in (R439), the state the wake is for, the code of what it was begun for (R452), the
sources recorded for it and the tick they came in (R443), whether the audit log ended in a seal as the device left Standby (R465),
the wake record by byte, the latched wake sources (R443), EN and PG by rail and the tick at which a rail was last disabled (R476), the
positions, domains woken for management alone (R444), and the last rule of R447 that acted: its µs, whether it was that of the 1 ms
decision, and the pace before it. -/
structure Pwr where
  state   : BitVec 3
  busy    : Bool
  intlk   : Bool
  pwrok   : Bool
  result  : BitVec 2
  pace    : BitVec 5
  pmax    : BitVec 5
  limiter : BitVec 3
  plimit  : BitVec 12
  tthrot  : BitVec 7
  retidle : Word
  avg     : BitVec 16
  peak    : BitVec 16
  excurs  : BitVec 16
  longest : BitVec 16
  excursion : Nat
  sinceHalf : Nat
  sum     : Nat
  samples : Nat
  domains : BitVec 40
  waking  : List (Nat × WakeStep)
  goal    : BitVec 3
  tj      : BitVec 8
  tstack  : BitVec 8
  trips   : BitVec 8
  throt   : Bool
  tripped : Bool
  intlkStop : Bool
  lastWake : BitVec 8
  wakes   : BitVec 8
  wakeHead : BitVec 3
  wakeRec : Sparse 8
  latched : List (Nat × Nat)
  source  : BitVec 8
  sources : List (Nat × Nat)
  wakeAt  : DWord
  orderly : Bool
  enable  : BitVec 9
  good    : BitVec 9
  railDrop : DWord
  mgmtOnly : Bool
  paceLast : Option (DWord × Bool × BitVec 5)
  positions : List Position
  capable : List (Option Nat)
  deriving DecidableEq, Repr

/-! ### Counters, Eyebright, Cowslip (16) -/

/-- A sampled operation in flight (R460 to R463): the record's fields known at issue, the region its completion point
names, and the arithmetic clk and hold-beat counts at issue. -/
structure Sample where
  bundle : Nat
  who    : BitVec 8
  cls    : Nat
  opcode : Nat
  elastic : Bool
  issue  : Nat
  core   : Nat
  slot   : Nat
  region : Option Nat
  desc   : Option Nat
  clks   : Nat
  holds  : Nat
  deriving DecidableEq, Repr

/-- The counters block and the self-test block. `clks` counts arithmetic clks and `heldBeats` hold beats since job
start; the stored analogue set has its tick and whether it has served a boot. -/
structure Mon where
  sel     : Sparse 32
  val     : Sparse 64
  valHi   : Sparse 32
  ranges  : Sparse 32
  beats   : DWord
  beatsHi : Word
  holds   : Sparse 32
  coreHolds : Sparse 32
  clks    : Nat
  heldBeats : Nat
  cleared : Bool
  eyeCount : Nat
  eyeSeq  : Nat
  eyeHead : BitVec 15
  wrapped : Bool
  full    : Bool
  lost    : Word
  samples : List Sample
  eye     : Sparse 8
  setValid : Bool
  setUsed : Bool
  setTick : DWord
  running : Bool
  quick   : Bool
  bistFails : BitVec 8
  bistResult : BitVec 2
  results : Sparse 32
  stored  : Sparse 32
  failLog : Sparse 8
  monitorCap : Bool
  badSensors : List Nat
  deriving DecidableEq, Repr

/-! ### Messages -/

/-- A message the device sends, in the order of sending. -/
inductive OutMsg where
  | identity (port : Nat) (bytes : List Byte)
  | packet (port : Nat) (p : Packet)
  | ack (port : Nat) (lseq : Word)
  | replay (port : Nat) (lseq : Word)
  | wakePattern (port : Nat)
  | chain (f : Frame)
  | rdma (r : Roce) (entry : Nat) (bytes : List Byte)
  | refused (r : Roce)
  | congestion (r : Roce)
  | answer (r : NetRequest) (address : BitVec 128)
  | transfer (r : Roce) (t : Pending)
  | capsule (r : Roce) (target : Nat) (c : Capsule)
  | delayRequest
  deriving DecidableEq, Repr

/-! ### The machine -/

/-- The state of the device. `pending` is the queue of commands; `uptime` counts idle ticks and `drawn` the draws taken
from the entropy source (both the model's own). -/
structure State where
  pending : List Instr
  uptime  : Nat
  drawn   : Nat
  cu      : Cores
  seq     : Seq
  mem     : Mem
  stash   : Stash
  link    : Link
  time    : Time
  coll    : Coll
  commit  : Commit
  rsl     : Rsl
  eth     : Eth
  sec     : Sec
  pwr     : Pwr
  mon     : Mon
  outbox  : List OutMsg
  deriving DecidableEq, Repr

/-- No command stops the model: a chip fault is state (05), so this type is empty of members a meaning answers with.
`none` is raised by nobody; it is safe. -/
inductive Fault where
  | none
  deriving DecidableEq, Repr

/-- Why a command has no meaning. -/
inductive Refusal where
  /-- Answered by an arm of exec that is not modelled; safe. -/
  | notModelled (mnemonic : String)
  deriving DecidableEq, Repr

/-! ### Reset -/

/-- The cores after reset. -/
def Cores.reset : Cores :=
  { vreg := [], sreg := [], tile := [], acc := [], bank := [], bstat := [], dport := [], stat := [], gen := [],
    gen0 := [], scale := [], scaleMark := [], region := [], schedEnds := [], stream := [],
    cursor := [], fresh := [], captured := [], nonfin := 0, satf := 0, readyV := [], readyS := [], readyD := [],
    inflight := [], inits := [], sweeps := [], drains := [], rowFree := [], drawClk := [], nets := [], ports := [],
    lost := [], tileLog := [], accLog := [], regionLog := [], heldLog := [], streamLog := [], slip := [], slipBeats := [],
    slipSeq := [] }

/-- No fault recorded. -/
def FaultRec.none : FaultRec :=
  { code := 0, core := 0, chip := false, slot := 0, offset := 0, more := 0, bundle := 0, info := 0, aux := 0,
    other := 0, clk := 0 }

/-- The sequencer after reset. -/
def Seq.reset : Seq :=
  { checked := false, clocked := false, running := false, stopped := false, ended := false, job := none, issued := 0,
    current := none, redirect := none, flowOps := 0, loops := [], loopBuf := none,
    bufFull := false, ahead := 0, fetched := false, looked := false, fresh := false, look := none, hold := none,
    fault := FaultRec.none, qreg := [], microBatch := 0, step := 0 }

/-- Memory and bank dies after reset. -/
def Mem.reset : Mem :=
  { hbm := [], stale := [], rekeys := 0, bad := [], classes := [], ranges := [], cur := [], staged := [], snapCur := [], salt := 0, salts := [],
    keyIndex := 0, keyPending := false, autokey := false, imbal := false, imbalStack := 0, imbalRatio := 0,
    imbalWindows := 0, ce := [], ue := [], ueAddr := [], tags := [], held := [], lateCount := 0, tagPeak := [], tagWaits := [], dropped := 0,
    ueReport := false, nonfin := 0, optDesc := [], optPass := [], optBusy := 0, optCount := [], launches := [],
    launched := [], digest := 0, patrol := 0, maintenance := [] }

/-- Vetch after reset. -/
def Stash.reset : Stash :=
  { entries := [], plan := [], ops := [], twin := [], drops := [], orphan := [], spills := [], peak := [],
    area := none }

/-- A port after reset. -/
def Port.reset : Port :=
  { mode := .down, version := 0, half := false, label := 0, remap := false, cause := 0, downs := 0, peer := none,
    crcErr := 0, replays := 0, missing := 0, groupsOut := 0, badGroups := 0, fast := false, retry := false, heard := false, wakeSent := false,
    rxSeq := 0, txSeq := 0, unacked := [], waiting := [], fails := 0, sent := 0, received := 0, exchanges := 0, wasDown := false,
    delay := 0, stratum := 63 }

/-- The links after reset. -/
def Link.reset : Link :=
  { ports := List.replicate 7 Port.reset, topo := [], waiting := none, downLinks := [], away := [], notices := [], unreach := 0 }

/-- The time base after reset. -/
def Time.reset : Time :=
  { epoch := 0, epochHi := 0, parent := 7, ptp := false, loaded := false, locked := false, holdover := false,
    alarm := false, stratum := 63, offset := 0, rate := 0, origin := 0, thetas := [], inside := 0, outside := 0,
    lostFor := 0, ptpSeen := false, loading := false, sync := none }

/-- No join in progress. -/
def TreeJoin.empty : TreeJoin := { kids := [], own := none, entered := false, part := [], down := none }

/-- The collective engine after reset. -/
def Coll.reset : Coll :=
  { launches := [], layout := 0, drained := [], told := false, miss := 0, lastDesc := 0, lastSlots := 0, stale := 0,
    fenced := 0, mcast := 0, barred := [], nonfin := false, taken := [], itemsIn := [], landed := [],
    itemsOut := [], credit := [], waits := [], reduction := TreeJoin.empty, barrier := TreeJoin.empty }

/-- The commit after reset. -/
def Commit.reset : Commit :=
  { phase := .idle, nf := false, sources := 0, pend := [], last := 0, limit := false, skiprun := 0, skips := 0,
    busy := false, good := false, late := false }

/-- An empty snapshot slot. -/
def Slot.empty : Slot :=
  { state := 0, partner := false, flash := false, store := false, secure := false, c := 0, record := none,
    copying := [], due := [], stored := 0, bad := [] }

/-- Resilience after reset. -/
def Rsl.reset : Rsl :=
  { first := 0, sameFeed := false, policy := false, plost := false, rngSkew := false, verifyFail := false,
    slots := [Slot.empty, Slot.empty], filling := none, left := [], touches := 0, defers := 0, flashPages := 0,
    flash := [], remote := [], commits := 0, lastSnap := 0, snapNo := 0, rewind := none, last := 0, source := 0, cause := 0,
    runs := 0, count := 0, phase := .idle, need := false, target := 0, limit := none, layer := .partner,
    reading := [], record := none, replay := [], mismatch := false, start := none, pcoord := 0, pfirst := 0, viaTorus := false
    gone := false, lent := none, ringLow := 0, recHigh := 0, known := [] }

/-- The Ethernet port after reset. -/
def Eth.reset : Eth :=
  { up := false, mode := 0, downs := 0, uncorr := 0, refused := 0, reach := 0, retries := 0, conns := [], nextConn := 0,
    spaces := [], transfers := [],
    nextId := 0, polled := [], phase := .none, entry := [], entryNo := 0, rank := 0, owner := 0, expiry := 0, since := 0,
    fails := 0, stopping := false, spare := false, cursor := 0, stepCursor := 0, resident := [], arrived := [], nextUnit := 0,
    feedWaits := 0, status := [], rewrite := 0, reports := 0, log := [], badLanes := 0 }

/-- The Harebell island after reset: a Blank part with an erased boot flash (DESIGN CHOICE 6), its chain repeater not
ready (R430). -/
def Sec.reset : Sec :=
  { stage := 0, life := 0, bootfail := false, svn := 0, enrolled := [], slot := false, trial := false, nor := [],
    record := [], staging := [], result := 0, idDraw := none, role := none, key := 0, fails := 0, lockout := false,
    nonce := 0, attNonce := [], attesting := none, attQueue := [], report := [], ready := false, audit := [],
    head := 0, lastSeal := 0, sealed := true, sealDue := false, second := 0, written := 0, suppressed := [], auditBase := 0, addr := 0,
    overflow := false, bypass := true, align := 0, denied := 0, crcErr := 0, opsVoid := false, slotBad := 0,
    capability := [], idKey := [], cert := [] }

/-- A position after reset: untested. -/
def Position.reset : Position := { state := 0, logical := 0, width := 0, cause := 0, uncor := 0, bad := 0, corrected := 0 }

/-- Power after reset: Standby, every domain off. -/
def Pwr.reset : Pwr :=
  { state := 4, busy := false, intlk := false, pwrok := false, result := 0, pace := 16, pmax := 0, limiter := 0,
    plimit := 0, tthrot := 0, retidle := 0, avg := 0, peak := 0, excurs := 0, longest := 0, excursion := 0,
    sinceHalf := 100, sum := 0, samples := 0, domains := 0, waking := [], goal := 0, tj := 0, tstack := 0, trips := 0,
    throt := false, tripped := false, intlkStop := false, lastWake := 0, wakes := 0, wakeHead := 0, wakeRec := [], latched := [],
    source := 0, sources := [], wakeAt := 0, orderly := false, enable := 0, good := 0, railDrop := 0, mgmtOnly := false,
    paceLast := none, positions := List.replicate 20 Position.reset, capable := [] }

/-- Counters and self-test after reset. -/
def Mon.reset : Mon :=
  { sel := [], val := [], valHi := [], ranges := [], beats := 0, beatsHi := 0, holds := [], coreHolds := [],
    clks := 0, heldBeats := 0, cleared := false, eyeCount := 0, eyeSeq := 0, eyeHead := 0, wrapped := false,
    full := false, lost := 0, samples := [], eye := [], setValid := false, setUsed := false, setTick := 0,
    running := false, quick := false, bistFails := 0, bistResult := 0, results := [], stored := [], failLog := [],
    monitorCap := false, badSensors := [] }

/-- The device at its always-on supply's first rise, before boot (R409): every register at its reset value; where the
table gives "—", and in the register files and memories, zero (DESIGN CHOICE 3, 4, 5, 6). -/
def State.reset : State :=
  { pending := [], uptime := 0, drawn := 0, cu := Cores.reset, seq := Seq.reset, mem := Mem.reset,
    stash := Stash.reset, link := Link.reset, time := Time.reset, coll := Coll.reset, commit := Commit.reset,
    rsl := Rsl.reset, eth := Eth.reset, sec := Sec.reset, pwr := Pwr.reset, mon := Mon.reset, outbox := [] }

end Sys2Proof.Machine
end

