-- ==== Sys2Proof/Machine/Operands.lean ====
section
/-! DEFINITION. Operand fields: the op header (R138), region descriptors (R149, R486), bank placement of tile blocks
and buffer rows (R108, R116), and the checks of encodings. -/

namespace Sys2Proof.Machine

/-- A fault found at issue: code, INFO, AUX and SEQ_FAULT_OTHER (table "Fault codes"). -/
structure Flt where
  code  : Nat
  info  : Nat := 0
  aux   : Nat := 0
  other : Nat := 0
  /-- the claims of a PORT fault (R114) -/
  lost  : List (Nat × Nat) := []
  deriving DecidableEq, Repr

/-- ENCODING unless the field rules hold (R15). -/
def encodingUnless (ok : Bool) : Option Flt := if ok then none else some { code := 1 }

/-- BOUND naming a region unless the operation fits (R155). -/
def boundUnless (ok : Bool) (region : Nat) : Option Flt := if ok then none else some { code := 2, info := region }

/-- The first fault of a list of checks, in the order of R177. -/
def firstFault (l : List (Option Flt)) : Option Flt := l.findSome? id

/-- The bits [hi:lo] are zero (R14). -/
def zeros {n : Nat} (w : BitVec n) (hi lo : Nat) : Bool := fld w hi lo == 0

/-! ### Region descriptors (R149) -/

/-- SPACE: the accumulator buffer. -/
def rSpace (d : BitVec 128) : Nat := fld d 0 0
/-- LAYOUT: tile blocks. -/
def rLayout (d : BitVec 128) : Nat := fld d 1 1
/-- AXIS. -/
def rAxis (d : BitVec 128) : Nat := fld d 2 2
/-- FMT. -/
def rFmt (d : BitVec 128) : Nat := fld d 7 4
/-- BASE. -/
def rBase (d : BitVec 128) : Nat := fld d 26 8
/-- BOUND. -/
def rBound (d : BitVec 128) : Nat := fld d 58 32
/-- STATE: 0 free, 1 filling, 2 ready, 3 consuming. -/
def rState (d : BitVec 128) : Nat := fld d 65 64
/-- ABSENT. -/
def rAbsent (d : BitVec 128) : Bool := flag d 66
/-- PCOUNT. -/
def rPcount (d : BitVec 128) : Nat := fld d 79 72
/-- PTODO. -/
def rPtodo (d : BitVec 128) : Nat := fld d 87 80
/-- CCOUNT. -/
def rCcount (d : BitVec 128) : Nat := fld d 95 88
/-- CTODO. -/
def rCtodo (d : BitVec 128) : Nat := fld d 103 96
/-- RSTRIDE. -/
def rStride (d : BitVec 128) : Nat := fld d 119 104
/-- Base bank of a tile-block region. -/
def rBank (d : BitVec 128) : Nat := fld d 14 8
/-- Word address of a tile-block region. -/
def rAddr (d : BitVec 128) : Nat := fld d 26 15

/-- Words per row Rw of a tile block (R108). -/
def rowWords (fmt : Nat) : Nat := if fmt = 0 then 4 else if fmt ≤ 2 then 2 else 1

/-- Elements per word E (R108). -/
def wordElems (fmt : Nat) : Nat := if fmt = 0 then 16 else if fmt ≤ 2 then 32 else 64

/-- The step of the word address from block to block (R150). -/
def blockStep (fmt : Nat) : Nat := if isMX fmt then 2 else rowWords fmt

/-- Tile-store byte address of the word in a bank at a word address (R107). -/
def wordByte (bank addr : Nat) : Nat := addr * 8192 + bank * 64

/-- Bank of word k of row i of a block with base bank b (R108). -/
def blockBank (b i k : Nat) : Nat := (b + i + 32 * k) % 128

/-- Byte address of word k of row i of block t of a tile-block region (R108, R150). -/
def blockWord (d : BitVec 128) (t i k : Nat) : Nat :=
  wordByte (blockBank (rBank d) i k) (rAddr d + t * blockStep (rFmt d) + k)

/-- Byte address of scale word h of block t of an MX tile-block region (R109). -/
def scaleWord (d : BitVec 128) (t h : Nat) : Nat :=
  wordByte ((rBank d + h) % 128) (rAddr d + t * blockStep (rFmt d) + 1)

/-- Bank of buffer row x (R116). -/
def rowBank (x : Nat) : Nat := (x + x / 64) % 16

/-- Blocks of a tile-block region. -/
def rBlocks (d : BitVec 128) : Nat := ceilDiv (rBound d) 4096

/-- Bytes of the element plane and, for MX, the whole run of a linear region of n elements (R486). -/
def linearBytes (fmt n : Nat) : Nat :=
  let plane := (n * fmtBits fmt + 7) / 8
  if isMX fmt then ceilDiv plane 64 * 64 + n / 32 else plane

/-- Buffer rows a region of the accumulator buffer spans (R486, R188). -/
def rRows (d : BitVec 128) : Nat :=
  if rFmt d = 10 then 2 * ceilDiv (rBound d) 64 else ceilDiv (linearBytes (rFmt d) (rBound d)) 256

/-- The span of a region lies within its store (R486). -/
def spanFits (d : BitVec 128) : Bool :=
  if rSpace d = 1 then decide (rBase d ≤ 16383) && decide (rBase d + rRows d ≤ 16384)
  else if rLayout d = 1 then
    rBlocks d == 0 || decide (rAddr d + (rBlocks d - 1) * blockStep (rFmt d) + blockStep (rFmt d) ≤ 4096)
  else decide (64 * rBase d + linearBytes (rFmt d) (rBound d) ≤ 33554432)

/-- The descriptor REGION.SET may load (R200, R486): maintained and reserved fields zero, a format of R35, and a legal
placement. -/
def regionLegal (d : BitVec 128) : Bool :=
  zeros d 3 3 && zeros d 31 27 && zeros d 63 59 && zeros d 71 64 && zeros d 87 80 && zeros d 103 96 &&
  zeros d 127 120 && decide (rFmt d ≤ 10) &&
  !(rLayout d == 1 && rSpace d == 1) && !(rLayout d == 1 && rStride d != 0) &&
  !(rLayout d == 1 && rFmt d == 10) &&
  !(rLayout d == 0 && isMX (rFmt d) && (rBound d % 32 != 0 || rStride d % 32 != 0)) &&
  spanFits d

/-- A producer may issue (R152). -/
def canProduce (d : BitVec 128) : Bool := rState d == 1 && decide (0 < rPtodo d)

/-- A consumer may issue (R152). -/
def canConsume (d : BitVec 128) : Bool := (rState d == 2 || rState d == 3) && decide (0 < rCtodo d)

/-- REGION_STATE naming a region unless it is in the right state (R152). -/
def stateUnless (ok : Bool) (region : Nat) : Option Flt := if ok then none else some { code := 8, info := region }

/-- STATE becomes free when it is ready with CCOUNT = 0 (R151). -/
def settleReady (d : BitVec 128) : BitVec 128 :=
  if rState d = 2 ∧ rCcount d = 0 then putFld d 65 64 0 else d

/-- A producer issues (R151). -/
def producerIssued (d : BitVec 128) : BitVec 128 := putFld d 87 80 (rPtodo d - 1)

/-- A consumer issues (R151). -/
def consumerIssued (d : BitVec 128) : BitVec 128 := putFld (putFld d 103 96 (rCtodo d - 1)) 65 64 3

/-- A producer completes (R151). -/
def producerDone (d : BitVec 128) : BitVec 128 :=
  let d' := putFld d 79 72 (rPcount d - 1)
  if rPcount d = 1 then settleReady (putFld d' 65 64 2) else d'

/-- A consumer completes (R151). -/
def consumerDone (d : BitVec 128) : BitVec 128 :=
  let d' := putFld d 95 88 (rCcount d - 1)
  if rCcount d = 1 then putFld d' 65 64 0 else d'

/-- REGION.SET (R151). -/
def regionLoaded (d : BitVec 128) : BitVec 128 :=
  let d' := putFld (putFld d 87 80 (rPcount d)) 103 96 (rCcount d)
  settleReady (putFld d' 65 64 (if rPcount d = 0 then 2 else 1))

/-- REGION.REOPEN with count p (R151). -/
def regionReopened (d : BitVec 128) (p : Nat) : BitVec 128 :=
  settleReady (putFld (putFlag (putFld (putFld d 79 72 p) 87 80 p) 66 false) 65 64 (if p = 0 then 2 else 1))

end Sys2Proof.Machine
end

