-- ==== Sys2Proof/Machine/Ops.lean ====
section
/-! DEFINITION. The schedule of the cores (R143 to R148) and the named operations on their registers and stores: clks, register reads and results in flight, stores with the
clk at whose end a write lands, region transitions, port claims. -/

namespace Sys2Proof.Machine

/-- The profile of the job in force (R59); P3 while there is none. -/
def jobProfile (s : State) : Nat := match s.seq.job with
  | some j => j.profile
  | none => 3

/-- P1: subnormals flushed (R63). -/
def isP1 (s : State) : Bool := jobProfile s == 1

/-- The presented width W (R102). -/
def jobWidth (s : State) : Nat := match s.seq.job with
  | some j => j.width
  | none => 64

/-- The active core count n_c (R142). -/
def jobCores (s : State) : Nat := match s.seq.job with
  | some j => j.cores
  | none => 0

/-- A bundle is issuing and the core is active: its operations act (R142, R143). -/
def coreActive (s : State) (core : Fin 16) : Bool :=
  s.seq.current.isSome && decide (core.val < jobCores s)

/-- The schedule clk an operation issues in (R143). -/
def opClk (s : State) (op : CoreOp) : Nat := 8 * (s.seq.issued - 1) + fld op.word 2 0

/-- The bundle index that issues. -/
def bundleNow (s : State) : Nat := s.seq.current.getD 0

/-- The first schedule clk scheduled units have not reached: the issued bundles, and 80 clks more once the chip has
stopped (R169). -/
def clkEnd (s : State) : Nat := 8 * s.seq.issued + (if s.seq.stopped then 80 else 0)

/-! ### Registers -/

/-- A scalar register as of schedule clk t: results that landed in an earlier clk are in it (R146). -/
def sregAt (s : State) (core r t : Nat) : Word :=
  s.cu.inflight.foldl (fun v (x : Result) =>
    if x.core = core ∧ x.due < t then
      match x.dest with
      | .scalar r0 vals => if r0 ≤ r then vals.getD (r - r0) v else v
      | _ => v
    else v) (s.cu.sreg.get (core * 32 + r))

/-- One lane of a vector register as of schedule clk t. -/
def vlaneAt (s : State) (core r t lane : Nat) : Word :=
  s.cu.inflight.foldl (fun v (x : Result) =>
    if x.core = core ∧ x.due < t then
      match x.dest with
      | .vector r0 l0 vals => if r0 = r ∧ l0 ≤ lane then vals.getD (lane - l0) v else v
      | _ => v
    else v) (s.cu.vreg.get (core * 16384 + r * 256 + lane))

/-- The 256 lanes of a vector register as of schedule clk t. -/
def vregAt (s : State) (core r t : Nat) : List Word := (List.range 256).map (vlaneAt s core r t)

/-- The vector drain port (R94). -/
def dportOf (s : State) (core : Nat) : List Word := s.cu.dport.getList (core * 256) 256

/-- The first source of a vector operation: VA, or the drain port when DP is set (R191). -/
def sourceA (s : State) (op : CoreOp) : List Word :=
  if flag op.word 36 then dportOf s op.core else vregAt s op.core (fld op.word 23 18) (opClk s op)

/-- LATENCY for a read of a vector register before its ready clk (R148). -/
def latV (s : State) (core r t : Nat) : Option Flt :=
  if s.seq.checked && decide (t < (s.cu.readyV.get (core * 64 + r)).toNat) then some { code := 5, info := r } else none

/-- LATENCY for a read of a scalar register before its ready clk. -/
def latS (s : State) (core r t : Nat) : Option Flt :=
  if s.seq.checked && decide (t < (s.cu.readyS.get (core * 32 + r)).toNat) then
    some { code := 5, info := 256 + r } else none

/-- LATENCY for a read of the drain port: the lowest lane group read before its ready clk (R94). -/
def latD (s : State) (core t : Nat) : Option Flt :=
  if s.seq.checked then
    (List.range 4).findSome? fun n =>
      if t < (s.cu.readyD.get (core * 4 + n)).toNat then some { code := 5, info := 512 + n } else none
  else none

/-- LATENCY for the first source of a vector operation. -/
def latA (s : State) (op : CoreOp) : Option Flt :=
  if flag op.word 36 then latD s op.core (opClk s op) else latV s op.core (fld op.word 23 18) (opClk s op)

/-! ### Stores with landing clks -/

/-- A tile-store byte as of schedule clk t (byte address within the core): what a write landing at or after t replaced
is read. -/
def tileAt (s : State) (core t addr : Nat) : Byte :=
  match s.cu.tileLog.find? (fun e => e.1 == core * 33554432 + addr && decide (t ≤ e.2.2)) with
  | some e => e.2.1
  | none => s.cu.tile.get (core * 33554432 + addr)

/-- The bytes of a 64-byte tile-store word as of clk t, from its byte address. -/
def tileWordAt (s : State) (core t addr : Nat) : List Byte :=
  (List.range 64).map fun i => tileAt s core t (addr + i)

/-- An accumulator-buffer entry as of clk t, from its entry offset. -/
def accAt (s : State) (core t e : Nat) : Word :=
  match s.cu.accLog.find? (fun x => x.1 == core * 1048576 + e && decide (t ≤ x.2.2)) with
  | some x => x.2.1
  | none => s.cu.acc.get (core * 1048576 + e)

/-- A copy from the core has words still to write. -/
def netReaders (s : State) (core : Nat) : Bool := s.cu.nets.any fun x => x.src == core && decide (x.sent < x.pairs.length)

/-- Some sweep of the core or copy from it still reads the tile store as of an earlier clk. -/
def tileReaders (s : State) (core : Nat) : Bool := s.cu.sweeps.any (fun w => w.core == core) || netReaders s core

/-- Some preload of the core or copy from it still reads the accumulator buffer as of an earlier clk. -/
def accReaders (s : State) (core : Nat) : Bool := s.cu.inits.any (fun b => b.core == core) || netReaders s core

/-- Write tile-store bytes, landing at the end of clk t. -/
def writeTile (s : State) (core t addr : Nat) (bs : List Byte) : State :=
  let k := core * 33554432 + addr
  let log := if tileReaders s core then bs.mapIdx (fun i _ => (k + i, s.cu.tile.get (k + i), t)) else []
  { s with cu := { s.cu with tile := s.cu.tile.setList k bs, tileLog := s.cu.tileLog ++ log } }

/-- Write accumulator-buffer entries, landing at the end of clk t. -/
def writeAcc (s : State) (core t e : Nat) (vs : List Word) : State :=
  let k := core * 1048576 + e
  let log := if accReaders s core then vs.mapIdx (fun i _ => (k + i, s.cu.acc.get (k + i), t)) else []
  { s with cu := { s.cu with acc := s.cu.acc.setList k vs, accLog := s.cu.accLog ++ log } }

/-- The four little-endian bytes of each word. -/
def wordBytes (vs : List Word) : List Byte := vs.flatMap fun v => leBytes 4 v.toNat

/-- Words from little-endian bytes. -/
def bytesWords (n : Nat) (bs : List Byte) : List Word :=
  (List.range n).map fun i => BitVec.ofNat 32 (numAt bs (4 * i) 4)

/-! ### Results of short operations (R146, R147) -/

/-- Insert a result behind every one that is due no later. -/
def insertDue (x : Result) : List Result → List Result
  | [] => [x]
  | y :: l => if x.due < y.due then x :: y :: l else y :: insertDue x l

/-- The clk from which each register a result writes may be read (R148). -/
def markReady (s : State) (core : Nat) (d : Dest) (ready : Nat) : State :=
  match d with
  | .vector r _ _ =>
    { s with cu := { s.cu with readyV := s.cu.readyV.set (core * 64 + r) (BitVec.ofNat 64 ready) } }
  | .scalar r vals =>
    { s with cu := { s.cu with
        readyS := s.cu.readyS.setList (core * 32 + r) (vals.map fun _ => BitVec.ofNat 64 ready) } }
  | _ => s

/-- A short operation of latency `lat` issues: its result lands at the end of clk c + L − 1 (R146). -/
def pushResult (s : State) (op : CoreOp) (lat : Nat) (dest : Dest) (nonfin satf : Bool) : State :=
  let t := opClk s op
  let x : Result :=
    { core := op.core, slot := op.slot, bundle := bundleNow s, issue := t, due := t + lat - 1, dest := dest,
      nonfin := nonfin, satf := satf }
  let s1 := { s with cu := { s.cu with inflight := insertDue x s.cu.inflight } }
  markReady s1 op.core dest (t + lat)

/-- Set the sticky flags of a core (R58). -/
def setFlags (s : State) (core : Nat) (nonfin satf : Bool) : State :=
  let bit := fun (b : Bool) => if b then BitVec.ofNat 16 (2 ^ core) else 0#16
  { s with cu := { s.cu with nonfin := s.cu.nonfin ||| bit nonfin, satf := s.cu.satf ||| bit satf } }

/-- The statistics records that a result writes are no longer written by results issued before it (R126). -/
def supersede (core issue : Nat) (recs : List (Nat × BitVec 128)) (x : Result) : Result :=
  match x.dest with
  | .stat rs =>
    if x.core = core ∧ x.issue < issue then
      { x with dest := .stat (rs.filter fun r => !recs.any (fun q => q.1 == r.1)) }
    else x
  | _ => x

/-- A claim on a bank port of a core: store 0 tile, 1 accumulator buffer; write port or read port. -/
def claim (core clk store : Nat) (write : Bool) (bank : Nat) : Nat × Nat :=
  (core, ((clk * 2 + store) * 2 + write.toNat) * 128 + bank)

/-- The clk of a claim. -/
def claimClk (c : Nat × Nat) : Nat := c.2 / 512

/-- A scheduled access lost to a PORT fault (R114). -/
def isLost (s : State) (c : Nat × Nat) : Bool := s.cu.lost.contains c

/-- Write buffer rows, 64 entries each, in clk t; a row whose access a PORT fault took is left alone. -/
def writeRows (s : State) (core t row : Nat) : List (List Word) → State
  | [] => s
  | vs :: rest =>
    let s1 := if isLost s (claim core t 1 true (rowBank row)) then s else writeAcc s core t (64 * row) vs
    writeRows s1 core t (row + 1) rest

/-- Write tile-store words of 64 bytes at consecutive word indices in clk t, under the same rule. -/
def writeWords (s : State) (core t w : Nat) : List (List Byte) → State
  | [] => s
  | bs :: rest =>
    let s1 := if isLost s (claim core t 0 true (w % 128)) then s else writeTile s core t (64 * w) bs
    writeWords s1 core t (w + 1) rest

/-- Split a list into pieces of n (n > 0), `fuel` pieces at most. -/
def chunks {α : Type} (n : Nat) : Nat → List α → List (List α)
  | 0, _ => []
  | fuel + 1, l => if l.isEmpty then [] else l.take n :: chunks n fuel (l.drop n)

/-- A result lands (R146). -/
def landResult (s : State) (x : Result) : State :=
  let s1 := setFlags s x.core x.nonfin x.satf
  match x.dest with
  | .nowhere => s1
  | .vector r l vals =>
    { s1 with cu := { s1.cu with vreg := s1.cu.vreg.setList (x.core * 16384 + r * 256 + l) vals } }
  | .scalar r vals => { s1 with cu := { s1.cu with sreg := s1.cu.sreg.setList (x.core * 32 + r) vals } }
  | .tile w vals => writeWords s1 x.core x.due w (chunks 64 16 (wordBytes vals))
  | .acc r vals => writeRows s1 x.core x.due r (chunks 64 4 vals)
  | .stat recs =>
    { s1 with cu := { s1.cu with
        stat := recs.foldl (fun m r => m.set (x.core * 256 + r.1) r.2) s1.cu.stat
        inflight := s1.cu.inflight.map (supersede x.core x.issue recs) } }

/-- The state with every store of a core landed that is due before clk t: what a load in clk t reads (R122). -/
def withStores (s : State) (core t : Nat) : State :=
  (s.cu.inflight.filter fun x => x.core == core && decide (x.due < t)).foldl (fun s x =>
    match x.dest with
    | .tile .. => landResult s x
    | .acc .. => landResult s x
    | _ => s) s

/-! ### Copies from core to core (R206) -/

/-- The bank of the word at a byte address of a store. -/
def storeBank (space addr : Nat) : Nat := if space = 1 then rowBank (addr / 256) else addr / 64 % 128

/-- The clk in which word w of a copy is written at the receiver; it is read H clks before. -/
def netClk (x : NetCopy) (w : Nat) : Nat := x.issue + 1 + w + x.delay

/-- A copy's next word is read and written; a PORT fault on either access takes it (R114). -/
def sendWord (s : State) (x : NetCopy) : State :=
  match x.pairs[x.sent]? with
  | none => s
  | some p =>
    let t := netClk x x.sent
    let r := t - x.delay
    let src := withStores s x.src r
    if isLost s (claim x.src r x.space false (storeBank x.space p.1)) ||
        isLost s (claim x.dst t x.space true (storeBank x.space p.2)) then s
    else if x.space = 1 then writeAcc s x.dst t (p.2 / 4) ((List.range 16).map fun i => accAt src x.src r (p.1 / 4 + i))
    else writeTile s x.dst t p.2 ((List.range 64).map fun i => tileAt src x.src r (p.1 + i))

/-- The words that copies write in clk u. -/
def netsAt (s : State) (u : Nat) : State :=
  (List.range s.cu.nets.length).foldl (fun s k =>
    match s.cu.nets[k]? with
    | some x =>
      if x.sent < x.pairs.length ∧ netClk x x.sent = u then
        let s1 := sendWord s x
        { s1 with cu := { s1.cu with nets := modifyAt s1.cu.nets k fun y => { y with sent := y.sent + 1 } } }
      else s
    | none => s) s

/-- The clks of the words still to be written, of all copies. -/
def netClks (s : State) : List Nat :=
  (s.cu.nets.filter fun x => decide (x.sent < x.pairs.length)).map fun x => netClk x x.sent

/-- Every word that a copy writes before clk t, and that the schedule has reached, is written (R169). -/
def landNets (s : State) (t : Nat) : State :=
  match (netClks s).min? with
  | none => s
  | some lo => (List.range (min t (clkEnd s) - lo)).foldl (fun s i => netsAt s (lo + i)) s

/-! ### Regions -/

/-- The descriptor of a region of a core. -/
def regionOf (s : State) (core n : Nat) : BitVec 128 := s.cu.region.get (core * 256 + n)

/-- A region's descriptor as it stood before clk t (R201). -/
def regionAt (s : State) (core n t : Nat) : BitVec 128 :=
  match s.cu.regionLog.find? (fun e => e.1 == core * 256 + n && decide (t ≤ e.2.2)) with
  | some e => e.2.1
  | none => regionOf s core n

/-- Replace a region's descriptor in clk t. What it was before is kept for reads as of the clks of the last beat. -/
def setRegion (s : State) (core n t : Nat) (d : BitVec 128) : State :=
  let k := core * 256 + n
  { s with cu := { s.cu with
      region := s.cu.region.set k d
      regionLog := (s.cu.regionLog.filter fun e => decide (t ≤ e.2.2 + 8)) ++ [(k, regionOf s core n, t)] } }

/-- A scheduled operation that completes in clk `due` becomes a producer of a region (R151). -/
def takeProducer (s : State) (core n t due : Nat) : State :=
  let s1 := setRegion s core n t (producerIssued (regionOf s core n))
  { s1 with cu := { s1.cu with schedEnds := s1.cu.schedEnds ++ [{ key := core * 256 + n, prod := true, due := due, done := false }] } }

/-- A scheduled operation that completes in clk `due` becomes a consumer of a region (R151). -/
def takeConsumer (s : State) (core n t due : Nat) : State :=
  let s1 := setRegion s core n t (consumerIssued (regionOf s core n))
  { s1 with cu := { s1.cu with schedEnds := s1.cu.schedEnds ++ [{ key := core * 256 + n, prod := false, due := due, done := false }] } }

/-- An elastic operation becomes a producer of a region. -/
def takeElasticProducer (s : State) (core n t : Nat) : State :=
  setRegion s core n t (producerIssued (regionOf s core n))

/-- An elastic operation becomes a consumer of a region. -/
def takeElasticConsumer (s : State) (core n t : Nat) : State :=
  setRegion s core n t (consumerIssued (regionOf s core n))

/-! ### Port claims (R113, R114) -/

/-- INFO of a PORT fault. -/
def claimInfo (c : Nat × Nat) : Nat := c.2 % 128 + (c.2 / 256 % 2) * 128 + (c.2 / 128 % 2) * 256

/-- The claims made twice within one operation. -/
def selfClash : List (Nat × Nat) → List (Nat × Nat)
  | [] => []
  | k :: l => if l.contains k then k :: selfClash l else selfClash l

/-- The claim of the earliest clk; of several the first listed. -/
def earliestClaim (l : List (Nat × Nat)) : Option (Nat × Nat) :=
  l.foldl (fun best k => match best with
    | none => some k
    | some m => if claimClk k < claimClk m then some k else some m) none

/-- The PORT fault of an operation's claims: against an earlier operation, or against itself (R114). Of several conflicts
the one of the earliest clk is recorded (DEDUCED 21). -/
def portClash (s : State) (op : CoreOp) (claims : List (Nat × Nat)) : Option Flt :=
  let lost := claims.filter fun k => s.cu.ports.any fun u => u.claims.contains k
  match earliestClaim lost with
  | some k =>
    (s.cu.ports.find? fun u => u.claims.contains k).map fun u =>
      { code := 6, info := claimInfo k, aux := u.slot + u.core * 4, other := u.bundle, lost := lost }
  | none => (earliestClaim (selfClash claims)).map fun k =>
      { code := 6, info := claimInfo k, aux := op.slot.val + op.core.val * 4, other := bundleNow s, lost := [k] }

/-- The operation's claims are made. -/
def takePorts (s : State) (op : CoreOp) (claims : List (Nat × Nat)) : State :=
  let u : PortUser := { core := op.core, slot := op.slot, bundle := bundleNow s, issue := opClk s op,
                        offset := fld op.word 2 0, claims := claims }
  if claims.isEmpty then s else { s with cu := { s.cu with ports := s.cu.ports ++ [u] } }

end Sys2Proof.Machine
end

