-- ==== Sys2Proof/Machine/Random.lean ====
section
/-! DEFINITION. The counter-based random generator (R127 to R131) and the draws of operations (R51, R129). -/

namespace Sys2Proof.Machine

/-- One round of the generator (R127). -/
def philoxRound (x : Word × Word × Word × Word) (k : Word × Word) : Word × Word × Word × Word :=
  let p0 := 0xD2511F53 * x.1.toNat
  let p1 := 0xCD9E8D57 * x.2.2.1.toNat
  let hi := fun (p : Nat) => BitVec.ofNat 32 (p / 4294967296)
  let lo := fun (p : Nat) => BitVec.ofNat 32 p
  (hi p1 ^^^ x.2.1 ^^^ k.1, lo p1, hi p0 ^^^ x.2.2.2 ^^^ k.2, lo p0)

/-- n rounds, the key advancing after each. -/
def philoxRounds : Nat → Word × Word × Word × Word → Word × Word → Word × Word × Word × Word
  | 0, x, _ => x
  | n + 1, x, k => philoxRounds n (philoxRound x k) (k.1 + 0x9E3779B9#32, k.2 + 0xBB67AE85#32)

/-- gen(counter, key) of R127: ten rounds. -/
def philox (c : Word × Word × Word × Word) (k : Word × Word) : Word × Word × Word × Word := philoxRounds 10 c k

/-- The stream key of a stream id under the job seed (R127). -/
def streamKey (seed : BitVec 128) (sid : Word) : Word × Word :=
  let d := philox (sid, BitVec.ofNat 32 (fld seed 95 64), BitVec.ofNat 32 (fld seed 127 96), 0#32)
    (BitVec.ofNat 32 (fld seed 31 0), BitVec.ofNat 32 (fld seed 63 32))
  (d.1, d.2.1)

/-- The 128-bit output: x0 in the low word (R127). -/
def philoxNat (x : Word × Word × Word × Word) : Nat :=
  x.1.toNat + x.2.1.toNat <<< 32 + x.2.2.1.toNat <<< 64 + x.2.2.2.toNat <<< 96

/-- What a drawing operation holds of its stream from its issue clk on (R129, R212): the slot's contents, the offset
base, step and micro-batch, and the smallest element index of the operation. -/
structure Draws where
  seed   : BitVec 128
  slot   : BitVec 128
  base   : Nat
  step   : BitVec 64
  micro  : BitVec 16
  n0     : Nat
  deriving DecidableEq, Repr

/-- The 16-bit random value of element n (R51, R129). -/
def Draws.value (d : Draws) (n : Nat) : Nat :=
  let sid := BitVec.ofNat 32 (fld d.slot 31 0)
  let key := streamKey d.seed sid
  if flag d.slot 32 then
    let c := (fld d.slot 127 64 + (n - d.n0) / 8) % 2 ^ 64
    philoxNat (philox (BitVec.ofNat 32 c, BitVec.ofNat 32 (c / 2 ^ 32), 0#32, 0#32) key) >>> (16 * ((n - d.n0) % 8))
      % 65536
  else
    let c := (d.base + n / 8) % 2 ^ 64
    philoxNat (philox (BitVec.ofNat 32 c, BitVec.ofNat 32 (c / 2 ^ 32), BitVec.ofNat 32 d.step.toNat,
      BitVec.ofNat 32 d.micro.toNat) key) >>> (16 * (n % 8)) % 65536

/-- The job seed (R171). -/
def jobSeed (s : State) : BitVec 128 := match s.seq.job with
  | some j => j.seed
  | none => 0#128

/-- DRAW of a sequential-mode slot advances past an element span n0 to nmax (R129). -/
def advanceDraw (s : State) (core slot n0 nmax : Nat) : State :=
  let g := s.cu.gen.get (core * 16 + slot)
  if flag g 32 then
    let d := (fld g 127 64 + (nmax - n0) / 8 + 1) % 2 ^ 64
    { s with cu := { s.cu with gen := s.cu.gen.set (core * 16 + slot) (putFld g 127 64 d) } }
  else s

end Sys2Proof.Machine
end

