-- ==== Sys2Proof/Machine/Convert.lean ====
section
/-! DEFINITION. Conversions into and out of element formats (R47 to R54, R69, R190): scalar elements, MX blocks, the
accumulator entry (R44), scale slots (R189). -/

namespace Sys2Proof.Machine

/-- u(S) of R44 as an exponent: 2^(−16) ulp(S). -/
def unitExp (s : Word) : Int :=
  let e := fld s 30 23
  if e = 0 then -165 else (e : Int) - 166

/-- The residual C of an entry. -/
def entryC (e : Entry) : Int := (BitVec.ofNat 16 (fld e 47 32)).toInt

/-- The running sum S of an entry. -/
def entryS (e : Entry) : Word := BitVec.ofNat 32 (fld e 31 0)

/-- An entry of S and C. -/
def mkEntry (s : Word) (c : Int) : Entry := BitVec.ofNat 48 (s.toNat + (BitVec.ofInt 16 c).toNat <<< 32)

/-- The exact terms of an entry: S, and C × u(S) where C is not zero. -/
def entryTerms (e : Entry) : List Num :=
  if entryC e = 0 then [dec32 (entryS e)]
  else [dec32 (entryS e), Num.ofInt (entryC e) (unitExp (entryS e)) false]

/-- The exact value S + C × u(S) (R44). -/
def entryNum (e : Entry) : Num := Num.sum (entryTerms e)

/-- Round an exact value to the nearest integer, ties to even. -/
def roundInt : Num → Int
  | .fin s m e =>
    let n := if 0 ≤ e then m <<< e.toNat
      else
        let d := (-e).toNat
        let k := m >>> d
        let r := m % 2 ^ d
        if 2 * r > 2 ^ d ∨ (2 * r = 2 ^ d ∧ k % 2 = 1) then k + 1 else k
    if s then -(n : Int) else n
  | _ => 0

/-- Add a group sum to an entry (R61, R87): P1 and P2, P3, and P3 once LONGSUM is set. -/
def accumulate (profile : Nat) (longsum : Bool) (e : Entry) (g : Num) : Entry :=
  if profile ≤ 2 then
    let p1 := profile == 1
    mkEntry (rne32p p1 (Num.add (dec32 (entryS e)) (dec32 (rne32p p1 g)))) 0
  else if longsum then
    let s0 := if entryC e = 0 then entryS e else rne32 (entryNum e)
    mkEntry (rne32 (Num.add (dec32 s0) (dec32 (rne32 g)))) 0
  else
    let t := Num.sum (entryTerms e ++ [g])
    let s' := rup32 t
    if nonfinite32 s' then mkEntry s' 0
    else
      let c := roundInt (Num.scale (-unitExp s') (Num.add t (Num.neg (dec32 s'))))
      mkEntry s' (if c = 32768 then 32767 else c)

/-- The entry a preloaded value sets (R46, R63, R81). -/
def preloadEntry (profile : Nat) (acc48 : Bool) (s : Word) (c : BitVec 16) : Entry :=
  let s0 := if profile = 1 then flush32 s else s
  match dec32 s0 with
  | .nan => mkEntry nan32 0
  | .inf _ => mkEntry s0 0
  | .fin .. => mkEntry s0 (if acc48 ∧ profile = 3 then c.toInt else 0)

/-- How an operation rounds its element n: to nearest, or stochastically with that element's random value (R48, R51). -/
def roundingOf (rnd : Nat) (d : Draws) (n : Nat) : Rounding :=
  if rnd = 1 then .sr (d.value n) else .rne

/-- Convert one value to a scalar format, times 2^k (R47, R69). Where the code is reserved there is no such
conversion. -/
def convertTo (fmt : Nat) (mode : Rounding) (sat flush : Bool) (k : Int) (x : Num) : Converted :=
  match fmtOf fmt with
  | some f => convert f mode sat false flush (Num.scale k x)
  | none => ⟨0, false, false⟩

/-- The magnitude a value brings to PENDING (R69): rounded to binary32, at most the largest finite, none for a
non-finite value. -/
def pendingMag : Num → Nat
  | .fin _ m e => min (rne32 (.fin false m e)).toNat 0x7F7FFFFF
  | _ => 0

/-- emax of R54. -/
def mxEmax (fmt : Nat) : Int :=
  match fmt with
  | 5 => 8
  | 6 => 15
  | 7 => 4
  | _ => 2

/-- The larger of two magnitudes. -/
def maxMag (a b : Num) : Num :=
  let a' := match a with | .fin _ m e => Num.fin false m e | x => x
  let b' := match b with | .fin _ m e => Num.fin false m e | x => x
  if Num.lt a' b' then b' else a'

/-- An MX block: its scale byte, its elements' bits, the flags raised. -/
structure Block where
  scale  : Nat
  bits   : List Nat
  nonfin : Bool
  satf   : Bool
  deriving DecidableEq, Repr

/-- Conversion of values to one MX block (R54); `mode` gives each element's rounding by its place in the block, `flush`
is the P1 rule for subnormal results (R63). -/
def convertBlock (fmt : Nat) (mode : Nat → Rounding) (flush : Bool) (xs : List Num) : Block :=
  if xs.any (fun x => !x.finite) then ⟨255, xs.map (fun _ => 0), true, false⟩
  else
    match xs.foldl maxMag (.fin false 0 0) with
    | .fin _ m e =>
      let x : Int := if m = 0 then -127 else max (-127) (min 127 (e + bitLen m - 1 - mxEmax fmt))
      match fmtOf fmt with
      | none => ⟨0, xs.map (fun _ => 0), false, false⟩
      | some f =>
        let cs := xs.mapIdx fun i v => convert f (mode i) false true flush (Num.scale (-x) v)
        ⟨(x + 127).toNat, cs.map (·.bits), false, cs.any (·.clamped)⟩
    | _ => ⟨255, xs.map (fun _ => 0), true, false⟩

/-- The value of an element's bits (R38, R42); `scale` is the block's scale byte for MX. -/
def elementNum (fmt bits scale : Nat) : Num :=
  match fmtOf fmt with
  | none => .nan
  | some f =>
    if isMX fmt then
      if scale = 255 then .nan else Num.scale ((scale : Int) - 127) (decodeNum f bits)
    else decodeNum f bits

/-- Pack w-bit elements into little-endian bytes (R41, R108). -/
def packBits (w : Nat) (xs : List Nat) (bytes : Nat) : List Byte :=
  leBytes bytes (xs.foldr (fun x acc => x % 2 ^ w + acc <<< w) 0)

/-! ### Scale slots (R189) -/

/-- The contents of a scale slot. -/
def slotOf (s : State) (core n : Nat) : BitVec 128 := s.cu.scale.get (core * 16 + n)

/-- A slot's K, signed (R190); slot 0 is unscaled. -/
def slotK (s : State) (core n : Nat) : Int :=
  if n = 0 then 0 else (BitVec.ofNat 8 (fld (slotOf s core n) 55 48)).toInt

/-- A slot may be named for a format: slot 0, or a bound slot with a well-formed record of that format (R72, R190). -/
def slotOk (s : State) (core n fmt : Nat) : Bool :=
  n == 0 || (s.cu.scaleMark.get (core * 16 + n) == 1 && fld (slotOf s core n) 47 44 == fmt)

/-- PENDING of a slot rises to a magnitude (R69). -/
def raisePending (s : State) (core n mag : Nat) : State :=
  if n = 0 then s
  else
    let v := slotOf s core n
    { s with cu := { s.cu with
        scale := s.cu.scale.set (core * 16 + n) (putFld v 87 56 (max (fld v 87 56) mag)) } }

end Sys2Proof.Machine
end

