-- ==== Sys2Proof/Machine/Holds.lean ====
section
/-! DEFINITION. The end of a run of hold beats and the slip logs (R157, R158). -/

namespace Sys2Proof.Machine

/-- An entry of a core's slip log (R157, R158). -/
def writeSlip (s : State) (core : Nat) (h : Hold) (cause region : Nat) : State :=
  let seq := s.cu.slipSeq.get core
  let total := BitVec.ofNat 32 (satAdd 32 (s.cu.slipBeats.get core).toNat h.beats)
  let e := h.bundle % 2 ^ 32 + (min h.beats 65535) <<< 32 + cause <<< 48 + region <<< 56 + total.toNat <<< 64 +
    seq.toNat <<< 96
  { s with cu := { s.cu with
      slip := s.cu.slip.set (core * 64 + seq.toNat % 64) (BitVec.ofNat 128 e)
      slipBeats := s.cu.slipBeats.set core total, slipSeq := s.cu.slipSeq.set core (seq + 1) } }

/-- A run of hold beats ends, by issue or by a stop: in clocked mode each core it concerns logs it, unless only WAIT caused
it. -/
def endHold (s : State) : State :=
  match s.seq.hold with
  | none => s
  | some h =>
    let s1 := { s with seq := { s.seq with hold := none } }
    if !s.seq.clocked ∨ h.waits then s1
    else
      (List.range (jobCores s)).foldl (fun s c =>
        match h.cores.find? fun e => e.1 == c with
        | some e => writeSlip s c h (if e.2.2 = 0 then 1 else if e.2.2 = 2 then 3 else 4) e.2.1
        | none => if h.fetch then writeSlip s c h 2 0 else s) s1

end Sys2Proof.Machine
end

