-- ==== Sys2Proof/Machine/Report.lean ====
section
/-! DEFINITION. What every part of the device uses to tell: messages sent, reports (R396), the audit log (R421 to R424),
event counters (R454 to R456). -/

namespace Sys2Proof.Machine

/-- Send messages. -/
def send (s : State) (ms : List OutMsg) : State := { s with outbox := s.outbox ++ ms }

/-- A report: one entry of the status record's log, of which the last 8 are kept (R394, R396). -/
def report (s : State) (code detail : Nat) : State :=
  let e := BitVec.ofNat 64 (code % 65536 + (detail % 65536) <<< 16 + (fld s.time.epoch 51 20) <<< 32)
  let l := s.eth.log ++ [e]
  { s with eth := { s.eth with reports := s.eth.reports + 1, log := l.drop (l.length - 8) } }

/-! ### Audit log -/

/-- Code of a role (R421). -/
def roleCode : Role → Nat
  | .device => 0
  | .operator => 1
  | .installer => 2
  | .maker => 3

/-- Code of a path (R421). -/
def pathCode : Path → Nat
  | .internal => 0
  | .chain => 1
  | .ethernet => 2
  | .speedwell => 3

/-- A hash as its bytes, the first the most significant. -/
def hashBytes (h : BitVec 512) : List Byte := beBytes 64 h.toNat

/-- Bytes 0 to 31 of an audit entry. -/
def auditBody (e : AuditEntry) : List Byte :=
  leBytes 8 e.seq.toNat ++ leBytes 8 e.epoch.toNat ++ leBytes 2 e.event.toNat ++
    [BitVec.ofNat 8 (roleCode e.role), BitVec.ofNat 8 (pathCode e.path)] ++ leBytes 4 e.detail1.toNat ++
    leBytes 8 e.detail2.toNat

/-- Bytes 0 to 31 of an entry that its CHAIN covers: its fields, or what a seal's signature puts there. -/
def auditHead (e : AuditEntry) : List Byte :=
  match e.raw with
  | some bs => bytesAt bs 0 32
  | none => auditBody e

/-- The 64 bytes of an audit entry: its fields and CHAIN; the first two signature entries of a seal hold signature bytes in place of
both, while CHAIN runs on through them (DEDUCED 60). -/
def auditBytes (e : AuditEntry) : List Byte :=
  match e.raw with
  | some bs => if bs.length ≤ 32 then bs ++ e.chain else bs
  | none => auditBody e ++ e.chain

/-- Entries in the whole log: 15 segments of 16,384. -/
def auditCapacity : Nat := 245760

/-- The epoch an audit entry carries: zero before the counter is loaded. -/
def auditEpoch (s : State) : DWord := if s.time.loaded then s.time.epoch else 0

/-- Write one entry at the head; it counts among those of its second (R424). -/
def auditPut (s : State) (e0 : AuditEntry) : State :=
  let prev := match s.sec.audit.getLast? with
    | some p => p.chain
    | none => List.replicate 32 0
  let e1 := { e0 with seq := s.sec.head, epoch := auditEpoch s }
  let e := { e1 with chain := bytesAt (hashBytes (Config.sha512 (prev ++ auditHead e1))) 0 32 }
  { s with sec := { s.sec with
      audit := s.sec.audit ++ [e], head := s.sec.head + 1, sealed := false, written := s.sec.written + 1 } }

/-- An entry's fields before its number, time and chain. -/
def auditNew (event : Nat) (role : Role) (path : Path) (d1 d2 : Nat) : AuditEntry :=
  { seq := 0, epoch := 0, event := BitVec.ofNat 16 event, role := role, path := path, detail1 := BitVec.ofNat 32 d1,
    detail2 := BitVec.ofNat 64 d2, raw := none, chain := [] }

/-- The entry of a number would need the oldest segment (R424). -/
def wrapDue (n : Nat) : Bool := n % 16384 == 0 && decide (auditCapacity ≤ n)

/-- When the entry due would need the oldest segment, erase that segment and write WRAP (R424). -/
def auditWrap (s : State) : State :=
  if wrapDue s.sec.head.toNat then
    let last := s.sec.head.toNat - auditCapacity + 16383
    auditPut { s with sec := { s.sec with audit := s.sec.audit.filter fun e => decide (last < e.seq.toNat) } }
      (auditNew 3 .device .internal 0 last)
  else s

/-- The second of the epoch counter. -/
def epochSecond (s : State) : DWord := BitVec.ofNat 64 ((auditEpoch s).toNat / 1000000000)

/-- Write an entry, with the WRAP before it where one is due. -/
def auditWrite (s : State) (e : AuditEntry) : State := auditPut (auditWrap s) e

/-- One SUPPRESSED entry per code (R424). -/
def flushSuppressed (s : State) : State :=
  s.sec.suppressed.foldl (fun s x => auditWrite s (auditNew 4 .device .internal x.1.toNat x.2.toNat))
    { s with sec := { s.sec with suppressed := [] } }

/-- In a second that has had no entry the events suppressed before it are written first (R424). -/
def newSecond (s : State) : State :=
  if s.sec.second = epochSecond s then s
  else flushSuppressed { s with sec := { s.sec with second := epochSecond s, written := 0 } }

/-- n entries, and a WRAP that they need, are still among the 64 of this second. -/
def auditRoom (s : State) (n : Nat) : Bool :=
  decide (s.sec.written + n + ((List.range n).filter fun k => wrapDue (s.sec.head.toNat + k)).length ≤ 64)

/-- An event more of a code that this second has no room for. -/
def addSuppressed (l : List (BitVec 16 × DWord)) (code : BitVec 16) : List (BitVec 16 × DWord) :=
  if l.any (fun p => p.1 == code) then l.map fun p => if p.1 = code then (p.1, p.2 + 1) else p
  else l ++ [(code, 1)]

/-- Log an event: 64 entries at most in a second, further events counted by code (R424). -/
def audit (s : State) (event : Nat) (role : Role) (path : Path) (d1 d2 : Nat) : State :=
  let s0 := newSecond s
  if auditRoom s0 1 then auditWrite s0 (auditNew event role path d1 d2)
  else { s0 with sec := { s0.sec with suppressed := addSuppressed s0.sec.suppressed (BitVec.ofNat 16 event) } }

/-- The identity key's signature over the hash of the newest entry's CHAIN; a device without a key signs nothing. -/
def sealSignature (s : State) : List Byte :=
  let chain := match s.sec.audit.getLast? with
    | some e => e.chain
    | none => []
  let sig := match s.sec.idDraw with
    | some k => Config.ecdsaSign k (Config.sha512 chain)
    | none => []
  bytesAt (sig ++ List.replicate 132 0) 0 132

/-- One of the signature entries of a seal. -/
def putSignature (s : State) (bs : List Byte) : State := auditWrite s { auditNew 1 .device .internal 0 0 with raw := some bs }

/-- The four entries of a seal (R423): one with the SEQ of the previous seal, then three that hold the signature. -/
def sealNow (s : State) : State :=
  let s0 := auditWrap s
  let seq := s0.sec.head
  let s1 := auditPut s0 (auditNew 1 .device .internal 0 s.sec.lastSeal.toNat)
  let sig := sealSignature s1
  let s2 := putSignature (putSignature s1 (bytesAt sig 0 64)) (bytesAt sig 64 64)
  let s3 := putSignature s2 (bytesAt sig 128 4 ++ List.replicate 28 0)
  { s3 with sec := { s3.sec with lastSeal := seq, sealed := true, sealDue := false } }

/-- The seal of R423; one that this second has no room for is appended in a later one (DESIGN CHOICE 60). -/
def auditSeal (s : State) : State :=
  let s0 := newSecond s
  if auditRoom s0 4 then sealNow s0 else { s0 with sec := { s0.sec with sealDue := true } }

/-! ### Event counters (R454 to R457) -/

/-- An event to count: its code, whose it is (core, stream engine, bank die, link port), the local address of its first
byte, whether the job caused it, how many. -/
structure Ev where
  code   : Nat
  core   : Option Nat := none
  engine : Option Nat := none
  die    : Option Nat := none
  port   : Option Nat := none
  addr   : Option Nat := none
  job    : Bool := true
  amount : Nat := 1
  /-- counted by core masters only -/
  coreOnly : Bool := false
  deriving DecidableEq, Repr

/-- The master filter of a selection admits the event (R456). -/
def masterAdmits (sel : Word) (e : Ev) : Bool :=
  let i := fld sel 14 11
  match fld sel 10 8 with
  | 0 => !e.coreOnly
  | 1 => e.core == some i
  | 2 => e.core == some i && e.engine == some (fld sel 18 15)
  | 3 => e.die == some i
  | 4 => e.port == some i
  | _ => false

/-- The address filter of a selection admits the event. -/
def rangeAdmits (s : State) (sel : Word) (e : Ev) : Bool :=
  !flag sel 23 || (match e.addr with
    | none => false
    | some a =>
      let r := fld sel 22 21
      decide ((s.mon.ranges.get (2 * r)).toNat ≤ a / 4096) && decide (a / 4096 ≤ (s.mon.ranges.get (2 * r + 1)).toNat))

/-- Counter n counts the event. -/
def counterAdmits (s : State) (n : Nat) (e : Ev) : Bool :=
  let sel := s.mon.sel.get n
  flag sel 24 && fld sel 7 0 == e.code && masterAdmits sel e && rangeAdmits s sel e &&
    (fld sel 20 19 == 0 || (fld sel 20 19 == 1 && e.job) || (fld sel 20 19 == 2 && !e.job))

/-- Count an event in every counter that admits it, modulo 2^64 (R454, R457). -/
def countEv (s : State) (e : Ev) : State :=
  if s.mon.sel = [] then s
  else
    { s with mon := { s.mon with val := (List.range 32).foldl (fun v n =>
        if counterAdmits s n e then v.modify n (· + BitVec.ofNat 64 e.amount) else v) s.mon.val } }

end Sys2Proof.Machine
end

