-- ==== Sys2Proof/Machine/Memory.lean ====
section
/-! DEFINITION. HBM: the interleave (R219), page classes (R227), copies of Meadowsweet blocks (R271, R272), reads and
writes by local address, the sections of the job image (R171 to R173). -/

namespace Sys2Proof.Machine

/-- Bytes of HBM (R214). -/
def hbmLimit : Nat := 0x30000000000

/-- rotl3 of R219. -/
def rotl3 (g r : Nat) : Nat := ((g <<< r) ||| (g <<< r) >>> 3) % 8

/-- The salted hash of R219 over the ten groups of u. -/
def bankHash (salt : Word) (u : Nat) : Nat :=
  (List.range 10).foldl (fun x i => x ^^^ rotl3 (u >>> (3 * i) % 8) (fld salt (2 * i + 1) (2 * i) % 3)) 0 ^^^
    fld salt 22 20

/-- The stack of a local address under a salt (R219). -/
def stackOf (salt : Word) (a : Nat) : Nat :=
  let g := a / 4096
  3 * bankHash salt (g / 3) + g % 3

/-- The byte offset within the stack (R219). -/
def stackOffset (a : Nat) : Nat := a / 4096 / 3 / 8 * 4096 + a % 4096

/-- The bank die of a local address under the salt in force. -/
def dieOf (s : State) (a : Nat) : Nat := stackOf s.mem.salt a / 3

/-- Channel of an address within its stack (R218): byte b of granule slot w lies in channel b[11:7] xor w[4:0]. -/
def channelOf (a : Nat) : Nat := (a % 4096 / 128) ^^^ (a / 4096 / 3 / 8 % 32)

/-- Pseudo-channel of an address within its channel (R218): b[6]. -/
def pseudoChannelOf (a : Nat) : Nat := a / 64 % 2

/-- The physical place of a local address (R226): its stack, of 128 GiB, and the offset in it. -/
def placeOf (salt : Word) (a : Nat) : Nat := stackOf salt a * 2 ^ 37 + stackOffset a

/-- The local address of a physical place: in the block of the place's granule slot (R221). -/
def localOf (salt : Word) (place : Nat) : Nat :=
  let w := place % 2 ^ 37 / 4096
  (((List.range 24).map fun k => (24 * w + k) * 4096 + place % 4096).find? fun a => placeOf salt a == place).getD 0

/-- The 8-byte word at a local address is uncorrectable (R226). -/
def badWord (s : State) (a : Nat) : Bool := s.mem.bad.get (placeOf s.mem.salt a / 8) == 1

/-- The error of the word at a local address is there, or removed. -/
def markWord (s : State) (a : Nat) (b : Bool) : State :=
  { s with mem := { s.mem with bad := s.mem.bad.set (placeOf s.mem.salt a / 8) (if b then 1 else 0) } }

/-- The local addresses of uncorrectable words. -/
def badAddrs (s : State) : List Nat := s.mem.bad.map fun w => localOf s.mem.salt (8 * w.1)

/-- The class of a 2 MiB page: the lowest-numbered entry that covers it, else scratch (R227). -/
def classOf (s : State) (a : Nat) : Nat :=
  match s.mem.classes.find? (fun e => decide (e.first ≤ a / 2097152) && decide (a / 2097152 ≤ e.last)) with
  | some e => e.cls
  | none => 0

/-- The Meadowsweet range that holds an address. -/
def rangeOf (s : State) (a : Nat) : Option Range :=
  s.mem.ranges.find? fun r => decide (r.param ≤ a) && decide (a < r.param + 98304 * r.blocks)

/-- The pool span that holds an address. -/
def poolOf (s : State) (a : Nat) : Option Range :=
  s.mem.ranges.find? fun r => decide (r.pool ≤ a) && decide (a < r.pool + 98304 * r.blocks)

/-- The address of the copy of a block's byte: home, or the paired place of the pool span (R271). -/
def copyAddr (r : Range) (pool : Bool) (a : Nat) : Nat := if pool then a - r.param + r.pool else a

/-- The physical address a read of a local address reaches: the current version (R272). -/
def physAddr (s : State) (a : Nat) : Nat :=
  match rangeOf s a with
  | some r => copyAddr r (s.mem.cur.get (a / 98304) == 1) a
  | none => a

/-- What a byte reads as beside what is listed for it: zero but where a re-key left it undefined (R224). -/
def staleAt (s : State) (a : Nat) : Byte :=
  match s.mem.stale.find? (fun x => decide (x.1 ≤ a) && decide (a < x.2.1)) with
  | some x => if x.2.2 = 0 then 0 else Config.staleByte x.2.2 a
  | none => 0

/-- A byte of HBM by physical address. -/
def hbmByte (s : State) (a : Nat) : Byte := s.mem.hbm.get a ^^^ staleAt s a

/-- The bytes of a span of HBM that are not zero, by physical address. -/
def hbmCells (s : State) (a n : Nat) : Sparse 8 :=
  if s.mem.stale.isEmpty then s.mem.hbm.filter fun c => decide (a ≤ c.1) && decide (c.1 < a + n)
  else Sparse.entries a ((List.range n).map fun i => hbmByte s (a + i))

/-- What a span held before is of no account: all of it is about to be written. -/
def freshen (s : State) (a n : Nat) : State :=
  if s.mem.stale.isEmpty then s else { s with mem := { s.mem with stale := (a, a + n, 0) :: s.mem.stale } }

/-- One byte of memory, read by local address. -/
def memByte (s : State) (a : Nat) : Byte := hbmByte s (physAddr s a)

/-- n bytes of memory from a local address. -/
def memBytes (s : State) (a n : Nat) : List Byte := (List.range n).map fun i => memByte s (a + i)

/-- The little-endian number in n bytes of memory. -/
def memNum (s : State) (a n : Nat) : Nat := leNat (memBytes s a n)

/-- Write bytes at a physical address; whole 8-byte words lose their errors (R226). -/
def writePhys (s : State) (a : Nat) (bs : List Byte) : State :=
  let bad := s.mem.bad.drop fun w =>
    let l := localOf s.mem.salt (8 * w)
    decide (a ≤ l) && decide (l + 8 ≤ a + bs.length)
  let kept := if s.mem.stale.isEmpty then bs else bs.mapIdx fun i b => b ^^^ staleAt s (a + i)
  { s with mem := { s.mem with hbm := s.mem.hbm.setList a kept, bad := bad } }

/-- Bytes from a local address to the end of its 96 KiB block. -/
def blockRest (a : Nat) : Nat := 98304 - a % 98304

/-- Write bytes at a local address, block by block; in a range the current version is written. -/
def writeMemFuel : Nat → State → Nat → List Byte → State
  | 0, s, _, _ => s
  | n + 1, s, a, bs =>
    if bs.isEmpty then s
    else writeMemFuel n (writePhys s (physAddr s a) (bs.take (blockRest a))) (a + blockRest a) (bs.drop (blockRest a))

/-- Write bytes at a local address. -/
def writeMem (s : State) (a : Nat) (bs : List Byte) : State := writeMemFuel (bs.length / 98304 + 2) s a bs

/-- A span of bytes lies wholly in pages of a class. -/
def inClass (s : State) (a n cls : Nat) : Bool :=
  decide (a + n ≤ hbmLimit) && (List.range ((a + n - 1) / 2097152 + 1 - a / 2097152)).all fun i =>
    classOf s (2097152 * (a / 2097152 + i)) == cls

/-! ### The job image in memory (R171 to R173) -/

/-- A section of the image in force; empty where it is absent. -/
def sectionOf (s : State) (typ : Nat) : Section :=
  match s.seq.job with
  | some j => (j.sections.find? fun x => x.typ == typ).getD { typ := typ, off := 0, size := 0 }
  | none => { typ := typ, off := 0, size := 0 }

/-- Where the image is placed. -/
def loadOf (s : State) : Nat := match s.seq.job with
  | some j => j.load
  | none => 0

/-- Entries of a section. -/
def sectionCount (s : State) (typ size : Nat) : Nat := (sectionOf s typ).size / size

/-- The bytes of entry n of a section, read from the written image. -/
def sectionEntry (s : State) (typ size n : Nat) : List Byte :=
  memBytes s (loadOf s + (sectionOf s typ).off + n * size) size

/-- An entry of a section as a little-endian number. -/
def entryBits (w : Nat) (bs : List Byte) : BitVec w := BitVec.ofNat w (leNat bs)

/-- BCOUNT of the image. -/
def bundleCount (s : State) : Nat := match s.seq.job with
  | some j => j.bcount
  | none => 0

/-- The 64-bit operation at byte o of bundle k (R137). -/
def bundleWord (s : State) (k o : Nat) : DWord :=
  BitVec.ofNat 64 (memNum s (loadOf s + (sectionOf s 1).off + 576 * k + o) 8)

/-- Chip operation c of bundle k. -/
def chipWord (s : State) (k c : Nat) : DWord := bundleWord s k (8 * c)

/-- Core operation n of core c in bundle k. -/
def coreWord (s : State) (k c n : Nat) : DWord := bundleWord s k (64 + 32 * c + 8 * n)

/-! ### Scale slots and generator slots at job start and commit (R128, R189) -/

/-- The index in the scale-record list a slot is bound to (R485). -/
def slotBinding (s : State) (core n : Nat) : Option Nat :=
  let v := numAt (sectionEntry s 10 128 core) (8 * n) 4
  if n = 0 ∨ v = 0 then none else some (v - 1)

/-- Address of scale record n of the list (R172). -/
def scaleRecordAddr (s : State) (n : Nat) : Nat := leNat (sectionEntry s 9 8 n)

/-- Scale records of the list. -/
def scaleCount (s : State) : Nat := sectionCount s 9 8

/-- A scale record is malformed (R72). -/
def scaleMalformed (r : List Byte) : Bool :=
  let k := numAt r 66 1
  decide (15 < numAt r 64 1) || decide (3 < numAt r 65 1) || k == 127 || k == 128 || k == 129 ||
    !(numAt r 67 1 == 3 || numAt r 67 1 == 4) || !zeroAt r 72 127

/-- Each bound slot of an active core loads FMT and K from its record and sets PENDING to 0 (R189). -/
def loadScaleSlot (s : State) (core n : Nat) : State :=
  let k := core * 16 + n
  match slotBinding s core n with
  | none =>
    { s with cu := { s.cu with scale := s.cu.scale.set k 0, scaleMark := s.cu.scaleMark.set k 0 } }
  | some i =>
    let a := scaleRecordAddr s i
    let r := memBytes s a 128
    let v := a + (numAt r 67 1 % 16) <<< 44 + (numAt r 66 1) <<< 48
    { s with cu := { s.cu with
        scale := s.cu.scale.set k (BitVec.ofNat 128 v)
        scaleMark := s.cu.scaleMark.set k (if scaleMalformed r then 3 else 1) } }

/-- Every scale slot of the active cores is loaded. -/
def loadScaleSlots (s : State) : State :=
  (List.range (jobCores s)).foldl (fun s c => (List.range 16).foldl (fun s n => loadScaleSlot s c n) s) s

/-- The generator slots of one core are loaded from the job image (R128). -/
def loadGenerators (s : State) (core : Nat) : State :=
  (List.range 16).foldl (fun s n =>
    let v := BitVec.ofNat 128 (numAt (sectionEntry s 11 256 core) (16 * n) 16)
    { s with cu := { s.cu with
        gen := s.cu.gen.set (core * 16 + n) v
        gen0 := s.cu.gen0.set (core * 16 + n) (BitVec.ofNat 64 (fld v 127 64)) } }) s

/-- FLOOR(log2(fmax / (A × 2^m))) for a positive binary32 A, clamped (R71): −126 for an infinite A, whose quotient is zero
(DEDUCED 54). -/
def scaleExponent (fmt margin : Nat) (a : Word) : Int :=
  match dec32 a with
  | .fin _ m e =>
    let fmax := if fmt = 3 then 448 else 57344
    let top : Int := (if fmt = 3 then 8 else 15) - (e + bitLen m - 1) - margin
    let fits := !Num.lt (Num.ofInt fmax 0 false) (Num.scale (top + margin) (.fin false m e))
    let k' := if fits then top else top - 1
    min (max k' (-126)) 126
  | _ => -126

/-- A scale record after a commit with its joined PENDING (R71). The history is a set of magnitudes; where memory was given an
entry with a set sign bit it is below zero and never the maximum (DEDUCED 54), and with a NaN among them K is a free value
(DESIGN CHOICE 55). -/
def scaleCommitted (r : List Byte) (pend : Word) : List Byte :=
  let head := numAt r 64 1
  let amax := (List.range 16).map fun i =>
    if i = head then pend else BitVec.ofNat 32 (numAt r (4 * i) 4)
  let a := (amax.filter fun v => !v.getLsbD 31).foldl (fun m v => if m.toNat < v.toNat then v else m) 0#32
  let k : BitVec 8 := if amax.any fun v => dec32 v == .nan then Config.scaleOpen amax
    else if a = 0 then BitVec.ofNat 8 (numAt r 66 1)
    else BitVec.ofInt 8 (scaleExponent (numAt r 67 1) (numAt r 65 1) a)
  amax.flatMap (fun v => leBytes 4 v.toNat) ++ leBytes 1 ((head + 1) % 16) ++ bytesAt r 65 1 ++ [k] ++
    bytesAt r 67 1 ++ List.replicate 4 0 ++ bytesAt r 72 56

end Sys2Proof.Machine
end

