-- ==== Sys2Proof/Machine/Ports.lean ====
section
/-! DEFINITION. The Speedwell ports and the torus as every part of the device uses them: coordinates (R7, R295), the
topology map in force (R294, R310), the job's slice (R323, R324), identity blocks and the checks on them (R293, R296). -/

namespace Sys2Proof.Machine

/-! ### Coordinates and the topology in force -/

/-- A coordinate's position on axis 0 X, 1 Y, 2 Z (R7). -/
def coordAxis (c : BitVec 18) (axis : Nat) : Nat := fld c (6 * axis + 5) (6 * axis)

/-- A coordinate with its position on one axis replaced. -/
def withAxis (c : BitVec 18) (axis v : Nat) : BitVec 18 := putFld c (6 * axis + 5) (6 * axis) v

/-- The device's coordinate (R310). -/
def myCoord (s : State) : BitVec 18 := BitVec.ofNat 18 (numAt s.link.topo 24 3)

/-- SHARE in force: of the Hetin record or a topology update, 8 where there is none (R303). -/
def topoShare (s : State) : Nat := if s.link.topo.isEmpty then 8 else numAt s.link.topo 27 1

/-- The torus extent of an axis, 1 where no map is in force. -/
def extentOf (s : State) (axis : Nat) : Nat := max 1 (numAt s.link.topo (28 + axis) 1)

/-- The topology sequence in force. -/
def topoSeq (s : State) : Nat := numAt s.link.topo 0 8

/-- The map entry of a physical port (R310). -/
def mapEntry (topo : List Byte) (p : Nat) : Word := BitVec.ofNat 32 (numAt topo (32 + 4 * p) 4)

/-- The expected peer of a physical port. -/
def mapCoord (topo : List Byte) (p : Nat) : BitVec 18 := BitVec.ofNat 18 (fld (mapEntry topo p) 17 0)

/-- The label the map gives a physical port. -/
def mapLabel (topo : List Byte) (p : Nat) : Nat := fld (mapEntry topo p) 20 18

/-- The port may send: ENABLE set and a label other than 7 (R294). -/
def mapEnabled (topo : List Byte) (p : Nat) : Bool := flag (mapEntry topo p) 21 && mapLabel topo p != 7

/-- The reverse of a label: X+ faces X−, Y+ Y−, Z+ Z−, Twin Twin (R294). -/
def reverseLabel (l : Nat) : Nat := if l = 6 then 6 else if l % 2 = 0 then l + 1 else l - 1

/-- A physical port. -/
def portOf (s : State) (p : Nat) : Port := s.link.ports.getD p Port.reset

/-- Change one port. -/
def setPort (s : State) (p : Nat) (f : Port → Port) : State :=
  { s with link := { s.link with ports := modifyAt s.link.ports p f } }

/-- A port that is UP or MGMT. -/
def portOpen (s : State) (p : Nat) : Bool := (portOf s p).mode == .up || (portOf s p).mode == .mgmt

/-- The ports that are UP or MGMT. -/
def openPorts (s : State) : List Nat := (List.range 7).filter (portOpen s)

/-- The physical port that bears a label. -/
def labelPort (s : State) (l : Nat) : Option Nat :=
  (List.range 7).find? fun p => (portOf s p).label.toNat == l && mapEnabled s.link.topo p

/-- The Twin port is not UP (R252). -/
def twinDown (s : State) : Bool := (portOf s 6).mode != .up

/-- The neighbour a label leads to (R284, R295). -/
def neighbour (s : State) (c : BitVec 18) (l : Nat) : BitVec 18 :=
  let a := l / 2
  let n := extentOf s a
  withAxis c a (if l % 2 = 0 then (coordAxis c a + 1) % n else (coordAxis c a + n - 1) % n)

/-! ### The job's slice (R323, R324) -/

/-- The device holds a lease that it may act on. -/
def leased (s : State) : Bool := s.eth.phase == .claimed || s.eth.phase == .confirmed || s.eth.phase == .lapsing

/-- The job tag of the lease; zero without one. -/
def jobTag (s : State) : BitVec 16 := if leased s then BitVec.ofNat 16 (numAt s.eth.entry 0 2) else 0

/-- The topology descriptor of the leased entry (R385). -/
def jobTopo (s : State) : List Byte := bytesAt s.eth.entry 8 16

/-- Slice extent of an axis. -/
def sliceExtent (t : List Byte) (axis : Nat) : Nat := max 1 (numAt t (4 + axis) 1)

/-- The slice wraps on an axis. -/
def sliceWraps (t : List Byte) (axis : Nat) : Bool := (numAt t 3 1).testBit axis

/-- Relative position of a coordinate on an axis (R324). -/
def relPos (s : State) (t : List Byte) (c : BitVec 18) (axis : Nat) : Nat :=
  (coordAxis c axis + extentOf s axis - coordAxis (BitVec.ofNat 18 (numAt t 0 3)) axis) % extentOf s axis

/-- The coordinate lies in the slice. -/
def inSlice (s : State) (t : List Byte) (c : BitVec 18) : Bool :=
  (List.range 3).all fun a => decide (relPos s t c a < sliceExtent t a)

/-- Logical rank of a coordinate (R324). -/
def rankOf (s : State) (t : List Byte) (c : BitVec 18) : Nat :=
  relPos s t c 0 + sliceExtent t 0 * (relPos s t c 1 + sliceExtent t 1 * relPos s t c 2)

/-- Devices of the slice. -/
def sliceSize (t : List Byte) : Nat := sliceExtent t 0 * sliceExtent t 1 * sliceExtent t 2

/-- The coordinate of a logical rank. -/
def rankCoord (s : State) (t : List Byte) (r : Nat) : BitVec 18 :=
  let o := BitVec.ofNat 18 (numAt t 0 3)
  let at' := fun (a q : Nat) => (coordAxis o a + q) % extentOf s a
  let x := at' 0 (r % sliceExtent t 0)
  let y := at' 1 (r / sliceExtent t 0 % sliceExtent t 1)
  let z := at' 2 (r / (sliceExtent t 0 * sliceExtent t 1))
  BitVec.ofNat 18 (x + 64 * y + 4096 * z)

/-- A port whose link the slice uses: its neighbour along its label is another place of the slice, across an edge that
does not wrap or on an axis that wraps (R31, R301). -/
def sliceUsesLabel (s : State) (t : List Byte) (c : BitVec 18) (l : Nat) : Bool :=
  let a := l / 2
  let n := sliceExtent t a
  let q := relPos s t c a
  decide (l < 6) && decide (1 < n) && (sliceWraps t a || (if l % 2 = 0 then decide (q + 1 < n) else decide (0 < q)))

/-- Both ends of a port's link hold leases of this job and lie in its slice (R301, R309). -/
def portOwned (s : State) (p : Nat) : Bool :=
  jobTag s != 0 && (match (portOf s p).peer with
    | some b => b.jobtag == jobTag s && inSlice s (jobTopo s) b.coord && inSlice s (jobTopo s) (myCoord s)
    | none => false)

/-! ### Identity (R293) -/

/-- The features the job in force requires (R346): relay, queues, multicast branch timeouts, layout epochs, link packet
counts always, slipped launches. -/
def requiredFeatures (s : State) : DWord :=
  if !leased s ∨ s.seq.job.isNone then 0
  else
    let n := sectionCount s 13 64
    let any := fun (p : List Byte → Bool) => (List.range n).any fun i => p (sectionEntry s 13 64 i)
    let kind := fun (d : List Byte) => numAt d 0 1 % 16
    let epochs := (List.range (bundleCount s)).any fun k => (List.range 8).any fun c => fld (chipWord s k c) 7 0 == 0x11
    let f := fun (i : Nat) (b : Bool) => if b then 2 ^ i else 0
    BitVec.ofNat 64 (f 0 (any fun d => kind d == 7) + f 1 (any fun d => kind d == 8) +
      f 2 (any fun d => decide (kind d ≤ 4) && numAt d 6 2 != 0) + f 3 epochs + 32 + f 6 (decide (0 < n)))

/-- Firmware revision of the record in force (R401). -/
def recordSection (record : List Byte) (typ : Nat) : List Byte :=
  match (List.range 16).find? (fun e => numAt record (64 + 16 * e) 2 == typ) with
  | some e => bytesAt record (numAt record (64 + 16 * e + 4) 4) (numAt record (64 + 16 * e + 8) 4)
  | none => []

/-- Firmware revision in force. -/
def firmwareRev (s : State) : Word := BitVec.ofNat 32 (numAt (recordSection s.sec.record 1) 0 4)

/-- Speedwell versions a port offers: the Twin port Speedwell 3 only (R286). -/
def portVersions (p : Nat) : BitVec 3 := if p = 6 then 4 else 7

/-- The identity block the device sends on a port. -/
def localIdentity (s : State) (p : Nat) : IdBlock :=
  { serial := Config.serial, coord := myCoord s, physPort := BitVec.ofNat 3 p, label := (portOf s p).label, gen := 3,
    vers := portVersions p, fwrev := firmwareRev s, features := Config.firmwareFeatures.setWidth 64,
    required := requiredFeatures s, jobtag := jobTag s, toposeq := BitVec.ofNat 64 (topoSeq s) }

/-- An identity block laid out (R293). -/
def identityBytes (b : IdBlock) : List Byte :=
  leBytes 16 b.serial.toNat ++ leBytes 3 b.coord.toNat ++ leBytes 1 (b.physPort.toNat + 8 * b.label.toNat) ++ [b.gen] ++
    leBytes 1 b.vers.toNat ++ [0, 0] ++ leBytes 4 b.fwrev.toNat ++ leBytes 8 b.features.toNat ++
    leBytes 8 b.required.toNat ++ leBytes 2 b.jobtag.toNat ++ [0, 0] ++ leBytes 8 b.toposeq.toNat ++ List.replicate 8 0

/-- Send the identity block on ports. -/
def sendIdentity (s : State) (ps : List Nat) : State :=
  send s (ps.map fun p => .identity p (identityBytes (localIdentity s p)))

/-- The neighbour at the far end of a port. -/
def peerCoord (s : State) (p : Nat) : BitVec 18 := match (portOf s p).peer with
  | some b => b.coord
  | none => mapCoord s.link.topo p

/-! ### Port states -/

/-- The tree traffic of an own link that stops being UP stays away from it until the next commit instant (R326). -/
def leaveLink (s : State) (p : Nat) : State :=
  if (portOf s p).mode = .up then
    { s with link := { s.link with away := (s.link.away.filter (· != (portOf s p).label)) ++ [(portOf s p).label] } }
  else s

/-- A remap in which a port takes part ends: both ports of the pair bear the labels of the map again, and the other one, whose
identity block changes with it, sends it where it may (R293, R297). -/
def endRemap (s : State) (p : Nat) : State :=
  if (portOf s p).remap then
    let pair := (List.range 7).filter fun i => (portOf s i).remap
    let s1 := pair.foldl (fun s i =>
      setPort s i fun q => { q with remap := false, label := BitVec.ofNat 3 (mapLabel s.link.topo i) }) s
    sendIdentity s1 (pair.filter fun i => i != p && (portOf s1 i).mode != .down && (portOf s1 i).mode != .train)
  else s

/-- Lane groups a port has, and how many it needs (R289). -/
def laneGroups (p : Nat) : Nat × Nat := if p = 6 then (4, 2) else (2, 1)

/-- The groups left are too few for half the lanes. -/
def tooFewGroups (p : Nat) (out : BitVec 4) : Bool :=
  decide ((laneGroups p).1 - (bitsOf out.toNat 4).length < (laneGroups p).2)

/-- A port enters TRAIN: its remap ends, the lane groups that the self-test found bad are out of use; with no usable half it is held
DOWN with cause LANES (R289, R292, R466). -/
def enterTrain (s : State) (p : Nat) : State :=
  setPort (endRemap (leaveLink s p) p) p fun q =>
    if tooFewGroups p q.badGroups then
      { q with mode := .down, version := 0, half := false, fast := false, retry := false, heard := false, cause := 7 }
    else
      { q with
        mode := .train, version := 0, half := q.badGroups != 0, groupsOut := q.badGroups, fast := false, retry := false
        heard := false, fails := 0 }

/-- A port goes DOWN with a cause (LINK_STATE). -/
def takeDown (s : State) (p cause : Nat) : State :=
  setPort (leaveLink s p) p fun q => { q with
    mode := .down, version := 0, half := false, fast := false, cause := BitVec.ofNat 4 cause, wasDown := true,
    exchanges := 0, unacked := [], waiting := [], fails := 0, heard := false
    downs := if q.mode = .up ∨ q.mode = .mgmt then BitVec.ofNat 8 (satAdd 8 q.downs.toNat 1) else q.downs }

/-! ### Checks on the identity (R296) -/

/-- The highest version both ends offer (R286). -/
def commonVersion (p : Nat) (b : IdBlock) : Option Nat :=
  [3, 2, 1].find? fun v => (portVersions p).getLsbD (v - 1) && b.vers.getLsbD (v - 1)

/-- The enabled map entry of a port's label in force: another port's while its label is exchanged (R297). -/
def labelEntry (s : State) (p : Nat) : Nat :=
  ((List.range 7).find? fun j => mapEnabled s.link.topo j && mapLabel s.link.topo j == (portOf s p).label.toNat).getD p

/-- COORD and the peer's label are what map entry j expects (R294). -/
def meetsEntry (s : State) (j : Nat) (b : IdBlock) : Bool :=
  mapEnabled s.link.topo j && b.coord == mapCoord s.link.topo j && b.label.toNat == reverseLabel (mapLabel s.link.topo j)

/-- Feature bits that check 3 of R296 finds missing on either side. -/
def missingBits (s : State) (p : Nat) (b : IdBlock) : BitVec 8 :=
  let me := localIdentity s p
  if me.jobtag = b.jobtag ∧ me.jobtag ≠ 0 then
    ((me.required &&& ~~~b.features) ||| (b.required &&& ~~~me.features)).setWidth 8
  else 0

/-- The state that the checks decide for a port whose peer is the expected one: MGMT, or UP once the epoch counter is
loaded (R315), CHECK before. A port that comes to MGMT for missing features is reported (R296, R396). -/
def settlePort (s : State) (p : Nat) : State :=
  match (portOf s p).peer with
  | none => s
  | some b =>
    let v := BitVec.ofNat 2 ((commonVersion p b).getD 0)
    let m := missingBits s p b
    if m ≠ 0 then
      let s1 := setPort (leaveLink s p) p fun q => { q with mode := .mgmt, version := v, missing := m, cause := 5 }
      if (portOf s p).mode = .mgmt ∧ (portOf s p).missing = m then s1 else report s1 7 p
    else setPort s p fun q => { q with
      mode := if s.time.loaded then .up else .check, version := v, missing := 0 }

/-- Check 3 again on every port that is UP or MGMT, when the lease changes (R299). -/
def recheckPorts (s : State) : State := (openPorts s).foldl settlePort s

/-- The lease changed: new identity blocks and check 3 on every port that is UP or MGMT (R293, R299). -/
def leaseIdentity (s : State) : State := recheckPorts (sendIdentity s (openPorts s))

/-- The counter is loaded: ports in CHECK whose peer is the expected one reach UP or MGMT (R315). -/
def releaseChecked (s : State) : State :=
  ((List.range 7).filter fun p => (portOf s p).mode == .check && !(portOf s p).fast &&
    (portOf s p).peer.any (meetsEntry s (labelEntry s p))).foldl settlePort s

end Sys2Proof.Machine
end

