-- ==== Sys2Proof/Machine/Packets.lean ====
section
/-! DEFINITION. Speedwell packets as they are sent (R287, R288), routes and reachability (R304 to R306, R326), link-state notices
(R307), ports that go DOWN, the application of a topology update (R313). -/

namespace Sys2Proof.Machine

/-! ### Packets (R287) -/

/-- A global address (R7). -/
def globalAddr (coord : BitVec 18) (loc : Nat) : DWord := BitVec.ofNat 64 (loc % 2 ^ 44 + coord.toNat * 2 ^ 44)

/-- The coordinate of a global address. Bits [63:62] of an address that comes from outside, which R7 says are 0b00, are not
looked at (DESIGN CHOICE 57). -/
def addrCoord (a : DWord) : BitVec 18 := BitVec.ofNat 18 (fld a 61 44)

/-- Bytes 0 to 27 of a packet. -/
def packetHead (p : Packet) : List Byte :=
  leBytes 8 p.dest.toNat ++ leBytes 3 p.src.toNat ++ [p.kind] ++ leBytes 2 p.jobtag.toNat ++
    leBytes 2 p.payload.length ++ leBytes 4 p.lseq.toNat ++ leBytes 8 p.aux.toNat

/-- The CRC a packet should carry. -/
def packetCrc (p : Packet) : Word := crc32 (packetHead p ++ p.payload)

/-- A data packet, point-to-point or collective. -/
def isData (p : Packet) : Bool := p.kind == 1 || p.kind == 2

/-- A system exchange (R334). -/
def isSystem (p : Packet) : Bool := p.kind == 2 && flag p.aux 15

/-- The packet that carries a link packet count: exchange 0x000 (R279, R334). -/
def carriesCount (p : Packet) : Bool := isSystem p && fld p.aux 11 0 == 0

/-- A packet is carried in the port's state (R291); the fence exchange passes a port in MGMT as well (R345). -/
def carries (m : PortMode) (p : Packet) : Bool :=
  match m with
  | .up => decide (1 ≤ p.kind.toNat) && decide (p.kind.toNat ≤ 4)
  | .mgmt => p.kind == 3 || p.kind == 4 || (isSystem p && fld p.aux 11 0 == 3)
  | .check => p.kind == 3
  | _ => false

/-- The packet travels in the transit class of a port: data of another job on an owned link (R302). -/
def inTransit (s : State) (port : Nat) (p : Packet) : Bool := isData p && portOwned s port && p.jobtag != jobTag s

/-- The port's state carries packets of some kind. -/
def carriesPackets (m : PortMode) : Bool := m == .check || m == .up || m == .mgmt

/-- A payload filled up with zero bytes to a multiple of 32 (R287). -/
def padPayload (bs : List Byte) : List Byte := bs ++ List.replicate (32 * ceilDiv bs.length 32 - bs.length) 0

/-- A packet of this device. -/
def newPacket (s : State) (coord : BitVec 18) (kind : Nat) (aux : Nat) (payload : List Byte) : Packet :=
  { dest := globalAddr coord 0, src := (myCoord s).setWidth 24, kind := BitVec.ofNat 8 kind
    jobtag := if kind = 1 ∨ kind = 2 then jobTag s else 0, lseq := 0, aux := BitVec.ofNat 64 aux, payload := payload
    crc := 0 }

/-- Point-to-point data of this device for a global address (R7, R287). Bytes 20 to 27 are zero for a write; for a read they hold 1
and, in their upper half, the bytes asked for (DESIGN CHOICE 59). -/
def dataPacket (s : State) (coord : BitVec 18) (a aux : Nat) (payload : List Byte) : Packet :=
  { newPacket s coord 1 aux payload with dest := globalAddr coord a }

/-- Bytes 20 to 27 of a packet that asks for n bytes. -/
def readAux (n : Nat) : Nat := 1 + n * 2 ^ 32

/-! ### The replay buffer (R288) -/

/-- Bytes of a packet. -/
def packetBytes (p : Packet) : Nat := 32 + p.payload.length

/-- Bytes of a port's replay buffer. -/
def replayBuffer (port : Nat) : Nat := if port = 6 then 2097152 else 1048576

/-- The replay buffer of a port has room for a packet. -/
def hasRoom (s : State) (port : Nat) (p : Packet) : Bool :=
  decide (((portOf s port).unacked.map packetBytes).sum + packetBytes p ≤ replayBuffer port)

/-- A packet goes out on a port, for the first time or again, and is counted (R455). -/
def putOut (s : State) (port : Nat) (p : Packet) : State :=
  let own := isData p && p.jobtag == jobTag s
  let s1 := countEv (send s [.packet port p]) { code := 0x30, port := some port, job := own }
  let s2 := countEv s1 { code := 0x31, port := some port, job := own, amount := p.payload.length }
  if inTransit s port p then
    countEv s2 { code := 0x33, port := some port, job := false, amount := p.payload.length }
  else s2

/-- The packet as it leaves: with the port's next sequence number, and, where it is this device's and carries the count of its
link, with the data packets sent before it in the step (R279; DESIGN CHOICE 12). -/
def stamped (s : State) (port : Nat) (p : Packet) : Packet :=
  let q := portOf s port
  let mine := carriesCount p && p.src == (myCoord s).setWidth 24
  let p1 := { p with lseq := q.txSeq, aux := if mine then putFld p.aux 63 32 q.sent.toNat else p.aux }
  { p1 with crc := packetCrc p1 }

/-- A packet leaves on a port: it takes the port's next sequence number and stays in the replay buffer (R288); data packets count
(R279). -/
def sendNow (s : State) (port : Nat) (p0 : Packet) : State :=
  let p := stamped s port p0
  putOut (setPort s port fun q => { q with
    txSeq := q.txSeq + 1, unacked := q.unacked ++ [p], sent := if isData p then q.sent + 1 else q.sent }) port p

/-- A packet joins those that wait for room: management packets and notices go before data (R302). -/
def queuePacket (w : List Packet) (p : Packet) : List Packet :=
  if isData p then w ++ [p] else w.filter (fun x => !isData x) ++ [p] ++ w.filter isData

/-- Packets that waited leave while the port's state carries them and the replay buffer has room (R288, R291). -/
def drainPort : Nat → State → Nat → State
  | 0, s, _ => s
  | n + 1, s, port =>
    match (portOf s port).waiting with
    | p :: rest =>
      if carries (portOf s port).mode p ∧ hasRoom s port p then drainPort n (sendNow (setPort s port fun q => { q with waiting := rest }) port p) port else s
    | [] => s

/-- Send a packet on a port, at once or when the port's state carries it and the replay buffer has room. -/
def transmit (s : State) (port : Nat) (p : Packet) : State :=
  let w := (portOf s port).waiting
  if w.isEmpty && carries (portOf s port).mode p && hasRoom s port p then sendNow s port p
  else drainPort (w.length + 1) (setPort s port fun q => { q with waiting := queuePacket w p }) port

/-- A cumulative acknowledgement: every packet up to LSEQ leaves the replay buffer (R288). -/
def takeAck (s : State) (port : Nat) (lseq : Word) : State :=
  let q := portOf s port
  let rest := q.unacked.filter fun p => decide ((p.lseq - lseq - 1).toNat < 2 ^ 31)
  let s1 := setPort s port fun x => { x with
    unacked := rest, fails := if rest.length = q.unacked.length then x.fails else 0 }
  drainPort q.waiting.length s1 port

/-- Packets that wait leave on every port where they may. -/
def drainPorts (s : State) : State :=
  if s.link.ports.all fun q => q.waiting.isEmpty then s
  else (List.range 7).foldl (fun s p => drainPort (portOf s p).waiting.length s p) s

/-! ### Routes (R304 to R306, R326) -/

/-- The link at the label end of a chip is UP: an own one as its port shows, another one as the notices do. Tree traffic does not
return to an own link before the commit instant after it came UP (R326). -/
def linkUp (s : State) (tree : Bool) (c : BitVec 18) (l : Nat) : Bool :=
  let d := neighbour s c l
  let own := fun (l : Nat) => match labelPort s l with
    | some p => (portOf s p).mode == .up && !(tree && s.link.away.contains (BitVec.ofNat 3 l))
    | none => false
  let known := fun (x : BitVec 18) (l : Nat) => !s.link.downLinks.contains (x, BitVec.ofNat 3 l)
  if c = myCoord s then own l
  else if d = myCoord s then own (reverseLabel l)
  else known c l && known d (reverseLabel l)

/-- The label of a step along an axis from c toward d: the shorter way round, a tie positive; on an axis whose slice
does not wrap, toward the destination (R304). -/
def axisStep (s : State) (c d : BitVec 18) (a : Nat) : Nat :=
  let n := extentOf s a
  let up := (coordAxis d a + n - coordAxis c a) % n
  let t := jobTopo s
  let noWrap := leased s && inSlice s t c && inSlice s t d && !sliceWraps t a
  if noWrap then (if relPos s t c a < relPos s t d a then 2 * a else 2 * a + 1)
  else if up ≤ n - up then 2 * a else 2 * a + 1

/-- Follow labels from a chip over links that are all UP. -/
def walk (s : State) (tree : Bool) : List Nat → BitVec 18 → Option (BitVec 18)
  | [], c => some c
  | l :: ls, c => if linkUp s tree c l then walk s tree ls (neighbour s c l) else none

/-- The paths to try from a chip for a step of label l: the link, the detours through the planes of the next axes, and
past an absent chip (R305). -/
def stepPaths (l : Nat) : List (List Nat) :=
  let a := l / 2
  let around := [2 * ((a + 1) % 3), 2 * ((a + 1) % 3) + 1, 2 * ((a + 2) % 3), 2 * ((a + 2) % 3) + 1]
  [l] :: (around.map fun d => [d, l, reverseLabel d]) ++ around.map fun d => [d, l, l, reverseLabel d]

/-- The path that a step of label l takes from c toward d, and where it ends. -/
def labelPath (s : State) (tree : Bool) (c d : BitVec 18) (l : Nat) : Option (List Nat × BitVec 18) :=
  (stepPaths l).findSome? fun path =>
    if path.length = 4 ∧ neighbour s c l = d then none
    else (walk s tree path c).map fun e => (path, e)

/-- The path one routing step takes from c toward d. -/
def routeStep (s : State) (tree : Bool) (c d : BitVec 18) : Option (List Nat × BitVec 18) :=
  match (List.range 3).find? (fun a => coordAxis c a != coordAxis d a) with
  | none => some ([], c)
  | some a => labelPath s tree c d (axisStep s c d a)

/-- The hops of a path: each chip with the label on which it is left. -/
def hopsOf (s : State) : List Nat → BitVec 18 → List (BitVec 18 × Nat)
  | [], _ => []
  | l :: ls, c => (c, l) :: hopsOf s ls (neighbour s c l)

/-- The hops of the whole route from c to d; none where no route reaches it within `fuel` routing steps. -/
def routeHops (s : State) : Nat → BitVec 18 → BitVec 18 → Option (List (BitVec 18 × Nat))
  | 0, c, d => if c = d then some [] else none
  | n + 1, c, d =>
    if c = d then some []
    else match routeStep s false c d with
      | some (path, e) => (routeHops s n e d).map (hopsOf s path c ++ ·)
      | none => none

/-- A destination that some route reaches (R306); 96 steps pass any torus. -/
def reachable (s : State) (d : BitVec 18) : Bool := (routeHops s 96 (myCoord s) d).isSome

/-- The label on which this device leaves a list of hops, at its last passage. -/
def ownHop (s : State) (hops : List (BitVec 18 × Nat)) : Option Nat :=
  (hops.reverse.find? fun h => h.1 == myCoord s).map (·.2)

/-- Detours between two neighbouring chips, in either direction round their axis: the paths that tree traffic may take (R326). -/
def detourHops (s : State) (c d : BitVec 18) : List (List (BitVec 18 × Nat)) :=
  ((List.range 6).filter fun l => neighbour s c l == d).flatMap fun l => (stepPaths l).map fun path => hopsOf s path c

/-- The label on which a packet from `src` leaves this device (R304, R305): its place on the route from its source; a packet that
is not on that route goes on along the detour that passes here, or is routed afresh (DEDUCED 54). -/
def nextLabel (s : State) (src d : BitVec 18) : Option Nat :=
  match (routeHops s 96 src d).bind (ownHop s) with
  | some l => some l
  | none => match if src = myCoord s then none else (detourHops s src d).findSome? (ownHop s) with
    | some l => if linkUp s false (myCoord s) l then some l else (routeHops s 96 (myCoord s) d).bind (ownHop s)
    | none => (routeHops s 96 (myCoord s) d).bind (ownHop s)

/-- A packet without a route is dropped and counted (R306). -/
def dropPacket (s : State) : State :=
  { s with link := { s.link with unreach := BitVec.ofNat 32 (satAdd 32 s.link.unreach.toNat 1) } }

/-- Send a packet toward its destination. -/
def route (s : State) (p : Packet) : State :=
  match (nextLabel s (BitVec.ofNat 18 p.src.toNat) (addrCoord p.dest)).bind (labelPort s) with
  | some port => transmit s port p
  | none => dropPacket s

/-- Some member of the job is unreachable (R306). -/
def memberLost (s : State) : Bool :=
  leased s && !(List.range (sliceSize (jobTopo s))).all fun r => reachable s (rankCoord s (jobTopo s) r)

/-! ### Link-state notices (R307, R353) -/

/-- A notice of the last 100 µs, in which a notice reaches every device, is the same notice (DESIGN CHOICE 35). -/
def noticeSeen (s : State) (n : Notice) : Bool :=
  s.link.notices.any fun x => x.1 == n && decide (s.time.epoch.toNat ≤ x.2.toNat + 100000)

/-- Remember a notice, so that it is forwarded once. -/
def rememberNotice (s : State) (n : Notice) : State :=
  { s with link := { s.link with notices := (s.link.notices.filter fun x => x.1 != n) ++ [(n, s.time.epoch)] } }

/-- The payload of a notice with some of its job tags, whose layout the spec leaves open (DESIGN CHOICE 55): the origin, whether it
names a link, whether that is UP, and its label; the coordinate of its end; the number of tags; the tags. -/
def noticePayload (n : Notice) (tags : List (BitVec 16)) : List Byte :=
  let l := n.link.getD (0, 0)
  padPayload (leBytes 3 n.origin.toNat ++ leBytes 1 (n.link.isSome.toNat + 2 * n.up.toNat + 16 * l.2.toNat) ++
    leBytes 3 l.1.toNat ++ [0] ++ leBytes 2 tags.length ++ tags.flatMap fun t => leBytes 2 t.toNat)

/-- The payloads of a notice: every tag it names, 2,040 in a packet. -/
def noticePayloads (n : Notice) : List (List Byte) :=
  (List.range (max 1 (ceilDiv n.tags.length 2040))).map fun k => noticePayload n ((n.tags.drop (2040 * k)).take 2040)

/-- Send a notice on a port. -/
def sendNotice (n : Notice) (s : State) (p : Nat) : State :=
  (noticePayloads n).foldl (fun t bs => transmit t p (newPacket s (peerCoord s p) 4 0 bs)) s

/-- Send a notice on every port that is UP or MGMT (R307). -/
def floodNotice (s : State) (n : Notice) : State := rememberNotice ((openPorts s).foldl (sendNotice n) s) n

/-! ### Ports that go DOWN (R307) -/

/-- The job tags of data packets that are lost with a port. -/
def lostTags (s : State) (p : Nat) : List (BitVec 16) :=
  (((portOf s p).unacked.filter isData).map (·.jobtag)).eraseDups

/-- A port goes DOWN: the cause is recorded, the others are told with the tags of the packets lost, and packets that it had not
sent yet take another way. -/
def portDown (s : State) (p cause : Nat) : State :=
  let n : Notice := { origin := myCoord s, link := some (myCoord s, (portOf s p).label), up := false, tags := lostTags s p }
  ((portOf s p).waiting.filter fun x => x.kind != 4).foldl route (floodNotice (takeDown s p cause) n)

/-! ### Topology updates (R312, R313) -/

/-- A changed port of an update takes its new entry: it trains again, whether or not its power domain is on (DESIGN CHOICE 55), or
is held in DOWN (R294). -/
def changePort (new : List Byte) (s : State) (p : Nat) : State :=
  let s1 := if mapEnabled new p ∨ (portOf s p).mode = .down then s else portDown s p 8
  let s2 := setPort (endRemap s1 p) p fun q => { q with label := BitVec.ofNat 3 (mapLabel new p) }
  if mapEnabled new p then setPort (enterTrain s2 p) p fun q => { q with cause := if q.mode = .train then 9 else q.cause }
  else setPort s2 p fun q => { q with cause := 8 }

/-- Apply bytes 0 to 59 of a topology update (R313). -/
def applyTopology (s : State) (path : Path) (new : List Byte) : State :=
  let old := s.link.topo
  let s1 := { s with link := { s.link with topo := new, waiting := none } }
  let s2 := audit s1 0x31 .device path 0 (numAt new 0 8)
  let change := fun (p : Nat) => mapEntry old p != mapEntry new p || (portOf s p).mode == .miswired
  let s3 := ((List.range 7).filter change).foldl (changePort new) s2
  sendIdentity s3 ((openPorts s3).filter fun p => !change p)

/-- An accepted update that waits is applied when the step is abandoned, the job stopped or the lease released
(R312). -/
def applyWaiting (s : State) : State :=
  match s.link.waiting with
  | some t => applyTopology s .internal t
  | none => s

end Sys2Proof.Machine
end

