-- ==== Sys2Proof/Machine/Rails.lean ====
section
/-! DEFINITION. Masks of power domains (R434), the order in which they wake (R439), and the board rails (R475, R476). -/

namespace Sys2Proof.Machine

/-- A mask of domains lo to hi. -/
def domainRange (lo hi : Nat) : BitVec 40 := BitVec.ofNat 40 (2 ^ (hi + 1) - 2 ^ lo)

/-- A mask of domains from their numbers. -/
def domainMask (l : List Nat) : BitVec 40 := l.foldl (fun m d => m ||| BitVec.ofNat 40 (2 ^ d)) 0

/-- The order of a domain's group in a wake (R439). -/
def wakeGroup (d : Nat) : Nat :=
  if 24 ≤ d ∧ d < 32 then 0
  else if d = 22 then 2
  else if 20 ≤ d ∧ d < 24 then 1
  else if 32 ≤ d ∧ d < 39 then 3
  else if d = 39 then 4
  else 5

/-- The domains of a wake that act now: those of the first group that has not woken. -/
def wakingNow (l : List (Nat × WakeStep)) : List (Nat × WakeStep) :=
  l.filter fun x => l.all fun y => decide (wakeGroup x.1 ≤ wakeGroup y.1)

/-- The board rails in the enable order. -/
def rails : List Rail := [.hbmPP, .hbmC, .hbmQ, .bank, .sram, .coreW, .coreE, .link, .nand]

/-- The place of a rail in the enable order: CORE_W and CORE_E come together (R476). -/
def railRank (k : Nat) : Nat := if k ≤ 5 then k else k - 1

/-- The domains of a board rail. -/
def railDomains : Rail → BitVec 40
  | .hbmPP => domainRange 24 31
  | .hbmC => domainRange 24 31
  | .hbmQ => domainRange 24 31
  | .bank => domainRange 24 31
  | .sram => domainRange 0 23
  | .coreW => domainRange 0 9 ||| domainMask [20, 22, 23]
  | .coreE => domainRange 10 19 ||| domainMask [21]
  | .link => domainRange 32 39
  | .nand => domainRange 39 39

/-- The rails of a mask of domains, as bits in the enable order. -/
def railsOf (m : BitVec 40) : BitVec 9 :=
  BitVec.ofNat 9 ((rails.zipIdx.filter fun r => railDomains r.1 &&& m != 0).foldl (fun n r => n + 2 ^ r.2) 0)

/-- The rails that a domain which is on or wakes uses. -/
def railsUsed (s : State) : BitVec 9 := railsOf (s.pwr.domains ||| domainMask ((wakingNow s.pwr.waking).map (·.1)))

/-- The rails whose supply a domain has found good (R439): those of a domain that is on or past its first wake step. -/
def railsFound (s : State) : BitVec 9 :=
  railsOf (s.pwr.domains ||| domainMask (((wakingNow s.pwr.waking).filter fun x => x.2 != .regulator).map (·.1)))

/-- The rails of `used` that may be enabled: every earlier one of them is good (R476). -/
def railsNext (used good : BitVec 9) : BitVec 9 :=
  BitVec.ofNat 9 (((List.range 9).filter fun k => used.getLsbD k &&
    (List.range 9).all fun j => !used.getLsbD j || good.getLsbD j || decide (railRank k ≤ railRank j)).foldl (fun n k => n + 2 ^ k) 0)

/-- EN and PG of the rails: a rail that a domain uses is enabled once the earlier ones are good; one that no domain uses stays
enabled until its turn to be disabled comes (R476). -/
def refreshRails (s : State) : State :=
  let used := railsUsed s
  let found := railsFound s
  let good := (s.pwr.good &&& s.pwr.enable) ||| found
  { s with pwr := { s.pwr with enable := s.pwr.enable ||| found ||| railsNext used good, good := good } }

/-- The rail to disable: the last in the enable order that no domain uses (R476). -/
def railToDrop (s : State) : Option Nat := (List.range 9).reverse.find? fun k => s.pwr.enable.getLsbD k && !(railsUsed s).getLsbD k

/-- One tick of the rails: the board drives PG of a rail that is enabled (DESIGN CHOICE 61); 1 ms after the last one, the next rail
that no domain uses is disabled (R476). -/
def railTick (s : State) : State :=
  let s1 := { s with pwr := { s.pwr with good := s.pwr.enable } }
  match railToDrop s1 with
  | some k =>
    if s1.time.epoch.toNat < s1.pwr.railDrop.toNat + 1000000 ∧ s1.pwr.railDrop ≠ 0 then refreshRails s1
    else refreshRails { s1 with pwr := { s1.pwr with
      enable := putFlag s1.pwr.enable k false, good := putFlag s1.pwr.good k false, railDrop := s1.time.epoch } }
  | none => refreshRails s1

end Sys2Proof.Machine
end

