-- ==== Sys2Proof/Machine/Roce.lean ====
section
/-! DEFINITION. RoCEv2 on the Ethernet port (R379, R380, R382): connections, the marks of packets, congestion notifications,
and the issue of a transfer. -/

namespace Sys2Proof.Machine

/-- UDP port of RoCEv2. -/
def rocePort : Nat := 4791

/-- Path MTU, in bytes. -/
def pathMtu : Nat := 4096

/-- Connections that the device holds at most. -/
def maxConns : Nat := 64

/-- DSCP of the network section (R403). -/
def roceDscp (s : State) : Nat := numAt (recordSection s.sec.record 6) 10 1 % 64

/-- The number of the connection to a peer. -/
def connOf (s : State) (p : Peer) : Option Nat := (s.eth.conns.find? (·.peer == p)).map (·.number)

/-- A connection to a peer: the one that is open, or a new one while there is room. -/
def connect (s : State) (p : Peer) : State :=
  if (connOf s p).isSome ∨ maxConns ≤ s.eth.conns.length then s
  else { s with eth := { s.eth with
    conns := s.eth.conns ++ [{ peer := p, number := s.eth.nextConn }], nextConn := s.eth.nextConn + 1 } }

/-- The connection to a peer is given up. -/
def disconnect (s : State) (p : Peer) : State :=
  { s with eth := { s.eth with conns := s.eth.conns.filter (·.peer != p) } }

/-- The peer that a transfer's target stands for: the directory server (8), or the I/O queue of a storage target. -/
def peerOf (target : Nat) : Peer := if target = 8 then .server else .queue target

/-- The network section of the record in force (R403). -/
def network (s : State) : List Byte := recordSection s.sec.record 6

/-- What a message of n bytes to a peer goes out under (R377, R379, R403). -/
def roceMark (s : State) (p : Option Peer) (n : Nat) : Roce :=
  { port := rocePort, dscp := roceDscp s, priority := numAt (network s) 9 1
    vlan := if (numAt (network s) 8 1).testBit 1 then some (numAt (network s) 12 2) else none
    conn := p.bind (connOf s), packets := max 1 (ceilDiv n pathMtu) }

/-- An arriving packet that carries the congestion mark is answered with a congestion notification packet (R379). -/
def answerMark (s : State) (p : Option Peer) (marked : Bool) : State :=
  if marked then send s [.congestion (roceMark s p 0)] else s

/-- A frame that the port cannot take (R377): its FEC or frame check failed, it is longer than 9,216 bytes, or it has more than one
802.1Q tag. -/
def badFrame (f : EthFrame) : Bool := f.bad || decide (9216 < f.length) || decide (1 < f.tags)

/-- ETH_ERR UNCORR counts such a frame. -/
def countFrame (s : State) : State :=
  { s with eth := { s.eth with uncorr := BitVec.ofNat 16 (satAdd 16 s.eth.uncorr.toNat 1) } }

/-! ### Targets (R382) -/

/-- The record lists the storage target: its entry has an address (R403). -/
def targetListed (s : State) (target : Nat) : Bool := !zeroAt (network s) (96 + 256 * target) (96 + 256 * target + 15)

/-- Send a capsule to a storage target on a connection to it. -/
def sendCapsule (s : State) (p : Peer) (target : Nat) (c : Capsule) : State :=
  send s [.capsule (roceMark s (some p) 64) target c]

/-- A connection to a queue of a storage target, opened with Connect where there was none. -/
def connectQueue (s : State) (p : Peer) (target : Nat) : State :=
  if (connOf s p).isSome then s
  else
    let s1 := connect s p
    if (connOf s1 p).isSome then sendCapsule s1 p target .connect else s1

/-- The namespace is identified on the admin queue before its first use. -/
def identify (s : State) (target ns : Nat) : State :=
  if s.eth.spaces.contains (target, ns) then s
  else sendCapsule { s with eth := { s.eth with spaces := s.eth.spaces ++ [(target, ns)] } } (.admin target) target (.identify ns)

/-- Connections for a transfer: the directory server's, or the admin queue and one I/O queue of a storage target, which never has
more than 256 transfers in flight (DESIGN CHOICE 58), with its namespace identified. -/
def connectTo (s : State) (target ns : Nat) : State :=
  if target = 8 then connect s .server
  else identify (connectQueue (connectQueue s (.admin target) target) (.queue target) target) target ns

/-- A Keep Alive on every admin queue; it goes out with each read of the directory and each renewal, as the spec names no time for it
(DESIGN CHOICE 58). -/
def keepAlive (s : State) : State :=
  (s.eth.conns.filterMap fun c => match c.peer with
    | .admin t => some t
    | _ => none).foldl (fun s t => sendCapsule s (.admin t) t .keepAlive) s

/-! ### Transfers (R380, R383) -/

/-- The namespace that a transfer uses (R385). -/
def useSpace (s : State) (use : TransferUse) : Nat :=
  match use with
  | .image => numAt s.eth.entry 56 4
  | .restoreImage => numAt s.eth.entry 56 4
  | .unit _ => numAt s.eth.entry 80 4
  | .page _ => numAt s.eth.entry 108 4
  | .store _ => numAt s.eth.entry 108 4
  | _ => 0

/-- The bytes that a transfer asks for: the whole directory, an image of IMGLEN bytes, a lease slot, an unsigned word of 8 bytes for
a swap, STATE, a unit, a slot page, a step record. -/
def useBytes (s : State) (use : TransferUse) : Nat :=
  match use with
  | .directory => 64 + 256 * 4096
  | .image => numAt s.eth.entry 68 8
  | .restoreImage => numAt s.eth.entry 68 8
  | .leaseSlot => 64
  | .claimSwap => 8
  | .renewal => 8
  | .release => 8
  | .entryState => 1
  | .unit _ => 4096 * numAt s.eth.entry 100 4
  | .page _ => 2097152
  | .stepRecord => 64
  | .scanRecord _ => 64
  | _ => 0

/-- Change the transfers of a number. -/
def setTransfer (s : State) (id : Nat) (f : Pending → Pending) : State :=
  { s with eth := { s.eth with transfers := s.eth.transfers.map fun t => if t.id = id then f t else t } }

/-- REACH of a target. -/
def setReach (s : State) (target : Nat) (up : Bool) : State :=
  if target < 8 then { s with eth := { s.eth with reach := putFlag s.eth.reach target up } } else s

/-- The target of a transfer is unreachable (R383): it is reported, and the transfer waits until the target is tried again. -/
def park (s : State) (t : Pending) : State :=
  setTransfer (report (setReach s t.target false) 0x20 t.target) t.id fun q => { q with parked := true, issued := s.time.epoch }

/-- A transfer goes out while the port has its link; a storage target that the record does not list is unreachable (R382). -/
def issueTransfer (s : State) (t : Pending) : State :=
  if !s.eth.up then s
  else if t.target < 8 ∧ !targetListed s t.target then park s t
  else
    let s1 := connectTo s t.target t.ns
    send s1 [.transfer (roceMark s1 (some (peerOf t.target)) t.bytes.length) t]

/-- A step record that waits until its target is tried again: the later ones wait behind it, so that they are written in increasing
number (R390). -/
def waitsFor (s : State) (target : Nat) : Option Pending :=
  s.eth.transfers.find? fun t => t.target == target && t.use == .record && t.parked

/-- Start a transfer on the Ethernet port (R380, R383): the directory server is target 8. Without a link it waits for its time to
run out, or for the link. -/
def startTransfer (s : State) (target : Nat) (use : TransferUse) (addr : Nat) (bytes : List Byte) : State :=
  let ahead := if use = .record then waitsFor s target else none
  let t : Pending :=
    { id := s.eth.nextId, target := target, use := use, ns := useSpace s use, addr := addr, count := useBytes s use, bytes := bytes
      retried := false, parked := ahead.isSome, issued := (ahead.map (·.issued)).getD s.time.epoch }
  let s1 := { s with eth := { s.eth with transfers := s.eth.transfers ++ [t], nextId := s.eth.nextId + 1 } }
  if ahead.isSome then s1 else issueTransfer s1 t

end Sys2Proof.Machine
end

