-- ==== Sys2Proof/Machine/Abandon.lean ====
section
/-! DEFINITION. Abandonment of the current step (R280, R353), the fence of a core position (R133), the release of the
lease (R389). -/

namespace Sys2Proof.Machine

/-! ### Eyebright records (R461 to R463) -/

/-- A sample record of 32 bytes (R461). -/
def sampleBytes (x : Sample) (seq done lat holds flags : Nat) : List Byte :=
  leBytes 4 x.bundle ++ [x.who] ++ leBytes 1 x.cls ++ leBytes 1 x.opcode ++ leBytes 1 flags ++ leBytes 8 x.issue ++
    leBytes 8 done ++ leBytes 4 (min lat 0xFFFFFFFF) ++ leBytes 2 (min holds 65535) ++ leBytes 2 seq

/-- Write a sample's record at HEAD (R463); with WRAP clear sampling stops after record 32,767. -/
def writeSample (s : State) (x : Sample) (done lat holds flags : Nat) : State :=
  let m := s.mon
  let monitoring := sectionEntry s 7 144 0
  let wrap := (numAt monitoring 131 1).testBit 1
  if m.full then s
  else
    let last := m.eyeHead = 32767
    { s with mon := { m with
        eye := m.eye.setList (32 * m.eyeHead.toNat) (sampleBytes x m.eyeSeq done lat holds flags)
        eyeSeq := m.eyeSeq + 1
        eyeHead := m.eyeHead + 1
        wrapped := m.wrapped || last
        full := decide last && !wrap } }

/-- A sampled operation completes at a schedule clk (R462), `early` arithmetic clks before the hold beats counted so far end. -/
def finishSample (s : State) (x : Sample) (done early : Nat) : State :=
  let held := s.mon.heldBeats - x.holds
  let s1 := writeSample s x done (done - x.issue + 8 * held - early) held
    ((if 0 < held then 1 else 0) + (if x.elastic then 8 else 0))
  { s1 with mon := { s1.mon with samples := s1.mon.samples.erase x } }

/-- Samples of elastic operations are recorded as cancelled (R462). -/
def cancelSamples (s : State) : State :=
  let gone := s.mon.samples.filter (·.elastic)
  let s1 := gone.foldl (fun s x => writeSample s x 0 0 0 (4 + 8)) s
  { s1 with mon := { s1.mon with samples := s1.mon.samples.filter fun x => !x.elastic } }

/-! ### Abandonment -/

/-- The job's start barrier has taken place (R321): LINK_ORIGIN is set. -/
def jobStarted (s : State) : Bool := s.seq.job.isSome && s.time.origin != 0

/-- A step of the job is open: no recovery has begun, or the replay of one runs (R371). -/
def stepOpen (s : State) : Bool := jobStarted s && (s.rsl.phase == .idle || s.rsl.phase == .verify)

/-- The elastic requesters whose operations a stop cancels (R169). -/
def cancelled : Requester → Bool
  | .stream .. => true
  | .vetch => true
  | .meadowsweet => true
  | .link => true
  | .fetch => true
  | .ethernet => false
  | .tansy => false

/-- No elastic operation, collective launch or Meadowsweet launch is left (R169, R355). -/
def dropElastic (s : State) : State :=
  { s with
    cu := { s.cu with captured := [] }
    stash := { s.stash with ops := [] }
    coll := { s.coll with launches := [], drained := [], told := false, credit := [], waits := []
                          reduction := TreeJoin.empty }
    mem := { s.mem with launches := [], optBusy := 0, optPass := []
                        tags := s.mem.tags.filter (fun t => !cancelled t.who || t.late)
                        held := s.mem.held.filter fun m => !cancelled m.who }
    commit := { s.commit with phase := .idle } }

/-- Elastic operations, pending collective launches and Meadowsweet launches are cancelled (R169, R355). -/
def cancelElastic (s : State) : State := dropElastic (cancelSamples s)

/-- What an elastic operation does at issue: in a chip that has stopped it is cancelled at once, an operation of the faulting
bundle (R169). -/
def elasticIssue (s t : State) : State := if s.seq.stopped then dropElastic t else t

/-- The notice of an abandonment: the job tag and no link (R353). -/
def abandonNotice (s : State) : Notice := { origin := myCoord s, link := none, up := false, tags := [jobTag s] }

/-- The step's work is dropped: issue stops, elastic work is cancelled, the recovery waits for its decide barrier
(R280, R367). -/
def dropStep (s : State) : State :=
  let s1 := cancelElastic (endHold s)
  { s1 with
    seq := { s1.seq with running := false }
    commit := { s1.commit with last := 3 }
    rsl := { s1.rsl with phase := .decide, mismatch := false, replay := [] } }

/-- Abandon the current step with a cause of RSL_RECOV (R280, R353): the cause is recorded and reported, the other
devices are told unless they told us, a waiting topology update is applied (R312). -/
def abandonStep (s : State) (cause : Nat) : State :=
  if stepOpen s then
    let s1 := dropStep s
    let s2 := { s1 with rsl := { s1.rsl with
      cause := BitVec.ofNat 8 cause, need := s1.rsl.need || cause == 4 || cause == 5 } }
    let s3 := report s2 0x1C cause
    let s4 := if cause = 7 ∨ cause = 8 ∨ cause = 13 then s3 else floodNotice s3 (abandonNotice s3)
    applyWaiting s4
  else s

/-- Abandon the step with no cause of its own, at a stop or the end of a lease (R388, R389, R417): the notice of R353 is
sent. -/
def abandonForRelease (s : State) : State :=
  if stepOpen s then floodNotice (dropStep s) (abandonNotice s) else s

/-- A port goes DOWN (R307, R308): where data of this device's job is lost with it, the step is abandoned. -/
def portLost (s : State) (p cause : Nat) : State :=
  let s1 := portDown s p cause
  if jobTag s ≠ 0 ∧ (lostTags s p).contains (jobTag s) then abandonStep s1 7 else s1

/-! ### Core positions -/

/-- The position that bears a logical core (R132). -/
def positionOf (s : State) (core : Nat) : Option Nat :=
  s.pwr.positions.findIdx? fun p => p.state == 1 && p.logical.toNat == core

/-- Change one position. -/
def setPosition (s : State) (p : Nat) (f : Position → Position) : State :=
  { s with pwr := { s.pwr with positions := modifyAt s.pwr.positions p f } }

/-- A position. -/
def positionAt (s : State) (p : Nat) : Position := s.pwr.positions.getD p Position.reset

/-- Zero in the core's stores, banks, registers and statistics file, every region free (R134, R355). -/
def zeroCore (s : State) (core : Nat) : State :=
  let clr := fun {w : Nat} (m : Sparse w) (n : Nat) => m.clear (core * n) (core * n + n)
  { s with cu := { s.cu with
      vreg := clr s.cu.vreg 16384, sreg := clr s.cu.sreg 32, tile := clr s.cu.tile 33554432,
      acc := clr s.cu.acc 1048576, bank := clr s.cu.bank 65536, bstat := clr s.cu.bstat 16,
      dport := clr s.cu.dport 256, stat := clr s.cu.stat 256, region := clr s.cu.region 256,
      schedEnds := s.cu.schedEnds.filter fun x => x.key / 256 != core, readyV := clr s.cu.readyV 64,
      readyS := clr s.cu.readyS 32, readyD := clr s.cu.readyD 4,
      inflight := s.cu.inflight.filter fun x => x.core != core, inits := s.cu.inits.filter fun x => x.core != core,
      sweeps := s.cu.sweeps.filter fun x => x.core != core, drains := s.cu.drains.filter fun x => x.core != core,
      rowFree := s.cu.rowFree.set core 0, drawClk := s.cu.drawClk.set core 0,
      nets := s.cu.nets.filter fun x => x.src != core && x.dst != core, ports := s.cu.ports.filter fun x => x.core != core,
      lost := s.cu.lost.filter fun x => x.1 != core, tileLog := [], accLog := [], regionLog := [] } }

/-- A stream engine of the core. -/
def streamOf (core : Nat) (r : Requester) : Bool := match r with
  | .stream c _ => c.val == core
  | _ => false

/-- The outstanding reads of a core's stream engines: their responses will come too late (R133). -/
def lateTags (s : State) (core : Nat) : State :=
  let mark := fun (t : Tag) => if streamOf core t.who ∧ t.kind = .read then { t with late := true, waits := none } else t
  { s with mem := { s.mem with tags := s.mem.tags.map mark } }

/-- Stream engines of a core empty, its captured operations and memory requests gone (R133). -/
def dropStreams (s : State) (core : Nat) : State :=
  { s with
    cu := { s.cu with stream := s.cu.stream.clear (core * 16) (core * 16 + 16)
                      cursor := s.cu.cursor.clear (core * 16) (core * 16 + 16)
                      captured := s.cu.captured.filter fun c => c.core != core }
    mem := { s.mem with tags := s.mem.tags.filter (fun t => !streamOf core t.who || t.late)
                        held := s.mem.held.filter fun m => !streamOf core m.who } }

/-- The chip stops without a fault record (R133, R169). -/
def stopChip (s : State) : State :=
  if s.seq.job.isSome then
    let s1 := endHold s
    { s1 with seq := { s1.seq with running := false, stopped := true } }
  else s

/-- Fence an Active position (R133): the chip stops, the step is abandoned, the core's state and memory requests are
discarded, its domain goes off. A Spare or untested position becomes Fenced and nothing more (R136). -/
def fencePosition (s : State) (p cause : Nat) : State :=
  let pos := positionAt s p
  let mark := fun (s : State) =>
    let s1 := setPosition s p fun q => { q with state := 3, logical := 0, cause := BitVec.ofNat 4 cause }
    report { s1 with pwr := { s1.pwr with domains := putFlag s1.pwr.domains p false } } 0x1D p
  if pos.state = 1 then
    let s1 := abandonStep (stopChip (lateTags s pos.logical.toNat)) 2
    mark (dropStreams (zeroCore s1 pos.logical.toNat) pos.logical.toNat)
  else if pos.state = 3 ∨ pos.state = 4 then s
  else mark s

/-- What the ECC of a tile-store or buffer read shows (R115): a corrected error is counted; an uncorrectable error abandons the
step as one in scratch does and counts in the position's UNCOR; the third fences the position (R133). -/
def sramError (s : State) (core : Nat) (ecc : Ecc) : State :=
  if ecc = .corrected then
    match positionOf s core with
    | none => s
    | some p => setPosition s p fun q => { q with corrected := q.corrected + 1 }
  else if ecc = .uncorrectable then
    match positionOf s core with
    | none => abandonStep s 3
    | some p =>
      let n := satAdd 8 (positionAt s p).uncor.toNat 1
      let s1 := abandonStep (if n = 3 then lateTags s core else s) 3
      let s2 := setPosition s1 p fun q => { q with uncor := BitVec.ofNat 8 n }
      if n = 3 then fencePosition s2 p 3 else s2
  else s

/-! ### The release of the lease -/

/-- Domains of core positions. -/
def coreDomains : BitVec 40 := 0xFFFFF

/-- Set the domains that are on. -/
def setDomains (s : State) (d : BitVec 40) : State := { s with pwr := { s.pwr with domains := d } }

/-- The job's state is discarded: image, classes, ranges, stash, collectives, streams, counter selections (R389). -/
def discardJob (s : State) : State :=
  let s0 := cancelElastic s
  { s0 with
    seq := { Seq.reset with fault := s0.seq.fault, step := s0.seq.step }
    cu := { s0.cu with captured := [], inflight := [], inits := [], sweeps := [], drains := [], nets := [], ports := [],
                       lost := [], region := [], schedEnds := [], stream := [], cursor := [] }
    mem := { s0.mem with classes := s0.mem.classes.filter fun c => c.cls == 3, ranges := [], cur := [], staged := []
                         snapCur := [], launched := [], ueReport := false }
    stash := { s0.stash with entries := [], plan := [], ops := [], area := none }
    coll := { Coll.reset with miss := s0.coll.miss, lastDesc := s0.coll.lastDesc, lastSlots := s0.coll.lastSlots
                              stale := s0.coll.stale, fenced := s0.coll.fenced, mcast := s0.coll.mcast }
    time := { s0.time with origin := 0 }
    rsl := { s0.rsl with phase := .idle, filling := none, left := [], rewind := none, need := false, start := none
                         reading := [], record := none, replay := [], limit := none }
    mon := { s0.mon with sel := [], val := [], samples := [] } }

/-- The core positions go off; a wake of them for the lease ends (R389, R436). -/
def coresOff (s : State) : State :=
  let s1 := setDomains s (s.pwr.domains &&& ~~~coreDomains)
  if s.pwr.goal = 0 ∧ s.pwr.waking ≠ [] then
    refreshRails { s1 with pwr := { s1.pwr with waking := [], busy := false, goal := 2 } }
  else refreshRails s1

/-- Release the lease (R389): OWNER is swapped to zero address bits with the generation unchanged, the release is
reported, new identity blocks go out, the job's state is discarded, the device returns to Idle. -/
def releaseLease (s : State) (lost : Bool) : State :=
  if leased s then
    let addr := numAt s.eth.entry 32 8 + 64 * s.eth.rank
    let own := s.eth.owner.toNat
    let s1 := if s.eth.up then startTransfer s 8 .release addr (leBytes 8 own ++ leBytes 8 (own / 2 ^ 48 * 2 ^ 48)) else s
    let s2 := report s1 (if lost then 0x1E else 0x1F) s.eth.rank
    let s3 := { discardJob s2 with
      eth := { s2.eth with phase := if s2.eth.up then .releasing else .none, entry := [], rank := 0, owner := 0
                           stopping := false, expiry := 0, spare := false, resident := [], arrived := []
                           transfers := s2.eth.transfers.filter fun t => t.use == .release || t.use == .write || t.use == .record }
      pwr := { s2.pwr with state := if s2.pwr.state.toNat ≤ 1 then 2 else s2.pwr.state } }
    applyWaiting (leaseIdentity (coresOff s3))
  else s

end Sys2Proof.Machine
end

