-- ==== Sys2Proof/Machine/Faults.lean ====
section
/-! DEFINITION. Chip faults: the fault record and the stop (R15, R169, R170), and the frame of every core and chip
operation: checks in the order of R177, then the effect. -/

namespace Sys2Proof.Machine

/-- The answer of a command. -/
abbrev Out := Host.Outcome State Fault Refusal

/-- Where a fault arose. -/
structure Origin where
  clk    : Nat
  chip   : Bool
  core   : Nat
  slot   : Nat
  offset : Nat
  bundle : Nat
  deriving DecidableEq, Repr

/-- The record of a fault. -/
def faultRec (o : Origin) (f : Flt) (more : Nat) : FaultRec :=
  { code := f.code, core := o.core, chip := o.chip, slot := o.slot, offset := o.offset, more := more,
    bundle := o.bundle, info := f.info, aux := f.aux, other := f.other, clk := o.clk }

/-- The order of R170: schedule clk, then chip lane before core lanes, then logical core, then slot. -/
def faultBefore (a b : FaultRec) : Bool :=
  decide (a.clk < b.clk) || (a.clk == b.clk &&
    ((a.chip && !b.chip) || (a.chip == b.chip &&
      (decide (a.core < b.core) || (a.core == b.core && decide (a.slot < b.slot))))))

/-- A load in flight without the lanes of the bank accesses that a PORT fault takes: 16 lanes a word of the tile store, 64
a row of the accumulator buffer (R114, R121). -/
def loseLoads (s : State) (lost : List (Nat × Nat)) (x : Result) : List Result :=
  match s.cu.ports.find? (fun u => u.core == x.core && u.slot == x.slot && u.issue == x.issue &&
      u.claims.any fun c => claimClk c == x.issue && lost.contains c), x.dest with
  | some u, .vector r _ vals =>
    let n := 256 / u.claims.length
    (u.claims.zipIdx.filter fun c => !lost.contains c.1).map fun c =>
      { x with dest := .vector r (n * c.2) ((vals.drop (n * c.2)).take n) }
  | _, _ => [x]

/-- A fault: the first of the stopping beat is recorded and the others of that beat counted (R170), the chip stops and the stop
is reported (R169, R396), the step is abandoned with cause 0x01 (R280). The accesses of a PORT fault are lost (R114). -/
def raiseFault (s : State) (o : Origin) (f : Flt) : State :=
  let s0 := { s with cu := { s.cu with
    lost := s.cu.lost ++ f.lost, inflight := s.cu.inflight.flatMap (loseLoads s f.lost) } }
  if s.seq.fault.code = 0 ∨ !s.seq.stopped then
    abandonStep (report { s0 with seq := { s0.seq with fault := faultRec o f 0, running := false, stopped := true } }
      0x1B f.code) 1
  else if o.clk / 8 ≠ s.seq.fault.clk / 8 then s0
  else
    let more := satAdd 8 s.seq.fault.more 1
    let r := faultRec o f more
    { s0 with seq := { s0.seq with
        fault := if faultBefore r s.seq.fault then r else { s.seq.fault with more := more } } }

/-- The origin of a core operation's fault. -/
def coreOrigin (s : State) (op : CoreOp) : Origin :=
  { clk := opClk s op, chip := false, core := op.core, slot := op.slot, offset := fld op.word 2 0,
    bundle := bundleNow s }

/-- The origin of a chip operation's fault: the first clk of its beat (R140). -/
def chipOrigin (s : State) (op : ChipOp) : Origin :=
  { clk := 8 * (s.seq.issued - 1), chip := true, core := 0, slot := op.slot, offset := 0, bundle := bundleNow s }

/-! ### Eyebright (R460) -/

/-- How the record of a sampled operation ends (R462): with a fault at its issue, at its issue, cancelled there, or later. -/
inductive SampleEnd where
  | faulted | atIssue | cancelled | later
  deriving DecidableEq, Repr

/-- The operation ends at its issue: it has neither a result nor a completion point, or reads its region in that clk. -/
def endsAtIssue (w : DWord) : Bool :=
  let cls := fld w 4 3
  let opcode := fld w 11 5
  (cls == 1 && opcode == 2) || (cls == 2 && opcode == 0x18 && flag w 39) ||
    (cls == 3 && (opcode == 1 || opcode == 2 || opcode == 0xA || opcode == 0xB))

/-- The region whose completion ends a sampled core operation. -/
def sampleRegion (w : DWord) : Option Nat :=
  match fld w 4 3, fld w 11 5 with
  | 1, 1 => some (fld w 33 26)
  | 1, 3 => some (fld w 28 21)
  | 3, 8 => some (fld w 23 16)
  | 3, 9 => some (fld w 23 16)
  | 3, 0x20 => some (fld w 23 16)
  | 3, 0x10 => some (fld w 25 18)
  | 3, 0x11 => some (fld w 25 18)
  | 3, 0x18 => some (fld w 25 18)
  | 3, 0x19 => some (fld w 25 18)
  | _, _ => none

/-- Count an operation for Eyebright; when it is the INTERVAL-th, sample it, or count it lost while 64 are in flight
(R460, R463). -/
def sampleOp (s : State) (x : Sample) (bit : Nat) (ends : SampleEnd) : State :=
  let m := sectionEntry s 7 144 0
  let on := s.seq.job.isSome && (numAt m 131 1).testBit 0 && (numAt m 130 1).testBit bit &&
    (bit == 4 || (numAt m 128 2).testBit x.core)
  if !on then s
  else
    let n := s.mon.eyeCount + 1
    let s1 := { s with mon := { s.mon with eyeCount := n } }
    if numAt m 132 4 = 0 ∨ n % numAt m 132 4 ≠ 0 ∨ s.mon.full then s1
    else if 64 ≤ s.mon.samples.length then
      { s1 with mon := { s1.mon with lost := BitVec.ofNat 32 (satAdd 32 s1.mon.lost.toNat 1) } }
    else
      let kind := if x.elastic then 8 else 0
      match ends with
      | .faulted => writeSample s1 x x.issue 0 0 (2 + kind)
      | .atIssue => writeSample s1 x x.issue 0 0 kind
      | .cancelled => writeSample s1 x 0 0 0 (4 + kind)
      | .later => { s1 with mon := { s1.mon with samples := s1.mon.samples ++ [x] } }

/-- The elastic operations of the cores: FILL, SPILL, the stash and the link operations. -/
def elasticOp (w : DWord) : Bool :=
  fld w 4 3 == 3 && (fld w 11 5 == 8 || fld w 11 5 == 9 || fld w 11 5 == 0x10 || fld w 11 5 == 0x11 ||
    fld w 11 5 == 0x18 || fld w 11 5 == 0x19)

/-- The sample of a core operation. -/
def coreSample (s : State) (op : CoreOp) : Sample :=
  let w := op.word
  { bundle := bundleNow s, who := BitVec.ofNat 8 (op.core.val + 16 * op.slot.val), cls := fld w 4 3,
    opcode := fld w 11 5, elastic := elasticOp w
    issue := opClk s op, core := op.core, slot := op.slot, region := sampleRegion w, desc := none,
    clks := s.mon.clks, holds := s.mon.heldBeats }

/-- How an operation that issued without a fault ends, from the states before and after its effect: an elastic one whose region
counts it as complete already, as one of no element or of an absent entry, ends at issue, and one that the stop of its beat, or
the abandonment it caused, dropped is cancelled (R169, R462). -/
def coreSampleEnd (s0 s : State) (op : CoreOp) : SampleEnd :=
  let w := op.word
  if elasticOp w then
    let n := (sampleRegion w).getD 0
    let a := regionOf s0 op.core n
    let b := regionOf s op.core n
    if rPcount b < rPcount a ∨ rCcount b < rCcount a then .atIssue
    else if s0.seq.stopped ∨ s.rsl.phase ≠ s0.rsl.phase then .cancelled
    else .later
  else if endsAtIssue w then .atIssue
  else .later

/-- What counts a core operation at issue: Eyebright, and the counters of V-class operations and row-unit quarters
(R455, R460). A NOP is not sampled. -/
def noteCoreOp (s0 s : State) (op : CoreOp) (faulted : Bool) : State :=
  let w := op.word
  let cls := fld w 4 3
  let opc := fld w 11 5
  let s1 := if cls = 0 ∧ opc = 0 then s
    else sampleOp s (coreSample s0 op) cls (if faulted then .faulted else coreSampleEnd s0 s op)
  if cls = 2 ∧ !faulted then
    let s2 := countEv s1 { code := 0x14, core := some op.core.val }
    if (0x20 ≤ opc ∧ opc ≤ 0x23) ∨ opc = 0x29 ∨ opc = 0x2A then countEv s2 { code := 0x15, core := some op.core.val, amount := 4 } else s2
  else s1

/-- A core operation: nothing without an issuing bundle or on an idle core (R142); else its checks in the order of
R177, of which the first failing one is raised and leaves it without effect, or its effect. -/
@[inline] def coreOp (s : State) (op : CoreOp) (checks : List (Option Flt)) (effect : State) : Out :=
  if coreActive s op.core then
    match firstFault checks with
    | some f => .next (noteCoreOp s (raiseFault s (coreOrigin s op) f) op true)
    | none => .next (noteCoreOp s effect op false)
  else .next s

/-- The sample of a chip operation; COLL.LAUNCH and OPT.LAUNCH complete with their launch (R462). -/
def chipSample (s : State) (op : ChipOp) : Sample :=
  let w := op.word
  let opc := fld w 7 0
  { bundle := bundleNow s, who := BitVec.ofNat 8 (128 + 16 * op.slot.val), cls := 0, opcode := opc,
    elastic := opc == 0x10 || opc == 0x13, issue := 8 * (s.seq.issued - 1), core := 0, slot := op.slot, region := none,
    desc := if opc = 0x10 ∨ opc = 0x13 then some (fld w 19 8) else none, clks := s.mon.clks, holds := s.mon.heldBeats }

/-- A chip operation of the issuing bundle. -/
@[inline] def chipOp (s : State) (op : ChipOp) (checks : List (Option Flt)) (effect : State) : Out :=
  if s.seq.current.isSome then
    match firstFault checks with
    | some f => .next (sampleOp (raiseFault s (chipOrigin s op) f) (chipSample s op) 4 .faulted)
    | none =>
      .next (if fld op.word 7 0 = 0 then effect
        else sampleOp effect (chipSample s op) 4
          (if (chipSample s op).desc.isNone then .atIssue else if s.seq.stopped then .cancelled else .later))
  else .next s

/-- The sampled operation issued by a core and slot in a clk completes at clk `done`. -/
def finishOp (s : State) (core slot issue done : Nat) : State :=
  match s.mon.samples.find? (fun x => !flag x.who 7 && x.core == core && x.slot == slot && x.issue == issue) with
  | some x => finishSample s x done 0
  | none => s

/-- The oldest sampled operation of a core that waits for a region completes at clk `done`. -/
def finishRegion (s : State) (core region : Nat) (elastic : Bool) (done early : Nat) : State :=
  match s.mon.samples.find? (fun x => !flag x.who 7 && x.core == core && x.region == some region &&
      x.elastic == elastic) with
  | some x => finishSample s x done early
  | none => s

/-- The oldest sampled launch of a descriptor completes: opcode 0x10 or 0x13. -/
def finishLaunch (s : State) (opcode desc : Nat) : State :=
  match s.mon.samples.find? (fun x => flag x.who 7 && x.opcode == opcode && x.desc == some desc) with
  | some x => finishSample s x (8 * s.seq.issued) 0
  | none => s

end Sys2Proof.Machine
end

