-- ==== Sys2Proof/Machine/Flags.lean ====
section
/-! DEFINITION. The flag computations: non-finite and saturation of lanes (R58), the bank status word (R84). -/

namespace Sys2Proof.Machine

/-- A BF16 encoding that is infinite or NaN. -/
def nonfiniteBf (b : BitVec 16) : Bool := decide (fld b 14 7 = 255)

/-- A lane of two BF16 elements holds an infinity or a NaN. -/
def nonfinitePair (w : Word) : Bool := nonfiniteBf (BitVec.ofNat 16 w.toNat) || nonfiniteBf (BitVec.ofNat 16 (fld w 31 16))

/-- A lane holds a non-finite element, packed or not (R58). -/
def nonfiniteLane (packed : Bool) (w : Word) : Bool := if packed then nonfinitePair w else nonfinite32 w

/-- The sticky flags of a core as FLAGS reads them in clk t: flags set in an earlier clk (R58, R197). -/
def flagsAt (s : State) (core t : Nat) : Word :=
  let late := s.cu.inflight.filter fun x => x.core == core && decide (x.due < t)
  let n := s.cu.nonfin.getLsbD core || late.any (·.nonfin)
  let a := s.cu.satf.getLsbD core || late.any (·.satf)
  BitVec.ofNat 32 (n.toNat + 2 * a.toNat)

/-- A sweep has a slice to the bank of an array between F1 and A2 at the end of clk t (R84). -/
def sweepInflight (w : Sweep) (core array bank t : Nat) : Bool :=
  w.core == core && w.mask.testBit array && w.bank == bank && decide (0 < w.slices) &&
    decide (w.first + 1 ≤ t) && decide (t ≤ w.first + w.slices - 1 + 8)

/-- A drain of the bank has a read window that includes clk t (R84). -/
def drainWindow (d : Drain) (core array bank t : Nat) : Bool :=
  d.core == core && d.mask.testBit array && d.bank == bank && decide (d.first ≤ t) && decide (t ≤ d.first + 63)

/-- The stored fields of a bank status word: GCOUNT, LONGSUM, NONFIN. -/
def bankStatus (s : State) (core array bank : Nat) : Word := s.cu.bstat.get ((core * 4 + array) * 4 + bank)

end Sys2Proof.Machine
end

