-- ==== Sys2Proof/Machine/Arrays.lean ====
section
/-! DEFINITION. The outer-product arrays in time (03): initialisations, operand reads, group sums, drains. -/

namespace Sys2Proof.Machine

/-- Key of bank b of array n of a core in the files of banks. -/
def bankKey (core n b : Nat) : Nat := (core * 4 + n) * 4 + b

/-- Entry (i, j) of a tile bank. -/
def entryOf (s : State) (core n b i j : Nat) : Entry := s.cu.bank.get (bankKey core n b * 4096 + 64 * i + j)

/-- Write row i of a bank, from column 0. -/
def setBankRow (s : State) (core n b i : Nat) (es : List Entry) : State :=
  { s with cu := { s.cu with bank := s.cu.bank.setList (bankKey core n b * 4096 + 64 * i) es } }

/-- Replace the stored status of a bank. -/
def setStatus (s : State) (core n b : Nat) (w : Word) : State :=
  { s with cu := { s.cu with bstat := s.cu.bstat.set (bankKey core n b) w } }

/-- +0 with no residual in rows lo to hi − 1 of a bank. -/
def clearBankRows (s : State) (core n b lo hi : Nat) : State :=
  let k := bankKey core n b * 4096
  { s with cu := { s.cu with bank := s.cu.bank.clear (k + 64 * lo) (k + 64 * hi) } }

/-- The bank reads or holds an infinity or a NaN in this entry. -/
def entryNonfinite (e : Entry) : Bool := nonfinite32 (entryS e)

/-! ### ZERO and PRELOAD in time (R80, R81) -/

/-- The entries row i of array n takes from the accumulator buffer in a preload (R46, R117, R118). -/
def preloadRow (s : State) (b : BankInit) (n i : Nat) : List Entry :=
  let t := b.clk + 8 + i
  let s := withStores (landNets s t) b.core t
  (List.range 64).map fun e =>
    if b.width ≤ e then 0#48
    else if b.acc48 then
      let r := b.base + 2 * (64 * n + i)
      let c := accAt s b.core t (64 * (r + 1) + e / 2)
      preloadEntry (jobProfile s) true (accAt s b.core t (64 * r + e))
        (BitVec.ofNat 16 (if e % 2 = 0 then fld c 15 0 else fld c 31 16))
    else preloadEntry (jobProfile s) false (accAt s b.core t (64 * (b.base + 64 * n + i) + e)) 0

/-- A row of a preload's array lost to a PORT fault is not written (R114). -/
def preloadLost (s : State) (b : BankInit) (n i : Nat) : Bool :=
  let rows := if b.acc48 then [b.base + 2 * (64 * n + i), b.base + 2 * (64 * n + i) + 1] else [b.base + 64 * n + i]
  rows.any fun r => isLost s (claim b.core (b.clk + 8 + i) 1 false (rowBank r))

/-- Row i of a preload lands in one array: the bank's NONFIN and the core's flag follow its values (R58, R81). -/
def landPreloadRow (s : State) (b : BankInit) (i n : Nat) : State :=
  if preloadLost s b n i then s
  else
    let es := preloadRow s b n i
    let s1 := setBankRow s b.core n b.bank i es
    if es.any entryNonfinite then
      setFlags (setStatus s1 b.core n b.bank (putFlag (bankStatus s1 b.core n b.bank) 21 true)) b.core true false
    else s1

/-- The event of an initialisation at the end of clk u in its arrays: a ZERO lands at c + 9; a PRELOAD clears the
status at c + 9 and writes row i at c + 9 + i, unless that row landed already. -/
def initEvent (u : Nat) (s : State) (b : BankInit) : State :=
  let arrays := bitsOf b.mask 4
  if u = b.clk + 9 + b.done ∧ b.done < 64 then
    let s1 := if b.done = 0 then arrays.foldl (fun s n => setStatus s b.core n b.bank 0#32) s else s
    if b.preload then arrays.foldl (fun s n => landPreloadRow s b b.done n) s1
    else arrays.foldl (fun s n => clearBankRows s b.core n b.bank 0 64) s1
  else s

/-- The initialisation after its event of clk u. -/
def initStep (u : Nat) (b : BankInit) : BankInit :=
  if u = b.clk + 9 + b.done then { b with done := if b.preload then b.done + 1 else 64 } else b

/-- The events of one core's initialisations at the end of clk u. -/
def landInits (core : Nat) (s : State) (u : Nat) : State :=
  let mine := s.cu.inits.filter fun b => b.core == core
  let s1 := mine.foldl (initEvent u) s
  let left := (s1.cu.inits.map fun b => if b.core = core then initStep u b else b).filter fun b => decide (b.done < 64)
  { s1 with cu := { s1.cu with inits := left } }

/-- Rows of preloads of a bank that land at the end of clk w before a group written in the same clk: row i ≥ 1 of a
preload issued before the group's last slice (R81). -/
def settleRows (s : State) (core w : Nat) : State :=
  let mine := s.cu.inits.filter fun b => b.core == core && b.preload && decide (0 < b.done)
  let s1 := mine.foldl (initEvent w) s
  let left := (s1.cu.inits.map fun b => if b.core = core ∧ b.preload ∧ 0 < b.done then initStep w b else b).filter
    fun b => decide (b.done < 64)
  { s1 with cu := { s1.cu with inits := left } }

/-! ### Operand reads of a sweep (R108 to R112, R487) -/

/-- Element (row, col) of block t of a tile-block region as read in clk `clk`, its MX scale byte as read in clk `sclk`, that
of the first read of the block (R108, R109, R112). -/
def blockElem (s : State) (core clk sclk : Nat) (d : BitVec 128) (t row col : Nat) : Num :=
  let fmt := rFmt d
  let w := fmtBits fmt
  let e := wordElems fmt
  let o := w * (col % e)
  let a := blockWord d t row (col / e) + o / 8
  let n := (w + o % 8 + 7) / 8
  let raw := leNat ((List.range n).map fun i => tileAt s core clk (a + i)) >>> (o % 8) % 2 ^ w
  let line := if rAxis d = 0 then row else col
  let along := if rAxis d = 0 then col else row
  let scale := if isMX fmt then (tileAt s core sclk (scaleWord d t (along / 32) + line)).toNat else 0
  elementNum fmt raw scale

/-- The read of (row, col) of a region's block was lost to a PORT fault (R114). -/
def blockLost (s : State) (core clk : Nat) (d : BitVec 128) (row col : Nat) : Bool :=
  isLost s (claim core clk 0 false (blockBank (rBank d) row (col / wordElems (rFmt d))))

/-- The same element, none where its read was lost: the products it would feed are left out (DEDUCED 21). -/
def blockRead (s : State) (core clk sclk : Nat) (d : BitVec 128) (t row col : Nat) : Option Num :=
  if blockLost s core clk d row col then none else some (blockElem s core clk sclk d t row col)

/-- Slices one word column serves, N (R111). -/
def sliceRun (fmt q : Nat) : Nat := wordElems fmt / q

/-- The clk in which row i of the strip latch's word column wc is read, runs of m slices each (R111, R487). -/
def latchClk (first m wc i : Nat) : Nat :=
  if wc = 0 then first + i / 8 - 8 else first + (wc - 1) * m + ceilDiv ((i + 1) * m) 64

/-- The element of an operand for reduction index κ and array row or column i (R110). The first read of block t is that of
the first row of its first word column, or of its first slice (R112). -/
def operandElem (s : State) (w : Sweep) (d : BitVec 128) (col : Bool) (k i : Nat) : Option Num :=
  let n := sliceRun (rFmt d) w.q
  let t := k / 64
  if col then
    blockRead s w.core (latchClk w.first n (k / wordElems (rFmt d)) i) (latchClk w.first n (t * rowWords (rFmt d)) 0)
      d t i (k % 64)
  else blockRead s w.core (w.first + k / w.q + 1) (w.first + 64 * t / w.q + 1) d t (k % 64) i

/-- The element of a row-shift a operand (R98, R487), none where the row is masked (R99). `rows` is the count of valid
rows of the array. The last block is first read when the latch is primed, the block before it by slice 1. -/
def shiftElem (s : State) (w : Sweep) (d : BitVec 128) (rows k i : Nat) : Option Num :=
  let sl := k / w.q
  let chain := sl / w.chain
  let l := sl % w.chain
  let col := w.q * chain + k % w.q
  let last := rBlocks d - 1
  let n := sliceRun (rFmt d) w.q
  if l ≤ i then
    if i - l < rows then
      blockRead s w.core (latchClk w.first (n * w.chain) (col / wordElems (rFmt d)) (i - l)) (w.first - 8) d last
        (i - l) col
    else none
  else
    let above := l - i
    if above ≤ 64 * last then
      let g := 64 * last - above
      blockRead s w.core (w.first + chain * w.chain + above + 1) (w.first + 2) d (g / 64) (g % 64) col
    else none

/-- Valid a rows of array n (R183). -/
def sweepRows (w : Sweep) (n : Nat) : Nat := if w.mask < 2 ^ (n + 1) then w.rows else 64

/-- The a elements of a group for row i of array n: none where masked (R56, R104). -/
def groupA (s : State) (w : Sweep) (n j i : Nat) : List (Option Num) :=
  let d := w.aRegs.getD n 0
  (List.range w.g).map fun p =>
    let k := w.g * j + p
    if w.k ≤ k then none
    else if w.rshift then shiftElem s w d (sweepRows w n) k i
    else if i < sweepRows w n then operandElem s w d w.aCol k i else none

/-- The b elements of a group for column c. -/
def groupB (s : State) (w : Sweep) (j c : Nat) : List (Option Num) :=
  (List.range w.g).map fun p =>
    let k := w.g * j + p
    if w.k ≤ k then none else operandElem s w w.bReg w.bCol k c

/-- The unmasked products of a group at one entry. -/
def groupProducts (a b : List (Option Num)) : List Num :=
  (a.zip b).filterMap fun
    | (some x, some y) => some (Num.mul x y)
    | _ => none

/-- Logical columns that receive products (R183). -/
def sweepCols (s : State) (w : Sweep) : Nat := min w.cols (jobWidth s)

/-- Clks per group (R59, R78). -/
def groupClks (w : Sweep) : Nat := w.g / w.q

/-- Groups of a sweep. -/
def sweepGroups (w : Sweep) : Nat := w.slices / (groupClks w)

/-- The clk at whose end group j is written: 9 clk after its last slice (R76). -/
def groupClk (w : Sweep) (j : Nat) : Nat := w.first + groupClks w * (j + 1) - 1 + 9

/-- One entry after group j (R56, R61): unchanged where every product is masked. -/
def groupEntry (profile : Nat) (longsum : Bool) (kscale : Int) (a b : List (Option Num)) (e : Entry) : Entry :=
  match groupProducts a b with
  | [] => e
  | ps => accumulate profile longsum e (Num.scale kscale (Num.sum ps))

/-- Row i of array n after group j. -/
def groupRow (s : State) (w : Sweep) (n j i : Nat) (bs : List (List (Option Num))) : List Entry :=
  let a := groupA s w n j i
  let ls := flag (bankStatus s w.core n w.bank) 20
  bs.mapIdx fun c b => groupEntry (jobProfile s) ls w.kscale a b (entryOf s w.core n w.bank i c)

/-- The status word after a group that counts (R85, R86). -/
def countGroup (w : Word) : Word :=
  let g := fld w 19 0
  if g = 0xFFFFF then putFlag w 20 true else putFld w 19 0 (g + 1)

/-- Rows of array n that can receive products of group j. -/
def groupRows (w : Sweep) (n : Nat) : Nat := if w.rshift then 64 else sweepRows w n

/-- Group j is written in array n (R76, R84 to R87). A group all of whose indices are padding adds nothing and does
not count. -/
def writeGroup (s : State) (w : Sweep) (j n : Nat) : State :=
  if w.k ≤ w.g * j then s
  else
    let bs := (List.range (sweepCols s w)).map (groupB s w j)
    let rows := (List.range (groupRows w n)).map fun i => groupRow s w n j i bs
    let s1 := (rows.zipIdx).foldl (fun t r => setBankRow t w.core n w.bank r.2 r.1) s
    let changed := (rows.zipIdx).any fun r => (r.1.zipIdx).any fun e =>
      entryNonfinite e.1 && !(groupProducts (groupA s w n j r.2) (bs.getD e.2 [])).isEmpty
    let st := countGroup (bankStatus s w.core n w.bank)
    setFlags (setStatus s1 w.core n w.bank (if changed then putFlag st 21 true else st)) w.core changed false

/-! ### Drains in time (R88 to R97) -/

/-- The row a drain reads next and the clk of that read. -/
def drainReadClk (d : Drain) : Nat := d.first + 64 - d.unread

/-- Clks from a row's read to its arrival (R93). -/
def drainLatency (d : Drain) : Nat :=
  if d.dest = 3 then 6 else if d.dest = 0 ∧ rFmt d.regDesc = 10 then 3 else 4

/-- The clk in which a drain's next row arrives. -/
def drainArrivalClk (d : Drain) : Nat := d.first + 64 - d.toCome + drainLatency d

/-- The 64 logical entries of row i of each array of the mask; other arrays' places are +0. -/
def drainRowEntries (s : State) (d : Drain) (i : Nat) : List Entry :=
  (List.range 4).flatMap fun n => (List.range 64).map fun j =>
    if d.mask.testBit n then
      if d.copy then d.shadow.get (n * 4096 + 64 * i + j) else entryOf s d.core n d.bank i j
    else 0#48

/-- Clear row i of the drain's banks as it is read (R90). -/
def drainClear (s : State) (d : Drain) (i : Nat) : State :=
  if d.clear then (bitsOf d.mask 4).foldl (fun t n => clearBankRows t d.core n d.bank i (i + 1)) s else s

/-- Drain k reads its next row (R88). -/
def drainReadRow (s : State) (k : Nat) : State :=
  match s.cu.drains[k]? with
  | none => s
  | some d =>
    if d.unread = 0 then s
    else
      let i := d.unread - 1
      let row := drainRowEntries s d i
      let s1 := drainClear s d i
      { s1 with cu := { s1.cu with drains := modifyAt s1.cu.drains k fun d =>
          { d with unread := i, buffer := d.buffer ++ [row] } } }

/-- The row reads of a core's drains in clk u, of the entries as they stand at the end of the clk before (R88, R89). -/
def drainReads (core u : Nat) (s : State) : State :=
  (List.range s.cu.drains.length).foldl (fun s k =>
    match s.cu.drains[k]? with
    | some d => if d.core = core ∧ 0 < d.unread ∧ drainReadClk d ≤ u then drainReadRow s k else s
    | none => s) s

/-- A clearing drain that has read row 0 by clk u clears the status of its banks at the end of that clk (R90). -/
def statusClear (core u : Nat) (s : State) : State :=
  let past := fun (d : Drain) => d.core == core && d.clear && !d.cleared && d.unread == 0 && decide (d.first + 63 ≤ u)
  let s1 := (s.cu.drains.filter past).foldl (fun s d => (bitsOf d.mask 4).foldl (fun t n =>
    setStatus t d.core n d.bank (putFld (bankStatus t d.core n d.bank) 21 0 0)) s) s
  { s1 with cu := { s1.cu with drains := s1.cu.drains.map fun d => if past d then { d with cleared := true } else d } }

/-- What happens in a core's banks in clk u, group sums apart: rows are read, then initialisations land and the status is
cleared at the end of the clk. -/
def settleClk (core : Nat) (s : State) (u : Nat) : State := statusClear core u (landInits core (drainReads core u s) u)

/-- The first clk in which one of a core's initialisations or drains has something to do. -/
def nextSettle (s : State) (core : Nat) : Option Nat :=
  let inits := (s.cu.inits.filter fun b => b.core == core).map fun b => b.clk + 9 + b.done
  let drains := s.cu.drains.filter fun d => d.core == core && (decide (0 < d.unread) || (d.clear && !d.cleared))
  (inits ++ drains.map fun d => min (drainReadClk d) (d.first + 63)).min?

/-- The last clk in which they do (a preload lasts to c + 72, a drain to d + 63). -/
def lastSettle (s : State) (core : Nat) : Nat :=
  (s.cu.drains.filter fun d => d.core == core).foldl (fun m d => max m (d.first + 63))
    ((s.cu.inits.filter fun b => b.core == core).foldl (fun m b => max m (b.clk + 72)) 0)

/-- Every such event of a core up to the end of clk `upto`. -/
def settle (s : State) (core upto : Nat) : State :=
  match nextSettle s core with
  | none => s
  | some lo =>
    (List.range (min upto (lastSettle s core) + 1 - lo)).foldl (fun s i => settleClk core s (lo + i)) s

/-- The banks of a core as a group written in clk r meets them: everything of the clks before, and the row reads of
clk r (R89). -/
def readTo (s : State) (core r : Nat) : State := drainReads core r (if r = 0 then s else settle s core (r - 1))

/-- The bank status word as a read in clk t returns it (R84). -/
def bankStatusAt (s : State) (core array bank t : Nat) : Word :=
  let s1 := if t = 0 then s else settle s core (t - 1)
  let dr := decide (0 < t) && s.cu.drains.any fun d => drainWindow d core array bank (t - 1)
  let fl := decide (0 < t) && s.cu.sweeps.any fun w => sweepInflight w core array bank (t - 1)
  putFlag (putFlag (bankStatus s1 core array bank) 22 dr) 23 fl

/-- The first clk of a drain of a bank issued at clk c: max(c, u + 10), u the latest slice to the bank issued at or
before c in an array of the mask (R88). -/
def drainFirst (sweeps : List Sweep) (core mask bank c : Nat) : Nat :=
  (sweeps.filter fun w => w.core == core && w.bank == bank && (w.mask &&& mask != 0) &&
      decide (0 < w.slices) && decide (w.first ≤ c)).foldl
    (fun d w => max d (min c (w.first + w.slices - 1) + 10)) c

end Sys2Proof.Machine
end

