-- ==== Sys2Proof/Machine/ArrayOps.lean ====
section
/-! DEFINITION. The A-class operations (R73 to R106, R180 to R188) and the events of the arrays: group sums, first reads
and arrivals of drains. -/

namespace Sys2Proof.Machine

/-! ### SWEEP -/

/-- Group size g (R59) of an operand class in a profile, q products per clk; none where the class is not available
(R60). -/
def groupSize (profile cls q : Nat) : Option Nat :=
  match cls with
  | 0 => some (if profile = 2 then 8 else 4)
  | 1 => some (if profile = 2 then 8 else 4)
  | 2 => if profile = 1 then none else some 8
  | 3 => if profile = 3 then some q else none
  | _ => none

/-- The arrays of a mask field. -/
def maskArrays (mask : Nat) : List Nat := bitsOf mask 4

/-- The regions a SWEEP reads: array n's a region AREG + n, and the b region (R180). -/
def sweepRegions (op : CoreOp) : List Nat :=
  let areg := fld op.word 25 18
  (maskArrays (fld op.word 15 12)).map (areg + ·) ++ [fld op.word 33 26]

/-- The operand descriptors of a SWEEP: a in array order, then b. -/
def sweepDescs (s : State) (op : CoreOp) : List (BitVec 128) :=
  (sweepRegions op).map (regionOf s op.core)

/-- The smallest products-per-clk figure of a sweep's operands (R37). -/
def sweepQ (s : State) (op : CoreOp) : Nat :=
  (sweepDescs s op).foldl (fun q d => min q (fmtProducts (rFmt d))) 16

/-- A sweep's reduction length K, register s_k at issue (R181). -/
def sweepK (s : State) (op : CoreOp) : Nat := (sregAt s op.core (fld op.word 61 57) (opClk s op)).toNat

/-- A sweep's scale-slot register s_k+1. -/
def sweepScales (s : State) (op : CoreOp) : Word := sregAt s op.core (fld op.word 61 57 + 1) (opClk s op)

/-- The padded reduction length K′ (R104). -/
def sweepPadded (s : State) (op : CoreOp) (g : Nat) : Nat :=
  let r := if (sweepDescs s op).any (fun d => isMX (rFmt d)) then 32 else g
  r * ceilDiv (sweepK s op) r

/-- One operand of a sweep has a legal region: tile blocks of an operand format with the axis its direction needs
(R43, R182). -/
def operandOk (d : BitVec 128) (col : Bool) : Bool :=
  rSpace d == 0 && rLayout d == 1 && decide (rFmt d ≤ 9) &&
    (!isMX (rFmt d) || rAxis d == (if col then 0 else 1))

/-- The group size of a SWEEP; none where the operands mix classes (R36) or the class is not available (R60). -/
def sweepGroup (s : State) (op : CoreOp) : Option Nat :=
  let ds := sweepDescs s op
  let cls := fmtClass (rFmt (ds.getLastD 0))
  if ds.all (fun d => fmtClass (rFmt d) == cls) then groupSize (jobProfile s) cls (sweepQ s op) else none

/-- The field and operand rules of SWEEP (R36, R43, R60, R180 to R182, R190). -/
def sweepEncoding (s : State) (op : CoreOp) : Bool :=
  let w := op.word
  let mask := fld w 15 12
  let ds := sweepDescs s op
  let sc := sweepScales s op
  decide (mask ≠ 0) && (maskArrays mask).all (fun n => decide (fld w 25 18 + n ≤ 255)) &&
    decide (fld w 49 43 ≤ 64) && decide (fld w 56 50 ≤ 64) && zeros w 63 62 && decide (fld w 61 57 % 2 = 0) &&
    (flag w 36 || zeros w 42 37) && (!flag w 36 || flag w 34) && zeros sc 31 8 &&
    ds.dropLast.all (fun d => operandOk d (flag w 34) && slotOk s op.core (fld sc 3 0) (rFmt d)) &&
    operandOk (ds.getLastD 0) (flag w 35) && slotOk s op.core (fld sc 7 4) (rFmt (ds.getLastD 0)) &&
    (sweepGroup s op).isSome

/-- The sweep a SWEEP operation starts (R110 to R112, R180 to R184). -/
def sweepOf (s : State) (op : CoreOp) : Sweep :=
  let w := op.word
  let mask := fld w 15 12
  let g := (sweepGroup s op).getD 1
  let q := sweepQ s op
  let t := opClk s op
  let sc := sweepScales s op
  { core := op.core, slot := op.slot, bundle := bundleNow s, issue := t,
    first := if flag w 34 || flag w 35 then t + 8 else t,
    slices := sweepPadded s op g / q, mask := mask, bank := fld w 17 16,
    aRegs := (List.range 4).map fun n => if mask.testBit n then regionOf s op.core (fld w 25 18 + n) else 0,
    bReg := regionOf s op.core (fld w 33 26), aCol := flag w 34, bCol := flag w 35, rshift := flag w 36,
    chain := fld w 42 37 + 1, rows := fld w 49 43, cols := fld w 56 50, k := sweepK s op, g := g, q := q,
    kscale := -(slotK s op.core (fld sc 3 0) + slotK s op.core (fld sc 7 4)), done := 0 }

/-- The tile-store reads of one operand fed in the row direction, one slice per clk (R110). -/
def rowClaims (core first slices q : Nat) (d : BitVec 128) : List (Nat × Nat) :=
  (List.range slices).flatMap fun x => (List.range q).flatMap fun r =>
    (List.range (rowWords (rFmt d))).map fun k =>
      claim core (first + x + 1) 0 false (blockBank (rBank d) ((q * x + r) % 64) k)

/-- The reads of the strip latch for `cols` word columns, runs of m slices (R111, R487). -/
def latchClaims (core first m cols : Nat) (d : BitVec 128) : List (Nat × Nat) :=
  (List.range cols).flatMap fun wc => (List.range 64).map fun i =>
    claim core (latchClk first m wc i) 0 false (blockBank (rBank d) i (wc % rowWords (rFmt d)))

/-- The reads of new rows of a row-shift operand (R487); a masked new row is not read (R99). -/
def shiftClaims (core : Nat) (w : Sweep) (d : BitVec 128) : List (Nat × Nat) :=
  (List.range w.slices).filterMap fun x =>
    let l := x % w.chain
    let last := 64 * (rBlocks d - 1)
    if 0 < l ∧ l ≤ last then
      some (claim core (w.first + x + 1) 0 false
        (blockBank (rBank d) ((last - l) % 64) (w.q * (x / w.chain) / wordElems (rFmt d))))
    else none

/-- The reads of one operand of a sweep (R110 to R112, R487). MX scale words are read beside them and claim no port
(DEDUCED 17). -/
def operandClaims (w : Sweep) (d : BitVec 128) (col shift : Bool) : List (Nat × Nat) :=
  let n := sliceRun (rFmt d) w.q
  if shift then
    let chains := ceilDiv w.slices w.chain
    latchClaims w.core w.first (n * w.chain) (w.q * (chains - 1) / wordElems (rFmt d) + 1) d ++
      shiftClaims w.core w d
  else if col then latchClaims w.core w.first n (ceilDiv w.slices n) d
  else rowClaims w.core w.first w.slices w.q d

/-- Every tile-store read a sweep claims: each array's a operand, and the shared b operand once. -/
def sweepClaims (w : Sweep) : List (Nat × Nat) :=
  if w.slices = 0 then []
  else
    (maskArrays w.mask).flatMap (fun n => operandClaims w (w.aRegs.getD n 0) w.aCol w.rshift) ++
      operandClaims w w.bReg w.bCol false

/-- The preload rule of R82: LATENCY for a slice before clk c + 63 of a preload of the bank. -/
def preloadLatency (s : State) (w : Sweep) : Option Flt :=
  if s.seq.checked && decide (0 < w.slices) then
    (s.cu.inits.find? fun b => b.preload && b.core == w.core && b.bank == w.bank && (b.mask &&& w.mask != 0) &&
      decide (w.first < b.clk + 63)).map fun b =>
        { code := 5, info := w.bank + (b.mask &&& w.mask) * 16 + 768 }
  else none

/-- A group of the sweep would be written within clks lo to lo + 63. A group that is padding alone is not written and so is
not tested (R85; DEDUCED 54: R91 does not name it). -/
def groupIn (w : Sweep) (lo : Nat) : Bool :=
  let g0 := groupClk w 0
  let step := groupClks w
  let j := if lo ≤ g0 then 0 else ceilDiv (lo - g0) step
  decide (w.g * j < w.k) && decide (groupClk w j ≤ lo + 63)

/-- The drain rule of R91: LATENCY for a group that would reach a bank within the window of a DRAIN of it. -/
def drainLatencyFault (s : State) (w : Sweep) : Option Flt :=
  if s.seq.checked && decide (0 < w.slices) then
    (s.cu.drains.find? fun d => !d.copy && d.core == w.core && d.bank == w.bank && (d.mask &&& w.mask != 0) &&
      decide (w.issue ≤ d.first + 63) && groupIn w d.first).map fun d =>
        { code := 5, info := w.bank + (d.mask &&& w.mask) * 16 + 768 }
  else none

/-- ARRAY_BUSY: the first slice would fall on or before the last slice of an earlier sweep of an array (R75). -/
def sweepBusy (s : State) (w : Sweep) : Option Flt :=
  if decide (0 < w.slices) && s.cu.sweeps.any (fun v => v.core == w.core && (v.mask &&& w.mask != 0) &&
      decide (0 < v.slices) && decide (w.first ≤ v.first + v.slices - 1)) then
    some { code := 3, info := w.mask }
  else none

/-- BOUND of a SWEEP: each operand region holds 4,096 × ⌈K′ / 64⌉ elements (R184), and a row-shift sweep has
K′ ≤ 64 × L (R98). -/
def sweepBound (s : State) (op : CoreOp) (w : Sweep) : Option Flt :=
  let k' := w.slices * w.q
  match (sweepRegions op).find? (fun n => decide (rBound (regionOf s op.core n) < 4096 * ceilDiv k' 64)) with
  | some n => some { code := 2, info := n }
  | none => boundUnless (!w.rshift || decide (k' ≤ 64 * w.chain)) (fld op.word 25 18 + (maskArrays w.mask).headD 0)

/-- The first region of a list not in the state a consumer needs (R152). -/
def consumersReady (s : State) (core : Nat) (ns : List Nat) : Option Flt :=
  (ns.find? fun n => !canConsume (regionOf s core n)).map fun n => { code := 8, info := n }

/-- The checks of SWEEP in the order of R177. The claims are listed only where the regions hold the sweep. -/
def sweepChecks (s : State) (op : CoreOp) : List (Option Flt) :=
  let w := sweepOf s op
  let t := opClk s op
  let kreg := fld op.word 61 57
  [encodingUnless (sweepEncoding s op), latS s op.core kreg t, latS s op.core (kreg + 1) t, preloadLatency s w,
    drainLatencyFault s w, consumersReady s op.core (sweepRegions op), sweepBound s op w, sweepBusy s w,
    if (sweepBound s op w).isSome then none else portClash s op (sweepClaims w)]

/-- SWEEP starts: it becomes one consumer of each region it names until the F1 clk of its last slice (R486), claims its
reads, and feeds its arrays (R75, R183). A region named as a and as b counts once (DEDUCED 54). -/
def startSweep (s : State) (op : CoreOp) : State :=
  let w := sweepOf s op
  let t := opClk s op
  let due := if w.slices = 0 then t else w.first + w.slices
  let s1 := (sweepRegions op).eraseDups.foldl (fun x n => takeConsumer x op.core n t due) s
  let s2 := takePorts s1 op (sweepClaims w)
  { s2 with cu := { s2.cu with sweeps := s2.cu.sweeps ++ [w] } }

/-- SWEEP. -/
def execSweep (op : CoreOp) (ecc : Ecc) (s : State) : Out :=
  coreOp s op (sweepChecks s op) (sramError (startSweep s op) op.core ecc)

/-! ### ZERO and PRELOAD -/

/-- ZERO (R80, R185). -/
def execZero (op : CoreOp) (s : State) : Out :=
  let b : BankInit := { core := op.core, mask := fld op.word 15 12, bank := fld op.word 17 16, clk := opClk s op,
                        preload := false, base := 0, acc48 := false, width := 0, done := 0 }
  coreOp s op [encodingUnless (decide (fld op.word 15 12 ≠ 0) && zeros op.word 63 18)]
    { s with cu := { s.cu with inits := s.cu.inits ++ [b] } }

/-- Buffer rows of array n's row i from base row o (R117). -/
def bufferRows (acc48 : Bool) (o n i : Nat) : List Nat :=
  if acc48 then [o + 2 * (64 * n + i), o + 2 * (64 * n + i) + 1] else [o + 64 * n + i]

/-- The buffer rows of a drain or PRELOAD lie within its region (R188). -/
def rowsFit (d : BitVec 128) (off mask : Nat) : Bool :=
  let top := Nat.log2 mask
  if rFmt d = 10 then decide (off + 2 * (64 * top + 63) + 1 < 2 * rBound d / 64)
  else decide (off + 64 * top + 63 < rBound d / 64)

/-- The buffer reads of a PRELOAD: row i in clk c + 8 + i (R118). -/
def preloadClaims (core t o mask : Nat) (acc48 : Bool) : List (Nat × Nat) :=
  (List.range 64).flatMap fun i => (maskArrays mask).flatMap fun n =>
    (bufferRows acc48 o n i).map fun r => claim core (t + 8 + i) 1 false (rowBank r)

/-- PRELOAD (R81 to R83, R118, R185, R186); `ecc` is what its buffer reads show (R115). -/
def execPreload (op : CoreOp) (ecc : Ecc) (s : State) : Out :=
  let t := opClk s op
  let mask := fld op.word 15 12
  let bank := fld op.word 17 16
  let n := fld op.word 28 21
  let off := fld op.word 42 29
  let d := regionOf s op.core n
  let acc48 := rFmt d == 10
  let o := rBase d + off
  let claims := preloadClaims op.core t o mask acc48
  let b : BankInit := { core := op.core, mask := mask, bank := bank, clk := t, preload := true, base := o,
                        acc48 := acc48, width := jobWidth s, done := 0 }
  let busy := s.cu.inits.any fun x => x.preload && x.core == op.core.val && (x.mask &&& mask != 0) &&
    decide (t < x.clk + 64)
  let s1 := takePorts (takeConsumer s op.core n t (t + 71)) op claims
  coreOp s op
    [encodingUnless (decide (mask ≠ 0) && zeros op.word 20 18 && zeros op.word 63 43 && rSpace d == 1 &&
        (rFmt d == 0 || rFmt d == 10) && !(acc48 && o % 2 == 1)),
      consumersReady s op.core [n], boundUnless (rowsFit d off mask) n,
      if busy then some { code := 3, info := mask } else none, portClash s op claims]
    (sramError { s1 with cu := { s1.cu with inits := s1.cu.inits ++ [b] } } op.core ecc)

/-! ### DRAIN and DRAINX -/

/-- The position mask entry of a core (R246). -/
def posMask (s : State) (core : Nat) : Word := match s.seq.job with
  | some j => j.masks.getD core 0
  | none => 0

/-- The position unit masks drains of this bank (R246). -/
def maskOn (s : State) (core bank : Nat) : Bool :=
  flag (posMask s core) 0 && fld (posMask s core) 2 1 == bank

/-- The rules of R187, R48, R49 and R190 for a drain's destination and its conversion fields. -/
def drainDestOk (s : State) (op : CoreOp) (d : BitVec 128) : Bool :=
  let w := op.word
  let o := rBase d + fld w 42 29
  match fld w 20 19 with
  | 0 => zeros w 58 43 && rSpace d == 1 && (rFmt d == 0 || (rFmt d == 10 && o % 2 == 0))
  | 1 => zeros w 58 43 && rSpace d == 1 && rFmt d == 0
  | 2 => zeros w 58 43 && zeros w 42 21
  | _ =>
    let fmt := rFmt d
    rSpace d == 0 && rLayout d == 1 && decide (fmt ≤ 9) && !(isMX fmt && rAxis d == 1) &&
      decide (fld w 44 43 ≤ 1) && !(fld w 44 43 == 1 && isP1 s) &&
      (!flag w 45 || fmt == 3 || fmt == 5) && (zeros w 49 46 || isScaled fmt) &&
      slotOk s op.core (fld w 49 46) fmt &&
      (if fld w 44 43 = 1 then decide (fld w 58 54 % 2 = 0) else zeros w 58 50)

/-- The mask rules of R246: no masked drain to an excluded destination, and positions of at most 22 bits. -/
def drainMaskOk (s : State) (op : CoreOp) (d : BitVec 128) : Bool :=
  let dest := fld op.word 20 19
  let m := fld (posMask s op.core) 7 3
  let t := opClk s op
  !maskOn s op.core (fld op.word 17 16) ||
    ((dest == 2 || (dest == 0 && rFmt d == 0)) && zeros (sregAt s op.core m t) 31 22 &&
      zeros (sregAt s op.core (m + 1) t) 31 22)

/-- The blocks or rows a drain writes lie within its region (R188). -/
def drainFits (op : CoreOp) (d : BitVec 128) : Bool :=
  let w := op.word
  match fld w 20 19 with
  | 2 => true
  | 3 => decide (fld w 42 29 + Nat.log2 (fld w 15 12) < rBound d / 4096)
  | _ => rowsFit d (fld w 42 29) (fld w 15 12)

/-- The sweeps that the bundle issues in the clk of an operation in later slots of its lane: their first slices are
ordered before a drain of that clk too (R88, R89). -/
def laterSweeps (s : State) (op : CoreOp) : List Sweep :=
  (List.range 4).filterMap fun n =>
    let w := coreWord s (bundleNow s) op.core n
    let other : CoreOp := { op with slot := Fin.ofNat 4 n, word := w }
    if op.slot.val < n ∧ fld w 4 3 = 1 ∧ fld w 11 5 = 1 ∧ fld w 2 0 = fld op.word 2 0 ∧
        firstFault (sweepChecks s other) = none then some (sweepOf s other) else none

/-- The drain a DRAIN or DRAINX starts (R88, R96, R246). -/
def drainOf (s : State) (op : CoreOp) (copy : Bool) : Drain :=
  let w := op.word
  let t := opClk s op
  let mask := fld w 15 12
  let bank := fld w 17 16
  let d := regionOf s op.core (fld w 28 21)
  let m := fld (posMask s op.core) 7 3
  let on := maskOn s op.core bank
  let oreg := fld w 58 54
  { core := op.core, slot := op.slot, bundle := bundleNow s, issue := t,
    first := if copy then t else drainFirst (s.cu.sweeps ++ laterSweeps s op) op.core mask bank t,
    mask := mask, bank := bank, clear := flag w 18, dest := fld w 20 19, regDesc := d, region := fld w 28 21,
    off := fld w 42 29, rnd := fld w 44 43, sat := flag w 45, scale := fld w 49 46, gen := fld w 53 50,
    offset := (sregAt s op.core oreg t).toNat + (sregAt s op.core (oreg + 1) t).toNat * 2 ^ 32,
    draw := BitVec.ofNat 64 (fld (s.cu.gen.get (op.core * 16 + fld w 53 50)) 127 64), step := s.seq.step,
    micro := s.seq.microBatch, copy := copy, masked := on,
    qbase := if on then (sregAt s op.core m t).toNat else 0,
    kbase := if on then (sregAt s op.core (m + 1) t).toNat else 0,
    started := false, unread := 64, buffer := [], toCome := 64, shadow := [], cleared := false }

/-- The clk in which row i of a drain arrives. -/
def drainRowClk (d : Drain) (i : Nat) : Nat := d.first + 63 - i + drainLatency d

/-- The ports a drain claims at its destination: the row's banks in its arrival clk, and in the clk before for an
accumulate (R114, R119). The scale bytes of an MX tile region, which lie in the banks of its elements' words (R109), claim no
port of their own: R113 counts the words, and every drain to such a region would else fault itself (DEDUCED 17). -/
def drainClaims (d : Drain) : List (Nat × Nat) :=
  let desc := d.regDesc
  let o := rBase desc + d.off
  (List.range 64).flatMap fun i => (maskArrays d.mask).flatMap fun n =>
    let t := drainRowClk d i
    match d.dest with
    | 2 => []
    | 3 => (List.range (rowWords (rFmt desc))).map fun k => claim d.core t 0 true (blockBank (rBank desc) i k)
    | 1 => [claim d.core (t - 1) 1 false (rowBank (o + 64 * n + i)), claim d.core t 1 true (rowBank (o + 64 * n + i))]
    | _ => (bufferRows (rFmt desc == 10) o n i).map fun r => claim d.core t 1 true (rowBank r)

/-- The bank entries of every array of the mask as they stand at the end of clk t − 1: a DRAINX's shadow (R96). -/
def shadowOf (s : State) (d : Drain) : Sparse 48 :=
  let s1 := if d.issue = 0 then s else settle s d.core (d.issue - 1)
  (maskArrays d.mask).foldl (fun m n => m.setList (n * 4096)
    (s1.cu.bank.getList (bankKey d.core n d.bank * 4096) 4096)) []

/-- The vector drain port's lane groups are pending until the first row arrives (R94). -/
def markPort (s : State) (d : Drain) : State :=
  if d.dest = 2 then
    { s with cu := { s.cu with readyD := (maskArrays d.mask).foldl (fun m n =>
        m.set (d.core * 4 + n) (BitVec.ofNat 64 (drainRowClk d 63))) s.cu.readyD } }
  else s

/-- LATENCY of the registers a drain reads: the offset pair of a stochastic rounding and the position pair. -/
def drainRegLatency (s : State) (op : CoreOp) : List (Option Flt) :=
  let t := opClk s op
  let oreg := fld op.word 58 54
  let m := fld (posMask s op.core) 7 3
  (if fld op.word 44 43 = 1 then [latS s op.core oreg t, latS s op.core (oreg + 1) t] else []) ++
  (if maskOn s op.core (fld op.word 17 16) then [latS s op.core m t, latS s op.core (m + 1) t] else [])

/-- The checks of DRAIN and DRAINX in the order of R177. -/
def drainChecks (s : State) (op : CoreOp) (copy : Bool) : List (Option Flt) :=
  let w := op.word
  let n := fld w 28 21
  let d := drainOf s op copy
  let port := fld w 20 19 == 2
  let busy := s.cu.drains.any fun x => x.core == op.core.val && (x.mask &&& d.mask != 0) &&
    decide (d.first ≤ x.first + 63) && decide (x.first ≤ d.first + 63)
  [encodingUnless (decide (d.mask ≠ 0) && zeros w 63 59 && !(copy && flag w 18) && drainDestOk s op d.regDesc &&
      drainMaskOk s op d.regDesc)] ++
  drainRegLatency s op ++
  [stateUnless (port || canProduce d.regDesc) n, boundUnless (drainFits op d.regDesc) n,
    if busy then some { code := 3, info := d.mask } else none, portClash s op (drainClaims d)]

/-- The element indices a stochastically rounding drain covers: blocks OFF + n of its arrays (R51, R129). -/
def drainSpan (d : Drain) : Nat × Nat :=
  ((d.off + (maskArrays d.mask).headD 0) * 4096, (d.off + Nat.log2 d.mask) * 4096 + 4095)

/-- DRAIN or DRAINX starts. -/
def startDrain (s : State) (op : CoreOp) (copy : Bool) : State :=
  let d0 := drainOf s op copy
  let d := if copy then { d0 with shadow := shadowOf s d0 } else d0
  let s1 := if d.dest = 2 then s else takeProducer s op.core d.region (opClk s op) (drainRowClk d 0)
  let s2 := takePorts (markPort s1 d) op (drainClaims d)
  let s3 := if d.rnd = 1 then advanceDraw s2 op.core d.gen (drainSpan d).1 (drainSpan d).2 else s2
  { s3 with cu := { s3.cu with drains := s3.cu.drains ++ [d] } }

/-- DRAIN. -/
def execDrain (op : CoreOp) (s : State) : Out :=
  coreOp s op (drainChecks s op false) (startDrain s op false)

/-- DRAINX. -/
def execDrainx (op : CoreOp) (s : State) : Out :=
  coreOp s op (drainChecks s op true) (startDrain s op true)

/-! ### Group sums -/

/-- The place of the element with the least key among those that satisfy a test, the first of equal ones. -/
def leastPlace {α : Type} (p : α → Bool) (key : α → Nat) (l : List α) : Option Nat :=
  ((l.zipIdx.filter fun x => p x.1).foldl (fun best x => match best with
    | some b => if key x.1 < key b.1 then some x else best
    | none => some x) none).map (·.2)

/-- The sweep of a core whose next group is written first. -/
def nextSweep (s : State) (core : Nat) : Option Nat :=
  leastPlace (fun w => w.core == core && decide (w.done < sweepGroups w)) (fun w => groupClk w w.done) s.cu.sweeps

/-- Write the next group of sweep k in every array of its mask (R76, R77). A ZERO or PRELOAD that falls between the slices of one
group comes before the whole group, whose sum enters once, with its last slice (R78; DEDUCED 56: R80 and R81 speak of slices). -/
def writeNextGroup (s : State) (k : Nat) (w : Sweep) : State :=
  let r := groupClk w w.done
  let s1 := settleRows (readTo (landNets s r) w.core r) w.core r
  let s2 := (maskArrays w.mask).foldl (fun t n => writeGroup t w w.done n) s1
  let s3 := { s2 with cu := { s2.cu with sweeps := modifyAt s2.cu.sweeps k fun v => { v with done := v.done + 1 } } }
  if s3.cu.sweeps.any (fun v => v.core == w.core && decide (v.done < sweepGroups v)) then s3
  else { s3 with cu := { s3.cu with tileLog := s3.cu.tileLog.filter fun e =>
      e.1 / 33554432 != w.core || netReaders s3 w.core } }

/-- The array events of a group: its slices taken and the group written, in every array of the mask (R455). -/
def countGroupEvents (s : State) (w : Sweep) : State :=
  let n := (maskArrays w.mask).length
  countEv (countEv s { code := 0x10, core := some w.core, amount := n * groupClks w })
    { code := 0x11, core := some w.core, amount := n }

/-- GROUP_SUM_WRITE: the next group of a core, once its clk is reached. -/
def execGroupSumWrite (core : Fin 16) (s : State) : Out :=
  match nextSweep s core with
  | none => .next s
  | some k => match s.cu.sweeps[k]? with
    | none => .next s
    | some w => if groupClk w w.done < clkEnd s then .next (countGroupEvents (writeNextGroup s k w) w)
      else .next s

/-! ### Drain events -/

/-- The drain of a core that begins next, by its first-read clk (R88). -/
def nextFirstRead (s : State) (core : Nat) : Option Nat :=
  leastPlace (fun d => d.core == core && !d.started) (fun d => d.first) s.cu.drains

/-- DRAIN_FIRST_READ: the drain of a core that begins next reads row 63, once its clk is reached (R88). -/
def execDrainFirstRead (core : Fin 16) (s : State) : Out :=
  match nextFirstRead s core with
  | none => .next s
  | some k => match s.cu.drains[k]? with
    | none => .next s
    | some d =>
      if d.first < clkEnd s then
        let s1 := readTo s core d.first
        .next (countEv
          { s1 with cu := { s1.cu with drains := modifyAt s1.cu.drains k fun d => { d with started := true } } }
          { code := 0x13, core := some core.val, amount := d.first - d.issue })
      else .next s

/-- The started drain of a core whose next row arrives first. -/
def nextArrival (s : State) (core : Nat) : Option Nat :=
  leastPlace (fun d => d.core == core && d.started && decide (0 < d.toCome)) drainArrivalClk s.cu.drains

/-- The value a drain delivers for column j of row i of array n as binary32: the residual folded (R62), or the mask
value (R246). -/
def drainValue (d : Drain) (n i j : Nat) (e : Entry) : Word :=
  if d.masked ∧ d.qbase + 64 * n + i < d.kbase + j then 0xDF800000#32 else rne32 (entryNum e)

/-- A masked entry raises no flag (R246); others as R58. -/
def drainFlag (d : Drain) (n i j : Nat) (e : Entry) : Bool :=
  !(d.masked && decide (d.qbase + 64 * n + i < d.kbase + j)) && !(entryNum e).finite

/-- A row of array n arrives at the accumulator buffer (R93, R117, R119). -/
def arriveBuffer (s : State) (d : Drain) (i n t : Nat) (es : List Entry) : State :=
  let w := jobWidth s
  let es := es.take w
  let o := rBase d.regDesc + d.off
  let nonfin := (es.zipIdx).any fun e => drainFlag d n i e.2 e.1
  let x := o + 64 * n + i
  if rFmt d.regDesc = 10 then
    let r := o + 2 * (64 * n + i)
    let halves := (List.range ((w + 1) / 2)).map fun k =>
      let old := accAt s d.core (t + 1) (64 * (r + 1) + k)
      let lo := fld (es.getD (2 * k) 0) 47 32
      let hi := if 2 * k + 1 < w then fld (es.getD (2 * k + 1) 0) 47 32 else fld old 31 16
      BitVec.ofNat 32 (lo + hi * 65536)
    setFlags (writeRows s d.core t r [es.map entryS, halves]) d.core nonfin false
  else if d.dest = 1 then
    let vs := es.mapIdx fun j e => Num.add (dec32 (accAt s d.core t (64 * x + j))) (entryNum e)
    let bits := vs.map (rne32p (isP1 s))
    if isLost s (claim d.core (t - 1) 1 false (rowBank x)) then s
    else setFlags (writeRows s d.core t x [bits]) d.core
      (bits.any nonfinite32 || nonfin || (List.range w).any fun j => nonfinite32 (accAt s d.core t (64 * x + j))) false
  else
    let bits := es.mapIdx fun j e => drainValue d n i j e
    setFlags (writeRows s d.core t x [bits]) d.core (nonfin || bits.any nonfinite32) false

/-- A row of array n arrives at the vector drain port (R94). -/
def arrivePort (s : State) (d : Drain) (i n : Nat) (es : List Entry) : State :=
  let w := jobWidth s
  let bits := es.mapIdx fun j e => if j < w then drainValue d n i j e else 0#32
  let nonfin := ((es.take w).zipIdx).any fun e => drainFlag d n i e.2 e.1
  let s1 := { s with cu := { s.cu with dport := s.cu.dport.setList (d.core * 256 + 64 * n) bits } }
  setFlags s1 d.core (nonfin || bits.any nonfinite32) false

/-- The draws of a drain (R51, R129). -/
def drainDraws (s : State) (d : Drain) : Draws :=
  { seed := jobSeed s, slot := putFld (s.cu.gen.get (d.core * 16 + d.gen)) 127 64 d.draw.toNat, base := d.offset,
    step := d.step, micro := d.micro, n0 := (drainSpan d).1 }

/-- A row of array n arrives in the tile store, converted (R47, R54, R93, R95, R187): logical columns W to 63 as +0. -/
def arriveTile (s : State) (d : Drain) (i n t : Nat) (es : List Entry) : State :=
  let fmt := rFmt d.regDesc
  let bits := fmtBits fmt
  let w := jobWidth s
  let dr := drainDraws s d
  let base := (d.off + n) * 4096 + 64 * i
  let xs := es.mapIdx fun j e => if j < w then entryNum e else .fin false 0 0
  let k := slotK s d.core d.scale
  let blk := d.off + n
  let place := fun (s : State) (vals : List Nat) =>
    (List.range (rowWords fmt)).foldl (fun s k =>
      let addr := blockWord d.regDesc blk i k
      if isLost s (claim d.core t 0 true (blockBank (rBank d.regDesc) i k)) then s
      else writeTile s d.core t addr
        (packBits bits ((vals.drop (k * wordElems fmt)).take (wordElems fmt)) 64)) s
  if isMX fmt then
    let blocks := (List.range 2).map fun h =>
      convertBlock fmt (fun m => roundingOf d.rnd dr (base + 32 * h + m)) (isP1 s) ((xs.drop (32 * h)).take 32)
    let s1 := place s (blocks.flatMap (·.bits))
    let s2 := (blocks.zipIdx).foldl (fun s b =>
      writeTile s d.core t (scaleWord d.regDesc blk b.2 + i) [BitVec.ofNat 8 b.1.scale]) s1
    setFlags s2 d.core (blocks.any (·.nonfin)) (blocks.any (·.satf))
  else
    let cs := xs.mapIdx fun j x => convertTo fmt (roundingOf d.rnd dr (base + j)) d.sat (isP1 s) k x
    let s1 := place s (cs.map (·.bits))
    let s2 := raisePending s1 d.core d.scale ((xs.map pendingMag).foldl max 0)
    setFlags s2 d.core (cs.any (·.nonfin)) (cs.any (·.clamped))

/-- The next row of drain k arrives in every array of its mask (R93). -/
def arriveRow (s : State) (k : Nat) (d : Drain) : State :=
  let i := d.toCome - 1
  let t := drainArrivalClk d
  let s0 := if d.buffer.isEmpty then readTo s d.core (t - drainLatency d) else s
  let s0 := if i = 0 then settle s0 d.core (t - drainLatency d) else s0
  let row := (match s0.cu.drains[k]? with | some d => d.buffer.headD [] | none => [])
  let s1 := (maskArrays d.mask).foldl (fun s n =>
    let es := (row.drop (64 * n)).take 64
    match d.dest with
    | 2 => arrivePort s d i n es
    | 3 => arriveTile s d i n t es
    | _ => arriveBuffer s d i n t es) s0
  { s1 with cu := { s1.cu with drains := modifyAt s1.cu.drains k fun d =>
      { d with toCome := i, buffer := d.buffer.drop 1 } } }

/-- DRAIN_ROW_ARRIVAL: the next row of a core's drains, once its clk is reached; `ecc` is what the read of an
accumulate shows (R115, R119). -/
def execDrainRowArrival (core : Fin 16) (ecc : Ecc) (s : State) : Out :=
  match nextArrival s core with
  | none => .next s
  | some k => match s.cu.drains[k]? with
    | none => .next s
    | some d =>
      if drainArrivalClk d < clkEnd s then
        let s1 := countEv (arriveRow (landNets s (drainArrivalClk d)) k d)
          { code := 0x12, core := some core.val, amount := (maskArrays d.mask).length }
        let s2 := if d.toCome = 1 then finishOp s1 core d.slot d.issue (drainArrivalClk d) else s1
        .next (sramError s2 core (if d.dest = 1 then ecc else .clean))
      else .next s

end Sys2Proof.Machine
end

