-- ==== Sys2Proof/Machine/Lanes.lean ====
section
/-! DEFINITION. Lane arithmetic of the vector unit (R64, R191, R192): binary32 lanes or two BF16 elements a lane. -/

namespace Sys2Proof.Machine

/-- An element function of the first, second and third source. -/
abbrev LaneFn := Num → Num → Num → Num

/-- The lower BF16 element of a lane. -/
def loHalf (w : Word) : BitVec 16 := BitVec.ofNat 16 (fld w 15 0)

/-- The upper BF16 element of a lane. -/
def hiHalf (w : Word) : BitVec 16 := BitVec.ofNat 16 (fld w 31 16)

/-- A lane of two elements. -/
def mkPair (lo hi : BitVec 16) : Word := BitVec.ofNat 32 (lo.toNat + hi.toNat <<< 16)

/-- A BF16 operand widened to binary32, under the P1 input rule (R63, R64). -/
def bfIn (p1 : Bool) (b : BitVec 16) : Num :=
  if p1 ∧ fld b 14 7 = 0 then .fin (flag b 15) 0 0 else decBf b

/-- A binary32 operand under the P1 input rule. -/
def f32In (p1 : Bool) (w : Word) : Num := dec32 (if p1 then flush32 w else w)

/-- A function of one lane, rounded once (R64). -/
def laneFn (packed p1 : Bool) (f : LaneFn) (a b c : Word) : Word :=
  if packed then
    mkPair (rneBf p1 (f (bfIn p1 (loHalf a)) (bfIn p1 (loHalf b)) (bfIn p1 (loHalf c))))
      (rneBf p1 (f (bfIn p1 (hiHalf a)) (bfIn p1 (hiHalf b)) (bfIn p1 (hiHalf c))))
  else rne32p p1 (f (f32In p1 a) (f32In p1 b) (f32In p1 c))

/-- Minimum (R192): NaN if either is NaN; −0 of two zeros of which one is −0. -/
def numMin (a b : Num) : Num :=
  match a, b with
  | .nan, _ => .nan
  | _, .nan => .nan
  | _, _ => if Num.lt a b then a else if Num.lt b a then b else if a.sign then a else b

/-- Maximum (R192): NaN if either is NaN; +0 of two zeros of which one is +0. -/
def numMax (a b : Num) : Num :=
  match a, b with
  | .nan, _ => .nan
  | _, .nan => .nan
  | _, _ => if Num.lt a b then b else if Num.lt b a then a else if a.sign then b else a

/-- The predicates of VCMP (R192). -/
def numCmp (pred : Nat) (a b : Num) : Bool :=
  match pred with
  | 0 => Num.eqv a b
  | 1 => Num.lt a b
  | 2 => Num.lt a b || Num.eqv a b
  | _ => a == .nan || b == .nan

/-- VCMP of one lane: all ones where the predicate holds. -/
def laneCmp (packed p1 : Bool) (pred : Nat) (a b : Word) : Word :=
  if packed then
    mkPair (if numCmp pred (bfIn p1 (loHalf a)) (bfIn p1 (loHalf b)) then 0xFFFF#16 else 0#16)
      (if numCmp pred (bfIn p1 (hiHalf a)) (bfIn p1 (hiHalf b)) then 0xFFFF#16 else 0#16)
  else if numCmp pred (f32In p1 a) (f32In p1 b) then 0xFFFFFFFF#32 else 0#32

/-- VSEL of one lane: the bits of c decide (DEDUCED 18). -/
def laneSel (packed : Bool) (a b c : Word) : Word :=
  if packed then
    mkPair (if loHalf c = 0#16 then loHalf b else loHalf a) (if hiHalf c = 0#16 then hiHalf b else hiHalf a)
  else if c = 0#32 then b else a

/-- Lane by lane over three sources. -/
def mapLanes (f : Word → Word → Word → Word) : List Word → List Word → List Word → List Word
  | a :: as, b :: bs, c :: cs => f a b c :: mapLanes f as bs cs
  | _, _, _ => []

/-- Six levels of rounded pair sums of 64 lanes (tree_sum of R125), `level` levels. -/
def pairSums : List Word → List Word
  | a :: b :: l => rne32 (Num.add (dec32 a) (dec32 b)) :: pairSums l
  | l => l

/-- tree_sum (R125): lanes beyond the list enter as +0. -/
def treeSum (xs : List Word) : Word :=
  let l := xs ++ List.replicate (64 - xs.length) 0#32
  (pairSums (pairSums (pairSums (pairSums (pairSums (pairSums l)))))).headD 0

end Sys2Proof.Machine
end

