-- ==== Sys2Proof/Machine/VectorOps.lean ====
section
/-! DEFINITION. The V-class arithmetic, conversion, dropout, load and store operations (R191 to R195). -/

namespace Sys2Proof.Machine

/-- VB as of issue. -/
def sourceB (s : State) (op : CoreOp) : List Word := vregAt s op.core (fld op.word 29 24) (opClk s op)

/-- VC as of issue. -/
def sourceC (s : State) (op : CoreOp) : List Word := vregAt s op.core (fld op.word 35 30) (opClk s op)

/-- LATENCY of VB. -/
def latB (s : State) (op : CoreOp) : Option Flt := latV s op.core (fld op.word 29 24) (opClk s op)

/-- LATENCY of VC. -/
def latC (s : State) (op : CoreOp) : Option Flt := latV s op.core (fld op.word 35 30) (opClk s op)

/-- With DP set the drain port replaces VA, which is then unused and must be zero (R191). -/
def vaOk (op : CoreOp) : Bool := !flag op.word 36 || zeros op.word 23 18

/-- PK. -/
def isPacked (op : CoreOp) : Bool := flag op.word 37

/-- An arithmetic operation of one, two or three sources whose results round once (R64); it sets the non-finite flag
when it consumes or produces a non-finite value (R58). -/
def arith (op : CoreOp) (s : State) (sources lat : Nat) (f : LaneFn) : Out :=
  let pk := isPacked op
  let a := sourceA s op
  let b := if 2 ≤ sources then sourceB s op else a
  let c := if 3 ≤ sources then sourceC s op else b
  let r := mapLanes (laneFn pk (isP1 s) f) a b c
  let bad := (r ++ a ++ b ++ c).any (nonfiniteLane pk)
  coreOp s op
    [encodingUnless (zeros op.word 63 38 && (decide (2 ≤ sources) || zeros op.word 29 24) &&
        (decide (3 ≤ sources) || zeros op.word 35 30) && vaOk op),
      latA s op, if 2 ≤ sources then latB s op else none, if 3 ≤ sources then latC s op else none]
    (pushResult s op lat (.vector (fld op.word 17 12) 0 r) bad false)

/-- VFMA: d := fma(a, b, c). -/
def execVfma (op : CoreOp) (s : State) : Out := arith op s 3 6 fun a b c => Num.add (Num.mul a b) c

/-- VMUL: d := a × b. -/
def execVmul (op : CoreOp) (s : State) : Out := arith op s 2 6 fun a b _ => Num.mul a b

/-- VADD: d := a + b. -/
def execVadd (op : CoreOp) (s : State) : Out := arith op s 2 4 fun a b _ => Num.add a b

/-- VSUB: d := a − b. -/
def execVsub (op : CoreOp) (s : State) : Out := arith op s 2 4 fun a b _ => Num.add a (Num.neg b)

/-- VMIN. -/
def execVmin (op : CoreOp) (s : State) : Out := arith op s 2 4 fun a b _ => numMin a b

/-- VMAX. -/
def execVmax (op : CoreOp) (s : State) : Out := arith op s 2 4 fun a b _ => numMax a b

/-- VCMP: all ones where the predicate of [39:38] holds. -/
def execVcmp (op : CoreOp) (s : State) : Out :=
  let pk := isPacked op
  let a := sourceA s op
  let b := sourceB s op
  let r := mapLanes (fun a b _ => laneCmp pk (isP1 s) (fld op.word 39 38) a b) a b b
  coreOp s op [encodingUnless (zeros op.word 63 40 && zeros op.word 35 30 && vaOk op), latA s op, latB s op]
    (pushResult s op 4 (.vector (fld op.word 17 12) 0 r) ((a ++ b).any (nonfiniteLane pk)) false)

/-- A logical or shift operation on 32-bit lanes: PK must be 0; no flag (R58, R192). -/
def logical (op : CoreOp) (s : State) (f : Word → Word → Word) : Out :=
  let b := sourceB s op
  let r := mapLanes (fun a b _ => f a b) (sourceA s op) b b
  coreOp s op [encodingUnless (zeros op.word 63 37 && zeros op.word 35 30 && vaOk op), latA s op, latB s op]
    (pushResult s op 2 (.vector (fld op.word 17 12) 0 r) false false)

/-- VAND. -/
def execVand (op : CoreOp) (s : State) : Out := logical op s fun a b => a &&& b

/-- VOR. -/
def execVor (op : CoreOp) (s : State) : Out := logical op s fun a b => a ||| b

/-- VXOR. -/
def execVxor (op : CoreOp) (s : State) : Out := logical op s fun a b => a ^^^ b

/-- VSHL: logical shift left by bits [4:0] of b. -/
def execVshl (op : CoreOp) (s : State) : Out := logical op s fun a b => a <<< fld b 4 0

/-- VSHR: logical shift right by bits [4:0] of b. -/
def execVshr (op : CoreOp) (s : State) : Out := logical op s fun a b => a >>> fld b 4 0

/-- VSEL: d := a where c ≠ 0, otherwise b. -/
def execVsel (op : CoreOp) (s : State) : Out :=
  let r := mapLanes (laneSel (isPacked op)) (sourceA s op) (sourceB s op) (sourceC s op)
  coreOp s op [encodingUnless (zeros op.word 63 38 && vaOk op), latA s op, latB s op, latC s op]
    (pushResult s op 2 (.vector (fld op.word 17 12) 0 r) false false)

/-- VMOV: d := a. -/
def execVmov (op : CoreOp) (s : State) : Out :=
  coreOp s op [encodingUnless (zeros op.word 63 38 && zeros op.word 35 24 && vaOk op), latA s op]
    (pushResult s op 2 (.vector (fld op.word 17 12) 0 (sourceA s op)) false false)

/-! ### Drawing operations -/

/-- UNIT_BUSY for a second drawing vector operation of a core in one clk (R130). -/
def drawBusy (s : State) (op : CoreOp) (draws : Bool) : Option Flt :=
  if draws && decide ((s.cu.drawClk.get op.core).toNat = opClk s op + 1) then some { code := 4 } else none

/-- A vector operation draws in this clk. -/
def takeDraw (s : State) (op : CoreOp) (draws : Bool) (slot n0 nmax : Nat) : State :=
  if draws then
    let s1 := advanceDraw s op.core slot n0 nmax
    { s1 with cu := { s1.cu with drawClk := s1.cu.drawClk.set op.core (BitVec.ofNat 64 (opClk s op + 1)) } }
  else s

/-- The 64-bit offset base in a register pair. -/
def pairBase (s : State) (op : CoreOp) (r : Nat) : Nat :=
  (sregAt s op.core r (opClk s op)).toNat + (sregAt s op.core (r + 1) (opClk s op)).toNat * 2 ^ 32

/-- The draws of a vector operation (R51, R129, R212). -/
def vectorDraws (s : State) (op : CoreOp) (slot base n0 : Nat) : Draws :=
  { seed := jobSeed s, slot := s.cu.gen.get (op.core * 16 + slot), base := base, step := s.seq.step,
    micro := s.seq.microBatch, n0 := n0 }

/-- The field rules of VCVT (R193, R48, R49, R190). -/
def vcvtOk (s : State) (op : CoreOp) : Bool :=
  let w := op.word
  let src := fld w 41 38
  let dst := fld w 45 42
  let packed := if dst = 0 then src else dst
  let scaled := isScaled packed
  decide (src ≤ 4) && decide (dst ≤ 4) && ((src == 0) != (dst == 0)) && !isPacked op && zeros w 35 24 && vaOk op &&
    (zeros w 52 49 || scaled) && slotOk s op.core (fld w 52 49) packed &&
    decide (fld w 63 62 < (if packed ≤ 2 then 2 else 4)) &&
    (if dst = 0 then zeros w 48 46 && zeros w 61 53
     else decide (fld w 47 46 ≤ 1) && !(fld w 47 46 == 1 && isP1 s) && (!flag w 48 || dst == 3) &&
       (if fld w 47 46 = 1 then decide (fld w 61 57 % 2 = 0) else zeros w 61 53))

/-- Bits of the packed element m of a register. -/
def packedElem (lanes : List Word) (w m : Nat) : Nat :=
  (lanes.getD (m * w / 32) 0).toNat >>> (w * (m % (32 / w))) % 2 ^ w

/-- VCVT (R193). -/
def execVcvt (op : CoreOp) (s : State) : Out :=
  let w := op.word
  let src := fld w 41 38
  let dst := fld w 45 42
  let part := fld w 63 62
  let slot := fld w 52 49
  let k := slotK s op.core slot
  let a := sourceA s op
  let t := opClk s op
  let narrow := dst != 0
  let draws := narrow && fld w 47 46 == 1
  let gen := fld w 56 53
  let oreg := fld w 61 57
  let d := vectorDraws s op gen (pairBase s op oreg) (256 * part)
  let xs := if narrow then a.map (f32In (isP1 s)) else
    (List.range 256).map fun n => elementNum src (packedElem a (fmtBits src) (256 * part + n)) 0
  let cs := if narrow then
      xs.mapIdx fun n x => convertTo dst (roundingOf (fld w 47 46) d (256 * part + n)) (flag w 48) (isP1 s) k x
    else xs.map fun x => convertTo 0 .rne false (isP1 s) (-k) x
  let bits := fmtBits dst
  let lanes := if narrow then
      bytesWords (8 * bits) (packBits bits (cs.map (·.bits)) (32 * bits))
    else cs.map fun c => BitVec.ofNat 32 c.bits
  let bad := cs.any (·.nonfin) || xs.any (fun x => !x.finite)
  let s1 := pushResult s op 10 (.vector (fld w 17 12) (if narrow then 8 * bits * part else 0) lanes) bad
    (cs.any (·.clamped))
  let s2 := if narrow then raisePending s1 op.core slot ((xs.map pendingMag).foldl max 0) else s1
  coreOp s op
    ([encodingUnless (vcvtOk s op), latA s op] ++
      (if draws then [latS s op.core oreg t, latS s op.core (oreg + 1) t] else []) ++ [drawBusy s op draws])
    (takeDraw s2 op draws gen (256 * part) (256 * part + 255))

/-- One element of VDROP (R131): its bits, and whether it sets the non-finite flag. -/
def dropElem (packed p1 : Bool) (threshold r : Nat) (x f : Nat) : Nat × Bool :=
  if r < threshold then (0, false)
  else if packed then
    let y := rneBf p1 (Num.mul (bfIn p1 (BitVec.ofNat 16 x)) (bfIn p1 (BitVec.ofNat 16 f)))
    (y.toNat, nonfiniteBf y || nonfiniteBf (BitVec.ofNat 16 x) || nonfiniteBf (BitVec.ofNat 16 f))
  else
    let y := rne32p p1 (Num.mul (f32In p1 (BitVec.ofNat 32 x)) (f32In p1 (BitVec.ofNat 32 f)))
    (y.toNat, nonfinite32 y || nonfinite32 (BitVec.ofNat 32 x) || nonfinite32 (BitVec.ofNat 32 f))

/-- VDROP (R131, R194). -/
def execVdrop (op : CoreOp) (s : State) : Out :=
  let w := op.word
  let pk := isPacked op
  let bits := if pk then 16 else 32
  let count := if pk then 512 else 256
  let a := sourceA s op
  let b := sourceB s op
  let slot := fld w 41 38
  let breg := fld w 62 58
  let t := opClk s op
  let d := vectorDraws s op slot (pairBase s op breg) 0
  let ys := (List.range count).map fun n =>
    dropElem pk (isP1 s) (fld w 57 42) (d.value n) (packedElem a bits n) (packedElem b bits n)
  let lanes := bytesWords 256 (packBits bits (ys.map (·.1)) 1024)
  coreOp s op
    [encodingUnless (!flag w 63 && zeros w 35 30 && vaOk op && decide (breg % 2 = 0)), latA s op, latB s op,
      latS s op.core breg t, latS s op.core (breg + 1) t, drawBusy s op true]
    (takeDraw (pushResult s op 10 (.vector (fld w 17 12) 0 lanes) (ys.any (·.2)) false) op true slot 0 (count - 1))

/-! ### Loads and stores -/

/-- The address of a VLD or VST: a word or row index, from the region's BASE when RG is set (R195). -/
def vaddr (s : State) (op : CoreOp) : Nat :=
  let a := (sregAt s op.core (fld op.word 28 24) (opClk s op)).toNat
  if flag op.word 39 then rBase (regionOf s op.core (fld op.word 47 40)) + a else a

/-- The access of a VLD or VST lies within its region's span, or its store (R195). -/
def vaccessFits (s : State) (op : CoreOp) : Bool :=
  let a := (sregAt s op.core (fld op.word 28 24) (opClk s op)).toNat
  let d := regionOf s op.core (fld op.word 47 40)
  if flag op.word 39 then
    if flag op.word 38 then decide (a + 4 ≤ rRows d) else decide (64 * (a + 16) ≤ linearBytes (rFmt d) (rBound d))
  else if flag op.word 38 then decide (a + 4 ≤ 16384) else decide (a + 16 ≤ 524288)

/-- The field rules common to VLD and VST (R195). -/
def vaccessOk (s : State) (op : CoreOp) : Bool :=
  let w := op.word
  let d := regionOf s op.core (fld w 47 40)
  !flag w 29 && zeros w 35 30 && zeros w 63 48 && (flag w 39 || zeros w 47 40) &&
    (!flag w 39 || (rLayout d == 0 && rSpace d == fld w 38 38))

/-- The ports an access of a VLD or VST claims in clk t. -/
def vaccessClaims (s : State) (op : CoreOp) (t : Nat) (write : Bool) : List (Nat × Nat) :=
  let a := vaddr s op
  if flag op.word 38 then (List.range 4).map fun m => claim op.core t 1 write (rowBank (a + m))
  else (List.range 16).map fun m => claim op.core t 0 write ((a + m) % 128)

/-- The 256 lanes a VLD loads: 16 words of the tile store, or 4 rows of the accumulator buffer (R121). -/
def loadLanes (s : State) (op : CoreOp) : List Word :=
  let t := opClk s op
  let s1 := withStores (landNets s t) op.core t
  let a := vaddr s op
  if flag op.word 38 then (List.range 256).map fun i => accAt s1 op.core t (64 * a + i)
  else bytesWords 256 ((List.range 1024).map fun i => tileAt s1 op.core t (64 * a + i))

/-- VLD (R195): a read in the issue clk, a consumer of its region when RG is set; `ecc` is what its read shows
(R115). -/
def execVld (op : CoreOp) (ecc : Ecc) (s : State) : Out :=
  let w := op.word
  let t := opClk s op
  let n := fld w 47 40
  let claims := vaccessClaims s op t false
  let s1 := if flag w 39 then takeConsumer s op.core n t t else s
  coreOp s op
    [encodingUnless (vaccessOk s op && zeros w 23 18 && !flag w 36), latS s op.core (fld w 28 24) t,
      stateUnless (!flag w 39 || canConsume (regionOf s op.core n)) n, boundUnless (vaccessFits s op) n,
      portClash s op claims]
    (sramError (takePorts (pushResult s1 op 5 (.vector (fld w 17 12) 0 (loadLanes s op)) false false) op claims)
      op.core ecc)

/-- VST (R195): it lands at the end of clk c + 2, a producer of its region when RG is set. -/
def execVst (op : CoreOp) (s : State) : Out :=
  let w := op.word
  let t := opClk s op
  let n := fld w 47 40
  let claims := vaccessClaims s op (t + 2) true
  let a := vaddr s op
  let dest := if flag w 38 then Dest.acc a (sourceA s op) else Dest.tile a (sourceA s op)
  let s1 := if flag w 39 then takeProducer s op.core n t (t + 2) else s
  coreOp s op
    [encodingUnless (vaccessOk s op && zeros w 17 12 && vaOk op), latA s op, latS s op.core (fld w 28 24) t,
      stateUnless (!flag w 39 || canProduce (regionOf s op.core n)) n, boundUnless (vaccessFits s op) n,
      portClash s op claims]
    (takePorts (pushResult s1 op 3 dest false false) op claims)

end Sys2Proof.Machine
end

