-- ==== Sys2Proof/Machine/RegionOps.lean ====
section
/-! DEFINITION. The region operations and the core-to-core copy (R149 to R152, R199 to R201, R206). -/

namespace Sys2Proof.Machine

/-- The descriptor a REGION.SET forms from its group of four registers (R200). -/
def regionArg (s : State) (op : CoreOp) : BitVec 128 :=
  let r := fld op.word 24 20
  let v := fun (k : Nat) => (sregAt s op.core (r + k) (opClk s op)).toNat
  BitVec.ofNat 128 (v 0 + v 1 <<< 32 + v 2 <<< 64 + v 3 <<< 96)

/-- REGION.SET (R151, R152, R200). -/
def execRegionSet (op : CoreOp) (s : State) : Out :=
  let n := fld op.word 19 12
  let r := fld op.word 24 20
  let t := opClk s op
  coreOp s op
    ([encodingUnless (zeros op.word 63 25 && decide (r % 4 = 0) && regionLegal (regionArg s op))] ++
      (List.range 4).map (fun k => latS s op.core (r + k) t) ++
      [stateUnless (rState (regionOf s op.core n) == 0) n])
    (setRegion s op.core n t (regionLoaded (regionArg s op)))

/-- REGION.REOPEN (R151, R152): a ready region with no issued consumer. -/
def execRegionReopen (op : CoreOp) (s : State) : Out :=
  let n := fld op.word 19 12
  let d := regionOf s op.core n
  coreOp s op
    [encodingUnless (zeros op.word 63 28), stateUnless (rState d == 2 && rCtodo d == rCcount d) n]
    (setRegion s op.core n (opClk s op) (regionReopened d (fld op.word 27 20)))

/-- REGION.STATUS (R201): descriptor bits [95:64] and [103:96] as they stood before the issue clk. -/
def execRegionStatus (op : CoreOp) (s : State) : Out :=
  let sd := fld op.word 24 20
  let d := regionAt s op.core (fld op.word 19 12) (opClk s op)
  coreOp s op [encodingUnless (zeros op.word 63 25 && decide (sd % 2 = 0))]
    (pushResult s op 2 (.scalar sd [BitVec.ofNat 32 (fld d 95 64), BitVec.ofNat 32 (fld d 103 96)]) false false)

/-! ### NET.SEND (R206) -/

/-- Byte offsets in the run of a linear region of the 64-byte words that hold its first n elements, and then, for MX,
of the scale-plane words of the blocks sent. -/
def linearWords (d : BitVec 128) (n : Nat) : List Nat :=
  let fmt := rFmt d
  if n = 0 then []
  else if fmt = 10 ∧ rSpace d = 1 then (List.range (8 * ceilDiv n 64)).map (64 * ·)
  else
    let plane := (List.range (ceilDiv ((n * fmtBits fmt + 7) / 8) 64)).map (64 * ·)
    if isMX fmt then
      let base := ceilDiv ((rBound d * fmtBits fmt + 7) / 8) 64 * 64
      plane ++ (List.range (ceilDiv (ceilDiv n 32) 64)).map fun w => base + 64 * w
    else plane

/-- The byte addresses within their store of the words a copy of n elements moves, in the order of R206. -/
def copyWords (d : BitVec 128) (n : Nat) : List Nat :=
  let fmt := rFmt d
  if rLayout d = 1 then
    (List.range (n / 4096)).flatMap fun t =>
      ((List.range 64).flatMap fun i => (List.range (rowWords fmt)).map fun k => blockWord d t i k) ++
        (if isMX fmt then [scaleWord d t 0, scaleWord d t 1] else [])
  else (linearWords d n).map fun o => (if rSpace d = 1 then 256 else 64) * rBase d + o

/-- The half of the compute die a logical core lies on (R171). -/
def eastHalf (s : State) (core : Nat) : Bool := match s.seq.job with
  | some j => j.halves.getLsbD core
  | none => false

/-- The words a NET.SEND moves: their byte addresses in the sender's and in the receiver's store. The receiver's region is as
it stood before the clk (R152). -/
def netPairs (s : State) (op : CoreOp) : List (Nat × Nat) :=
  let w := op.word
  (copyWords (regionOf s op.core (fld w 23 16)) (fld w 47 32)).zip
    (copyWords (regionAt s (fld w 15 12) (fld w 31 24) (opClk s op)) (fld w 47 32))

/-- H of a NET.SEND. -/
def netLatency (s : State) (op : CoreOp) : Nat :=
  if eastHalf s op.core = eastHalf s (fld op.word 15 12) then 10 else 15

/-- The port claims of a NET.SEND: word w is read in clk c + 1 + w and written in clk c + 1 + w + H. -/
def netClaims (s : State) (op : CoreOp) : List (Nat × Nat) :=
  let space := rSpace (regionOf s op.core (fld op.word 23 16))
  ((netPairs s op).zipIdx).flatMap fun p =>
    [claim op.core (opClk s op + 1 + p.2) space false (storeBank space p.1.1),
      claim (fld op.word 15 12) (opClk s op + 1 + p.2 + netLatency s op) space true (storeBank space p.1.2)]

/-- The copy a NET.SEND starts. -/
def netCopyOf (s : State) (op : CoreOp) : NetCopy :=
  { src := op.core, dst := fld op.word 15 12, region := fld op.word 31 24,
    space := rSpace (regionOf s op.core (fld op.word 23 16)), issue := opClk s op, delay := netLatency s op,
    pairs := netPairs s op, sent := 0 }

/-- The receive windows of two copies to one core overlap; a copy of no word has none. -/
def netOverlap (x y : NetCopy) : Bool :=
  x.dst == y.dst && decide (0 < x.pairs.length) && decide (0 < y.pairs.length) &&
    decide (netClk x 0 < netClk y y.pairs.length) && decide (netClk y 0 < netClk x x.pairs.length)

/-- The receiver's region as a NET.SEND finds it: as it stood before the clk, changed by the sender's own copies of that clk
(R152). -/
def netTarget (s : State) (op : CoreOp) : BitVec 128 :=
  let dst := fld op.word 15 12
  let m := fld op.word 31 24
  (s.cu.nets.filter fun x => x.src == op.core.val && x.issue == opClk s op && x.dst == dst && x.region == m).foldl
    (fun d _ => producerIssued d) (regionAt s dst m (opClk s op))

/-- The checks of NET.SEND in the order of R177. -/
def netChecks (s : State) (op : CoreOp) : List (Option Flt) :=
  let w := op.word
  let n := fld w 23 16
  let m := fld w 31 24
  let count := fld w 47 32
  let d := regionOf s op.core n
  let e := netTarget s op
  [encodingUnless (zeros w 63 48 && rSpace d == rSpace e && rLayout d == rLayout e && rFmt d == rFmt e &&
      (rLayout d == 1 || rStride d == rStride e) && (rLayout d == 0 || count % 4096 == 0) &&
      decide (fld w 15 12 < jobCores s) && fld w 15 12 != op.core.val),
    stateUnless (canConsume d) n, stateUnless (canProduce e) m, boundUnless (decide (count ≤ rBound d)) n,
    boundUnless (decide (count ≤ rBound e)) m,
    if s.cu.nets.any (netOverlap (netCopyOf s op)) then some { code := 4 } else none, portClash s op (netClaims s op)]

/-- NET.SEND (R206): its words move in their clks; without a word it completes at issue. `ecc` is what its reads at the sender
show (R115). -/
def execNetSend (op : CoreOp) (ecc : Ecc) (s : State) : Out :=
  let w := op.word
  let t := opClk s op
  let x := netCopyOf s op
  let last := t + x.pairs.length
  let s1 := takeProducer (takeConsumer s op.core (fld w 23 16) t last) x.dst x.region t
    (if x.pairs.isEmpty then t else last + x.delay)
  let s2 := { s1 with cu := { s1.cu with nets := s1.cu.nets ++ [x] } }
  coreOp s op (netChecks s op) (sramError (takePorts s2 op (netClaims s op)) op.core ecc)

/-! ### Results of short operations -/

/-- SHORT_RESULT_WRITE: the earliest-due result of a core lands, once its clk is reached (R146, R147). -/
def execShortResultWrite (core : Fin 16) (s : State) : Out :=
  match s.cu.inflight.find? (fun x => x.core == core.val) with
  | none => .next s
  | some x =>
    if x.due < clkEnd s then
      let s1 := landNets s x.due
      .next (finishOp (landResult { s1 with cu := { s1.cu with inflight := s1.cu.inflight.erase x } } x)
        x.core x.slot x.issue x.due)
    else .next s

end Sys2Proof.Machine
end

