-- ==== Sys2Proof/Machine/Flow.lean ====
section
/-! DEFINITION. The path of issue (R161 to R165): loops, redirections, the loop buffer. -/

namespace Sys2Proof.Machine

/-- What issues after bundle x with the given active loops, innermost first, and the loops active then (R161, R163):
the next bundle, the next iteration, or what follows the end of every loop that exits. -/
def afterBundle : List Loop → Nat → Nat × List Loop
  | [], x => (x + 1, [])
  | l :: rest, x =>
    if x = l.last then
      if l.brk ∨ l.left ≤ 1 then afterBundle rest x else (l.first, { l with left := l.left - 1 } :: rest)
    else (x + 1, l :: rest)

/-- The bundle due next and the loops active with it. -/
def nextFlow (s : State) : Nat × List Loop :=
  match s.seq.redirect with
  | some t => (t, s.seq.loops)
  | none => match s.seq.current with
    | some k => afterBundle s.seq.loops k
    | none => (0, s.seq.loops)

/-- The loop buffer after the active loops change: released when its loop has exited; a free buffer is claimed by the
outermost active loop whose body fits, when a loop is entered (R160). -/
def bufferFor (loops : List Loop) (entered : Bool) (buf : Option (Nat × Nat)) : Option (Nat × Nat) :=
  let kept := buf.filter fun b => loops.any fun l => l.first == b.1 && l.last == b.2
  if entered ∧ kept.isNone then
    (loops.reverse.find? fun l => decide (l.last + 1 - l.first ≤ 4096)).map fun l => (l.first, l.last)
  else kept

/-- The active loops change; a buffer released or claimed anew holds no whole body yet, a kept one does once the first
iteration of its loop is over (R160). -/
def setLoops (s : State) (loops : List Loop) (entered : Bool) : State :=
  let buf := bufferFor loops entered s.seq.loopBuf
  { s with seq := { s.seq with loops := loops, loopBuf := buf, bufFull :=
      buf == s.seq.loopBuf && (s.seq.bufFull || loops.any fun l => decide (l.left < l.count) && buf == some (l.first, l.last)) } }

/-- Bundle k issues: the loop buffer holds its body once the last bundle of the first iteration has issued (R160). -/
def fillBuffer (s : State) (k : Nat) : State :=
  { s with seq := { s.seq with bufFull := s.seq.bufFull || s.seq.loopBuf.any fun b => b.2 == k } }

/-- The whole body that holds bundle k is in the loop buffer. -/
def inBuffer (s : State) (k : Nat) : Bool :=
  s.seq.bufFull && s.seq.loopBuf.any fun b => decide (b.1 ≤ k) && decide (k ≤ b.2)

/-- The loops active once bundle k has issued, a LOOP in it entered with the count its register holds now, and the bundle after
which the path goes on: the end of the body where that count is zero (R161). -/
def predictLoop (s : State) (k : Nat) (loops : List Loop) : Nat × List Loop :=
  match ((List.range 8).map (chipWord s k)).find? fun w => fld w 7 0 == 1 with
  | none => (k, loops)
  | some w =>
    let count := (s.seq.qreg.get (fld w 12 8)).toNat
    let l : Loop := { first := k + 1, last := k + fld w 37 13, count := count, left := count, brk := false }
    if count = 0 then (l.last, loops) else (k, l :: loops)

/-- The next n bundles of the predicted path after bundle x (R159): it follows loops and no branch. -/
def predictPath (s : State) : Nat → Nat → List Loop → List Nat
  | 0, _, _ => []
  | n + 1, x, loops =>
    let f := afterBundle loops x
    if bundleCount s ≤ f.1 then []
    else
      let g := predictLoop s f.1 f.2
      f.1 :: predictPath s n g.1 g.2

/-- The bundles of the run-ahead beyond the current one, at most 512 (R159). -/
def runAhead (s : State) : List Nat := predictPath s (min s.seq.ahead 512) (s.seq.current.getD 0) s.seq.loops

/-- A redirection of issue to bundle t, which may be in the run-ahead (R165). -/
def redirectTo (s : State) (t : Nat) : State :=
  { s with seq := { s.seq with redirect := some t, fetched := (runAhead s).contains t } }

/-- The bundle due, k, needs no fetch: it is in the loop buffer, or in the run-ahead (R160, R165). -/
def inRunAhead (s : State) (k : Nat) : Bool :=
  inBuffer s k || (match s.seq.redirect with
    | some _ => s.seq.fetched
    | none => s.seq.current.isSome && decide (0 < s.seq.ahead))

end Sys2Proof.Machine
end

