-- ==== Sys2Proof/Machine/Streams.lean ====
section
/-! DEFINITION. The stream engines (R202, R203, R231 to R242): the walk, the place of an element in memory and in its
region, the operations, and what moves with a sector. -/

namespace Sys2Proof.Machine

/-! ### Elements in regions (R234, R486) -/

/-- Read one byte of a core's store: 0 the tile store, 1 the accumulator buffer. -/
def storeByte (s : State) (core space a : Nat) : Byte :=
  let t := clkEnd s
  if space = 1 then BitVec.ofNat 8 ((accAt s core t (a / 4)).toNat >>> (8 * (a % 4)))
  else tileAt s core t a

/-- Write one byte of a core's store. -/
def putStoreByte (s : State) (core space a : Nat) (b : Byte) : State :=
  let t := clkEnd s - 1
  if space = 1 then
    let w := accAt s core (clkEnd s) (a / 4)
    writeAcc s core t (a / 4) [putFld w (8 * (a % 4) + 7) (8 * (a % 4)) b.toNat]
  else writeTile s core t a [b]

/-- Byte address in its store of byte o of a linear region's run. -/
def runByte (d : BitVec 128) (o : Nat) : Nat := (if rSpace d = 1 then 256 else 64) * rBase d + o

/-- The linear index of element k with rows of E0 elements (R234). -/
def linearIndex (d : BitVec 128) (e0 k : Nat) : Nat :=
  if rStride d = 0 then k else k / e0 * rStride d + k % e0

/-- Row and column of element k in its tile block (R234). -/
def blockPlace (d : BitVec 128) (k : Nat) : Nat × Nat :=
  let a := k % 4096 / 64
  let b := k % 64
  if isMX (rFmt d) ∧ rAxis d = 1 then (b, a) else (a, b)

/-- The bytes of element k in its store: the address of the first, the bit offset within it, and the width in bits. An
ACC48 element of the accumulator buffer is two pieces. -/
def elementPieces (d : BitVec 128) (e0 k : Nat) : List (Nat × Nat × Nat) :=
  let w := fmtBits (rFmt d)
  if rLayout d = 1 then
    let rc := blockPlace d k
    let e := wordElems (rFmt d)
    let o := w * (rc.2 % e)
    [(blockWord d (k / 4096) rc.1 (rc.2 / e) + o / 8, o % 8, w)]
  else
    let p := linearIndex d e0 k
    if rFmt d = 10 ∧ rSpace d = 1 then
      let r := rBase d + 2 * (p / 64)
      [(256 * r + 4 * (p % 64), 0, 32), (256 * (r + 1) + 2 * (p % 64), 0, 16)]
    else [(runByte d (p * w / 8), p * w % 8, w)]

/-- Read w bits at a bit offset of a byte string. -/
def bitsAt (get : Nat → Byte) (a o w : Nat) : Nat :=
  leNat ((List.range ((o + w + 7) / 8)).map fun i => get (a + i)) >>> o % 2 ^ w

/-- The bytes that hold w bits v at a bit offset, over what is there. -/
def bitsInto (get : Nat → Byte) (a o w v : Nat) : List Byte :=
  let n := (o + w + 7) / 8
  let old := leNat ((List.range n).map fun i => get (a + i))
  leBytes n (old - (old >>> o % 2 ^ w) <<< o + (v % 2 ^ w) <<< o)

/-- The bits of element k of a region. -/
def regionBits (s : State) (core : Nat) (d : BitVec 128) (e0 k : Nat) : Nat :=
  ((elementPieces d e0 k).foldl (fun (acc : Nat × Nat) p =>
    (acc.1 + bitsAt (storeByte s core (rSpace d)) p.1 p.2.1 p.2.2 <<< acc.2, acc.2 + p.2.2)) (0, 0)).1

/-- Write bytes of a store at an address. -/
def putStore (s : State) (core space a : Nat) (bs : List Byte) : State :=
  (bs.zipIdx).foldl (fun s x => putStoreByte s core space (a + x.2) x.1) s

/-- The unused bytes of the tile-block word that holds element k: the first and how many (R108). -/
def unusedBytes (d : BitVec 128) (k : Nat) : Nat × Nat :=
  let rc := blockPlace d k
  let e := wordElems (rFmt d)
  let used := e * fmtBits (rFmt d) / 8
  (blockWord d (k / 4096) rc.1 (rc.2 / e) + used, 64 - used)

/-- Write the bits of element k of a region; the unused bytes of a tile block's word are written as zero (R108). -/
def putRegionBits (s : State) (core : Nat) (d : BitVec 128) (e0 k v : Nat) : State :=
  let s1 := ((elementPieces d e0 k).foldl (fun (acc : State × Nat) p =>
    (putStore acc.1 core (rSpace d) p.1 (bitsInto (storeByte acc.1 core (rSpace d)) p.1 p.2.1 p.2.2 (v >>> acc.2)),
      acc.2 + p.2.2)) (s, 0)).1
  if rLayout d = 1 then
    let u := unusedBytes d k
    if (List.range u.2).all fun i => storeByte s1 core 0 (u.1 + i) == 0 then s1
    else putStore s1 core 0 u.1 (List.replicate u.2 0)
  else s1

/-- Byte address in the store of the scale byte of the block whose first element is element k (R109, R234, R486). -/
def regionScale (d : BitVec 128) (e0 k : Nat) : Nat :=
  if rLayout d = 1 then
    let rc := blockPlace d k
    let line := if rAxis d = 0 then rc.1 else rc.2
    let along := if rAxis d = 0 then rc.2 else rc.1
    scaleWord d (k / 4096) (along / 32) + line
  else runByte d (ceilDiv ((rBound d * fmtBits (rFmt d) + 7) / 8) 64 * 64 + linearIndex d e0 k / 32)

/-! ### Stream descriptors (R231 to R233) -/

/-- BASE. -/
def dBase (d : BitVec 256) : Nat := fld d 43 0
/-- MFMT. -/
def dFmt (d : BitVec 256) : Nat := fld d 47 44
/-- SCALE. -/
def dScale (d : BitVec 256) : Nat := fld d 51 48
/-- SAT. -/
def dSat (d : BitVec 256) : Bool := flag d 62
/-- DEPEND. -/
def dDepend (d : BitVec 256) : Bool := flag d 63
/-- Extent of dimension i. -/
def dExtent (d : BitVec 256) (i : Nat) : Nat := fld d (79 + 16 * i) (64 + 16 * i)
/-- S0, in elements. -/
def dStride0 (d : BitVec 256) : Int := (BitVec.ofNat 16 (fld d 143 128)).toInt
/-- S1, S2, S3, in bytes. -/
def dStride (d : BitVec 256) (i : Nat) : Int := (BitVec.ofNat 32 (fld d (143 + 32 * i) (112 + 32 * i))).toInt
/-- SOFF. -/
def dSoff (d : BitVec 256) : Nat := fld d 255 240

/-- Elements of the walk. -/
def walkSize (d : BitVec 256) : Nat := dExtent d 0 * dExtent d 1 * dExtent d 2 * dExtent d 3

/-- The offset from BASE of the row of element e, without dimension 0 (R232). -/
def walkRow (d : BitVec 256) (e : Nat) : Int :=
  let r := e / dExtent d 0
  (r % dExtent d 1 : Nat) * dStride d 1 + (r / dExtent d 1 % dExtent d 2 : Nat) * dStride d 2 +
    (r / (dExtent d 1 * dExtent d 2) : Nat) * dStride d 3

/-- The address of the first byte of element e and the bit offset in it (R41, R232). -/
def walkAddr (d : BitVec 256) (e : Nat) : Int × Nat :=
  let w := fmtBits (dFmt d)
  let i0 := e % dExtent d 0
  if isMX (dFmt d) then (dBase d + (i0 * w / 8 : Nat) + walkRow d e, i0 * w % 8)
  else (dBase d + (i0 : Nat) * dStride0 d * (w / 8 : Nat) + walkRow d e, 0)

/-- Bytes of an MX block. -/
def mxBlockBytes (fmt : Nat) : Nat := 4 * fmtBits fmt

/-- The address of the scale byte of the block whose first element is e (R233). -/
def walkScale (d : BitVec 256) (e : Nat) : Int :=
  dBase d + dSoff d * 1048576 + ((walkAddr d e).1 - dBase d) / (mxBlockBytes (dFmt d) : Int)

/-! ### The checks of FILL and SPILL (R235, R241) -/

/-- The pair of formats is in the table of R241: a fill widens and a spill narrows, along the same rows. -/
def conversionOk (mfmt rfmt : Nat) : Bool :=
  (mfmt == rfmt && decide (mfmt ≤ 10)) || (rfmt == 0 && (mfmt == 1 || mfmt == 2)) ||
    (decide (rfmt ≤ 1) && decide (3 ≤ mfmt) && decide (mfmt ≤ 9))

/-- The rules of MX walks (R232, R233). -/
def mxWalkOk (d : BitVec 256) (rfmt cursor count : Nat) : Bool :=
  let b : Int := mxBlockBytes (dFmt d)
  (!isMX (dFmt d) || (dStride0 d == 1 && decide (dExtent d 0 % 32 = 0) && dStride d 1 % b == 0 && dStride d 2 % b == 0 &&
    dStride d 3 % b == 0)) &&
  (!(isMX (dFmt d) || isMX rfmt) || (decide (cursor % 32 = 0) && decide (count % 32 = 0)))

/-- A span of bytes lies in HBM, outside pool spans, and outside the classes shut to the operation (R235, R273). -/
def spanOk (s : State) (a : Int) (n : Nat) (shut : List Nat) : Bool :=
  decide (0 ≤ a) && decide (a.toNat + n ≤ hbmLimit) &&
    [a.toNat, a.toNat + n - 1].all fun x => !shut.contains (classOf s x) && (poolOf s x).isNone

/-- Every element of a walk from the cursor on, and its scale bytes, may be touched. -/
def walkOk (s : State) (d : BitVec 256) (cursor count : Nat) (shut : List Nat) : Bool :=
  decide (cursor + count ≤ walkSize d) &&
    (List.range count).all fun k =>
      let a := walkAddr d (cursor + k)
      spanOk s a.1 ((a.2 + fmtBits (dFmt d) + 7) / 8) shut &&
        (!(isMX (dFmt d) && decide (k % 32 = 0)) || spanOk s (walkScale d (cursor + k)) 1 shut)

/-- The last place taken in the region lies within its BOUND (R155, R234). -/
def placementOk (d : BitVec 128) (e0 count : Nat) : Bool :=
  decide (count ≤ rBound d) &&
    (rLayout d == 1 || rStride d == 0 || (List.range count).all fun k => decide (linearIndex d e0 k < rBound d))

/-- A stream engine's descriptor, cursor and mark of R237 as an operation in clk t finds them: those kept where a load of the
same clk has yet to take effect (R202). -/
def streamNow (s : State) (core e t : Nat) : BitVec 256 × BitVec 64 × Bool :=
  let k := core * 16 + e
  match s.cu.streamLog.find? (fun x => x.1 == k && decide (t ≤ x.2.2)) with
  | some x => x.2.1
  | none => (s.cu.stream.get k, s.cu.cursor.get k, s.cu.fresh.get k == 1)

/-- A capture of n elements in clk t advances the engine's cursor and, with any element, takes the mark (R232, R237). -/
def captureStream (s : State) (core e t n : Nat) : State :=
  let k := core * 16 + e
  let adv := fun (v : BitVec 256 × BitVec 64 × Bool) =>
    (v.1, v.2.1 + BitVec.ofNat 64 n, v.2.2 && decide (n = 0))
  if s.cu.streamLog.any fun x => x.1 == k && decide (t ≤ x.2.2) then
    { s with cu := { s.cu with streamLog := s.cu.streamLog.map fun x => if x.1 = k then (k, adv x.2.1, x.2.2) else x } }
  else
    let v := adv (streamNow s core e t)
    { s with cu := { s.cu with cursor := s.cu.cursor.set k v.2.1, fresh := s.cu.fresh.set k (if v.2.2 then 1 else 0) } }

/-- The elements a FILL or SPILL moves. -/
def streamCount (s : State) (op : CoreOp) : Nat := (sregAt s op.core (fld op.word 28 24) (opClk s op)).toNat

/-- The checks of FILL and SPILL in the order of R177 (R48, R202, R203, R235). -/
def streamChecks (s : State) (op : CoreOp) (spill : Bool) : List (Option Flt) :=
  let w := op.word
  let t := opClk s op
  let e := fld w 15 12
  let n := fld w 23 16
  let r := regionOf s op.core n
  let now := streamNow s op.core e t
  let d := now.1
  let cursor := now.2.1.toNat
  let count := streamCount s op
  let scale := dScale d
  let fp8 := if isScaled (dFmt d) then dFmt d else rFmt r
  let dst := if spill then dFmt d else rFmt r
  let enc := zeros w 63 (if spill then 30 else 29) && fld d 61 60 == 0 && decide (fld d 53 52 ≤ 1) &&
    conversionOk (dFmt d) (rFmt r) && mxWalkOk d (rFmt r) cursor count &&
    (scale == 0 || ((isScaled (dFmt d) || isScaled (rFmt r)) && slotOk s op.core scale fp8)) &&
    (!dSat d || dst == 3 || dst == 5) &&
    (!(spill && flag w 29) || (decide (rFmt r ≤ 1) && decide (dFmt d ≤ 1)))
  let busy := decide (256 ≤ (s.cu.captured.filter fun c => c.core == op.core.val && c.engine == e && !c.freed).length)
  [encodingUnless enc, latS s op.core (fld w 28 24) t, stateUnless (if spill then canConsume r else canProduce r) n,
    boundUnless (walkOk s d cursor count (if spill then [1, 2, 3] else [3]) && placementOk r (max 1 (dExtent d 0)) count) n,
    if busy then some { code := 4 } else none]

/-- The operation a FILL or SPILL has its engine capture (R202). -/
def capturedOf (s : State) (op : CoreOp) (spill : Bool) : Captured :=
  let w := op.word
  let now := streamNow s op.core (fld w 15 12) (opClk s op)
  { core := op.core, engine := fld w 15 12, slot := op.slot, bundle := bundleNow s, issue := opClk s op, spill := spill,
    add := spill && flag w 29, desc := now.1, regDesc := regionOf s op.core (fld w 23 16), region := fld w 23 16,
    count := streamCount s op, start := now.2.1.toNat, fresh := now.2.2, moved := [], asked := [], part := []
    freed := false }

/-- FILL and SPILL (R202, R203): one of no element completes at issue. -/
def streamMove (op : CoreOp) (spill : Bool) (s : State) : Out :=
  let t := opClk s op
  let c := capturedOf s op spill
  let s1 := if spill then takeElasticConsumer s op.core c.region t else takeElasticProducer s op.core c.region t
  let s2 := if c.count = 0 then
      setRegion s1 op.core c.region t ((if spill then consumerDone else producerDone) (regionOf s1 op.core c.region))
    else { s1 with cu := { s1.cu with captured := s1.cu.captured ++ [c] } }
  coreOp s op (streamChecks s op spill) (elasticIssue s (captureStream s2 op.core c.engine t c.count))

/-- STREAM.FILL. -/
def execStreamFill (op : CoreOp) (s : State) : Out := streamMove op false s

/-- STREAM.SPILL. -/
def execStreamSpill (op : CoreOp) (s : State) : Out := streamMove op true s

/-- Load a stream engine's descriptor at the end of clk t, its cursor at 0 (R202, R232); what was there is kept for
operations of the same clk. -/
def loadStream (s : State) (core e t : Nat) (d : BitVec 256) : State :=
  let k := core * 16 + e
  let old := streamNow s core e t
  { s with cu := { s.cu with
      stream := s.cu.stream.set k d
      cursor := s.cu.cursor.set k 0
      fresh := s.cu.fresh.set k 1
      streamLog := (s.cu.streamLog.filter fun x => decide (t ≤ x.2.2)) ++ [(k, old, t)] } }

/-- STREAM.ARM (R202): BASE from a pair of scalar registers. -/
def execStreamArm (op : CoreOp) (s : State) : Out :=
  let w := op.word
  let t := opClk s op
  let r := fld w 20 16
  let lo := sregAt s op.core r t
  let hi := sregAt s op.core (r + 1) t
  let e := fld w 15 12
  let d := s.cu.stream.get (op.core.val * 16 + e)
  coreOp s op
    [encodingUnless (zeros w 63 21 && decide (r % 2 = 0) && zeros hi 31 12), latS s op.core r t, latS s op.core (r + 1) t]
    (loadStream s op.core e t (putFld d 43 0 (lo.toNat + fld hi 11 0 <<< 32)))

/-- STREAM.LOAD (R202): lanes 0 to 7 of v_VA. -/
def execStreamLoad (op : CoreOp) (s : State) : Out :=
  let w := op.word
  let t := opClk s op
  let va := fld w 21 16
  let d := (List.range 8).foldl (fun v i => v + (vlaneAt s op.core va t i).toNat <<< (32 * i)) 0
  coreOp s op [encodingUnless (zeros w 63 22), latV s op.core va t]
    (loadStream s op.core (fld w 15 12) t (BitVec.ofNat 256 d))

/-! ### Movement (R236 to R242) -/

/-- Some write or accumulate of an earlier operation of c's engine, or of any engine of its core, still holds a tag. -/
def writesOpen (s : State) (c : Captured) (all : Bool) : Bool :=
  s.mem.tags.any fun t => t.kind != .read &&
    (decide (t.issue < c.issue) || decide (t.issue = c.issue) && decide (t.slot < c.slot)) && (match t.who with
    | .stream n e => n.val == c.core && (all || e.val == c.engine)
    | _ => false)

/-- A captured operation has started, or may start, given those captured before it (R236, R237). -/
def mayStart (s : State) (before : List Captured) (c : Captured) : Bool :=
  !(c.moved.isEmpty && c.asked.isEmpty && c.part.isEmpty) ||
  (!c.fresh || (before.all fun b => !(b.core == c.core && b.engine == c.engine)) &&
    !writesOpen s c false) &&
  (!dDepend c.desc || (before.all fun b => b.core != c.core) && !writesOpen s c true)

/-- The captured operations of an engine that have started: those up to the first that may not. -/
def startedOps (s : State) (core engine : Nat) : List Captured → List Captured → List Captured
  | _, [] => []
  | before, c :: rest =>
    if c.core = core ∧ c.engine = engine then
      if mayStart s before c then c :: startedOps s core engine (before ++ [c]) rest else []
    else startedOps s core engine (before ++ [c]) rest

/-- Element k moves whole with its MX block. -/
def byBlock (c : Captured) : Bool := isMX (dFmt c.desc) || isMX (rFmt c.regDesc)

/-- The units of an operation that have not moved, elements or blocks named by their first element, those below a limit. -/
def unitsLeft (c : Captured) (limit : Nat) : List Nat :=
  (List.range limit).filter fun k => !(byBlock c && decide (k % 32 ≠ 0)) && !c.moved.contains k

/-- Elements of an operation that fixed run-ahead admits: the window of AHEAD + 1 tiles begins at the first element in flight of
the engine's oldest incomplete operation, at `from'` of the elements that are incomplete, of which `gone` come before this
operation's (R236; DEDUCED 54). -/
def aheadLimit (c : Captured) (from' gone : Nat) : Nat :=
  if fld c.desc 53 52 = 1 then min c.count (from' + 4096 * (fld c.desc 59 54 + 1) - gone) else c.count

/-- The bytes in memory of a unit: of its element or its block, and then of the block's scale. -/
def unitAddrs (c : Captured) (k : Nat) : List Nat :=
  let a := (walkAddr c.desc (c.start + k)).1.toNat
  if isMX (dFmt c.desc) then
    (List.range (mxBlockBytes (dFmt c.desc))).map (a + ·) ++ [(walkScale c.desc (c.start + k)).toNat]
  else (List.range (fmtBits (dFmt c.desc) / 8)).map (a + ·)

/-- A memory operation selects a byte (R217). -/
def picked (sector : Nat) (mask : BitVec 512) (a : Nat) : Bool := a / 512 == sector && mask.getLsbD (a % 512)

/-- A captured operation has units in a sector that have not moved. -/
def leftIn (c : Captured) (sector : Nat) : Bool :=
  (unitsLeft c c.count).any fun k => (unitAddrs c k).any fun a => a / 512 == sector

/-- The units of an operation that a memory operation touches: those it completes, with what came for them before, and those
it does not. -/
def sectorUnits (c : Captured) (limit sector : Nat) (mask : BitVec 512) : List Nat × List Nat :=
  ((unitsLeft c limit).filter fun k =>
    !(c.asked.any fun x => x.1 == k) && (unitAddrs c k).any (picked sector mask)).partition fun k =>
      (unitAddrs c k).all fun a => picked sector mask a || c.part.any fun x => x.1 == a

/-- What the units a memory operation leaves incomplete keep of it: the bytes it selects, as they are in memory. -/
def keepPart (s : State) (c : Captured) (sector : Nat) (mask : BitVec 512) (ks : List Nat) : List (Nat × Byte) :=
  c.part ++ ks.flatMap fun k => ((unitAddrs c k).filter fun a =>
    picked sector mask a && !c.part.any fun x => x.1 == a).map fun a => (a, memByte s a)

/-- A byte of a fill as it came: with this memory operation, or with one before. -/
def partByte (s : State) (c : Captured) (sector : Nat) (mask : BitVec 512) (a : Nat) : Byte :=
  match c.part.find? (fun x => x.1 == a && !picked sector mask a) with
  | some x => x.2
  | none => memByte s a

/-- The bits of element k in memory. -/
def memBits (c : Captured) (get : Nat → Byte) (k : Nat) : Nat :=
  let a := walkAddr c.desc (c.start + k)
  bitsAt get a.1.toNat a.2 (fmtBits (dFmt c.desc))

/-- Write element k's bits to memory. -/
def putMemBits (s : State) (c : Captured) (k v : Nat) : State :=
  let a := walkAddr c.desc (c.start + k)
  writeMem s a.1.toNat (bitsInto (memByte s) a.1.toNat a.2 (fmtBits (dFmt c.desc)) v)

/-- The MX scale byte of a block in memory. -/
def memScale (c : Captured) (get : Nat → Byte) (k : Nat) : Nat := (get (walkScale c.desc (c.start + k)).toNat).toNat

/-- The elements that move with element k: itself, or its whole block. -/
def movedWith (c : Captured) (k : Nat) : List Nat := if byBlock c then (List.range 32).map (k + ·) else [k]

/-- One element, or block, of a FILL (R241). -/
def fillElem (c : Captured) (get : Nat → Byte) (s : State) (k : Nat) : State :=
  let d := c.regDesc
  let e0 := dExtent c.desc 0
  let mfmt := dFmt c.desc
  if mfmt = rFmt d then
    let s1 := (movedWith c k).foldl (fun s i => putRegionBits s c.core d e0 i (memBits c get i)) s
    if isMX mfmt then putStore s1 c.core (rSpace d) (regionScale d e0 k) [BitVec.ofNat 8 (memScale c get k)] else s1
  else
    let kx := -slotK s c.core (dScale c.desc)
    (movedWith c k).foldl (fun s i =>
      let x := elementNum mfmt (memBits c get i) (if isMX mfmt then memScale c get k else 0)
      let r := convertTo (rFmt d) .rne false false kx x
      setFlags (putRegionBits s c.core d e0 i r.bits) c.core r.nonfin r.clamped) s

/-- What a SPILL without ADD writes for one element, or block, in the order of `unitAddrs`, its flags, and the magnitude that
enters PENDING (R241). -/
def spillUnit (s : State) (c : Captured) (k : Nat) : List Byte × Bool × Bool × Nat :=
  let d := c.regDesc
  let e0 := dExtent c.desc 0
  let mfmt := dFmt c.desc
  let w := fmtBits mfmt
  let bits := regionBits s c.core d e0
  if isMX mfmt then
    if mfmt = rFmt d then
      (packBits w ((movedWith c k).map bits) (mxBlockBytes mfmt) ++ [storeByte s c.core (rSpace d) (regionScale d e0 k)],
        false, false, 0)
    else
      let b := convertBlock mfmt (fun _ => .rne) (isP1 s) ((movedWith c k).map fun i => elementNum (rFmt d) (bits i) 0)
      (packBits w b.bits (mxBlockBytes mfmt) ++ [BitVec.ofNat 8 b.scale], b.nonfin, b.satf, 0)
  else if mfmt = rFmt d then (leBytes (w / 8) (bits k), false, false, 0)
  else
    let x := elementNum (rFmt d) (bits k) 0
    let r := convertTo mfmt .rne (dSat c.desc) (isP1 s) (slotK s c.core (dScale c.desc)) x
    (leBytes (w / 8) r.bits, r.nonfin, r.clamped, if isScaled mfmt then pendingMag x else 0)

/-- The selected bytes of a unit are written; with its last byte its flags are set (R58) and PENDING is raised (R190). -/
def spillElem (c : Captured) (sector : Nat) (mask : BitVec 512) (whole : Bool) (s : State) (k : Nat) : State :=
  let u := spillUnit s c k
  let s1 := ((unitAddrs c k).zip u.1).foldl (fun s x => if picked sector mask x.1 then writeMem s x.1 [x.2] else s) s
  if whole then
    let s2 := if isScaled (dFmt c.desc) ∧ dFmt c.desc ≠ rFmt c.regDesc then
        raisePending s1 c.core (dScale c.desc) u.2.2.2 else s1
    setFlags s2 c.core u.2.1 u.2.2.1
  else s1

/-- One element sent to the bank die to accumulate: its bits in the region's format (R242). -/
def askElem (s : State) (c : Captured) (k : Nat) : Nat × Nat := (k, regionBits s c.core c.regDesc (dExtent c.desc 0) k)

/-- Replace a captured operation. -/
def updateCaptured (s : State) (old new : Captured) : State :=
  { s with cu := { s.cu with captured := s.cu.captured.map fun c => if c = old then new else c } }

/-- What a memory operation moves of one captured operation: bytes, and with its last byte the unit (R217). -/
def moveSector (kind : MemKind) (sector : Nat) (mask : BitVec 512) (limit : Nat) (s0 : State) (c : Captured) : State :=
  let us := sectorUnits c limit sector mask
  let s := withStores (landNets s0 (clkEnd s0)) c.core (clkEnd s0)
  if us.1.isEmpty ∧ us.2.isEmpty then s0
  else
    let c1 := { c with part := keepPart s c sector mask us.2 }
    match kind with
    | .read =>
      if c.spill then s0
      else updateCaptured (us.1.foldl (fillElem c (partByte s c sector mask)) s) c { c1 with moved := c.moved ++ us.1 }
    | .write =>
      if !c.spill ∨ c.add then s0
      else
        let s1 := us.2.foldl (spillElem c sector mask false) (us.1.foldl (spillElem c sector mask true) s)
        updateCaptured s1 c { c1 with moved := c.moved ++ us.1 }
    | .accumulate =>
      if !c.add then s0 else updateCaptured s c { c1 with asked := c.asked ++ us.1.map (askElem s c) }

/-- The elements of the oldest incomplete operation that lie before its first element in flight. -/
def windowStart (l : List Captured) : Nat :=
  match l with
  | c :: _ => (List.range c.count).find? (fun k => !c.moved.contains (if byBlock c then k / 32 * 32 else k)) |>.getD c.count
  | [] => 0

/-- A memory operation of a stream engine moves the elements of its sector (R217, R239): those of the first operation, in
capture order, that has any left in the sector, once it has started and within its run-ahead. -/
def streamSector (s : State) (core engine : Nat) (kind : MemKind) (sector : Nat) (mask : BitVec 512) : State :=
  let ops := startedOps s core engine [] s.cu.captured
  match ops.findIdx? fun c => leftIn c sector with
  | none => s
  | some i =>
    match ops[i]? with
    | none => s
    | some c =>
      moveSector kind sector mask (aheadLimit c (windowStart ops) (((ops.take i).map (·.count)).sum)) s c

/-- A captured operation has left: all its elements moved and its region completed. -/
def capturedDone (c : Captured) : Bool :=
  c.freed && (List.range c.count).all fun k => c.moved.contains (if byBlock c then k / 32 * 32 else k)

/-- The region of a captured operation may complete: every element moved, or sent to accumulate. -/
def regionDrained (c : Captured) : Bool :=
  (List.range c.count).all fun k =>
    let b := if byBlock c then k / 32 * 32 else k
    c.moved.contains b || c.asked.any fun x => x.1 == b

/-- Captured operations that have left are forgotten. -/
def dropDone (s : State) : State :=
  { s with cu := { s.cu with captured := s.cu.captured.filter fun c => !capturedDone c } }

/-- No operation of the same engine captured before c has elements left in a sector (R239). -/
def firstIn (s : State) (c : Captured) (sector : Nat) : Bool :=
  (s.cu.captured.find? fun b => b.core == c.core && b.engine == c.engine && leftIn b sector) == some c

/-- ACCUMULATE_ON_WRITE (R242): the bank die adds one element it was sent to the stored value, rounding once to MFMT; a
non-finite result sets the die's flag (and no core's: DESIGN CHOICE 55). The oldest operation of the engine that sent this
element is served, once no earlier one has anything left in the sector (R239). -/
def execAccumulateOnWrite (core engine : Fin 16) (element : Nat) (s : State) : Out :=
  match s.cu.captured.find? (fun c => c.core == core.val && c.engine == engine.val &&
      c.asked.any (fun x => x.1 == element)) with
  | none => .next s
  | some c =>
    if (unitAddrs c element).all fun a => firstIn s c (a / 512) then
      let sent := ((c.asked.find? fun x => x.1 == element).map (·.2)).getD 0
      let x := Num.add (elementNum (dFmt c.desc) (memBits c (memByte s) element) 0) (elementNum (rFmt c.regDesc) sent 0)
      let r := convertTo (dFmt c.desc) .rne false false 0 x
      let die := dieOf s (walkAddr c.desc (c.start + element)).1.toNat
      let s1 := updateCaptured (putMemBits s c element r.bits) c
        { c with moved := c.moved ++ [element], asked := c.asked.filter fun x => x.1 != element }
      let s2 := if r.nonfin then { s1 with mem := { s1.mem with nonfin := putFlag s1.mem.nonfin die true } } else s1
      .next (dropDone s2)
    else .next s

end Sys2Proof.Machine
end

