-- ==== Sys2Proof/Machine/Vetch.lean ====
section
/-! DEFINITION. Vetch and its stash sets (R204, R247 to R252): placement at issue, pushes and pops, the movement of
their bytes. -/

namespace Sys2Proof.Machine

/-- The descriptor of a stash set (R247). -/
def setDesc (s : State) (n : Nat) : BitVec 256 := entryBits 256 (sectionEntry s 12 32 n)

/-- The job image declares the set. -/
def setDeclared (s : State) (n : Nat) : Bool := decide (n < sectionCount s 12 32)

/-- Bytes of c elements, with one scale byte per 32 elements for MX (R249). A last block that is not whole has none (DEDUCED
56). -/
def stashBytes (fmt c : Nat) : Nat := (c * fmtBits fmt + 7) / 8 + (if isMX fmt then c / 32 else 0)

/-- Granules that hold c elements. -/
def stashGranules (fmt c : Nat) : Nat := ceilDiv (stashBytes fmt c) 4096

/-- The entry of a set at an index. -/
def stashEntry (s : State) (set index : Nat) : Option StashEntry :=
  s.stash.entries.find? fun e => e.set == set && e.index == index

/-- Granules of a set's ring, or spill area, in use. -/
def usedGranules (es : List StashEntry) (set : Nat) (spilled : Bool) : List Nat :=
  (es.filter fun e => e.set == set && e.spilled == spilled).flatMap (·.granules)

/-- The lowest-numbered free granules. -/
def freeGranules (used : List Nat) (size need : Nat) : List Nat :=
  ((List.range (min size (used.length + need))).filter fun g => !used.contains g).take need

/-! ### The group of a bundle (R249) -/

/-- A push as the group decision sees it. -/
structure GroupPush where
  core   : Nat
  slot   : Nat
  count  : Nat
  index  : Nat
  fmt    : Nat
  early  : Option Nat
  legal  : Bool
  deriving DecidableEq, Repr

/-- Read a push's count and entry index as they stand in clk t, and what its ENCODING and BOUND checks say of them (R249). -/
def groupPush (s : State) (t core slot : Nat) (w : DWord) : GroupPush :=
  let r := regionOf s core (fld w 25 18)
  let count := (sregAt s core (fld w 35 31) t).toNat
  let index := (sregAt s core (fld w 30 26) t).toNat
  let early := match latS s core (fld w 30 26) t with
    | some f => some f
    | none => latS s core (fld w 35 31) t
  { core := core, slot := slot, count := count, index := index, fmt := rFmt r, early := early.map (·.info)
    legal := zeros w 63 36 && decide (index < fld (setDesc s (fld w 17 12)) 95 76) && decide (count ≤ rBound r) }

/-- The pushes to a set in the issuing bundle, by schedule clk, then logical core, then slot; the push at hand where the
bundle's words do not hold it. -/
def pushGroup (s : State) (op : CoreOp) : List GroupPush :=
  let t := opClk s op
  let set := fld op.word 17 12
  let isPush := fun (w : DWord) => fld w 4 3 == 3 && fld w 11 5 == 0x10 && fld w 17 12 == set
  let all := (List.range 8).flatMap fun clk => (List.range (jobCores s)).flatMap fun c => (List.range 4).filterMap fun n =>
    let w := coreWord s (bundleNow s) c n
    if isPush w ∧ fld w 2 0 = clk then some (groupPush s t c n w) else none
  if all.any fun g => g.core == op.core.val && g.slot == op.slot.val then all
  else [groupPush s t op.core op.slot op.word]

/-- Give each push of a group, in order, its granules: an entry of its index is freed first, one of the group's own too. None
where some push does not fit. -/
def placeGroup (size : Nat) : List (Nat × Nat) → List GroupPush → Option (List (GroupPush × List Nat))
  | _, [] => some []
  | used, g :: rest =>
    let live := used.filter fun u => u.1 != g.index
    let gs := freeGranules (live.map (·.2)) size (stashGranules g.fmt g.count)
    if gs.length < stashGranules g.fmt g.count then none
    else (placeGroup size (live ++ gs.map fun x => (g.index, x)) rest).map fun l => (g, gs) :: l

/-- The granules of a set's ring, or spill area, in use, with the index of their entry. -/
def indexedGranules (es : List StashEntry) (set : Nat) (spilled : Bool) : List (Nat × Nat) :=
  (es.filter fun e => e.set == set && e.spilled == spilled).flatMap fun e => e.granules.map fun g => (e.index, g)

/-- The spill area on the Twin may be used: the Twin port is UP, and the set's area lies in the spill pages that the
Twin reserves (R248, R252). -/
def spillOpen (s : State) (d : BitVec 256) : Bool :=
  !twinDown s && (match s.stash.area with
    | some (first, pages) =>
      decide (2097152 * first ≤ fld d 139 96) && decide (fld d 139 96 + 4096 * fld d 167 140 ≤ 2097152 * (first + pages))
    | none => false)

/-- The outcome of a group and its granules: placed whole, or the set's policy whole (R249, R252). -/
def groupOutcome (s : State) (set : Nat) (gs : List GroupPush) : Nat × List (GroupPush × List Nat) :=
  let d := setDesc s set
  let es := s.stash.entries.filter fun e => !(e.set == set && gs.any fun g => g.index == e.index)
  let bare := gs.map fun g => (g, ([] : List Nat))
  match placeGroup (fld d 75 48) (indexedGranules es set false) gs with
  | some l => (0, l)
  | none =>
    if fld d 45 44 = 1 then (2, bare)
    else if fld d 45 44 = 0 ∧ spillOpen s d then
      match placeGroup (fld d 167 140) (indexedGranules es set true) gs with
      | some l => (1, l)
      | none => (3, bare)
    else (3, bare)

/-- The entry of a push with its outcome. -/
def pushedEntry (s : State) (set outcome : Nat) (p : GroupPush × List Nat) : StashEntry :=
  { set := set, index := p.1.index, fmt := p.1.fmt, count := p.1.count, dropped := outcome == 2, spilled := outcome == 1
    granules := p.2, born := s.rsl.commits }

/-- Decide the group of a push (R249): every entry it names is freed, then it is placed whole or takes the set's policy whole; a
push whose decided values fault takes no part (R177). -/
def decideGroup (s : State) (op : CoreOp) : State :=
  let set := fld op.word 17 12
  let all := pushGroup s op
  let gs := all.filter (·.legal)
  let r := groupOutcome s set gs
  let es := s.stash.entries.filter fun e => !(e.set == set && gs.any fun g => g.index == e.index)
  let plan := r.2.map fun p =>
    { set := set, core := p.1.core, slot := p.1.slot, count := p.1.count, index := p.1.index, early := p.1.early
      outcome := r.1, granules := p.2, old := stashEntry s set p.1.index : PushPlan }
  let rejected := (all.filter fun g => !g.legal).map fun g =>
    { set := set, core := g.core, slot := g.slot, count := g.count, index := g.index, early := g.early
      outcome := 4, granules := [], old := none : PushPlan }
  let entries := r.2.foldl (fun l p => l.filter (fun e => e.index != p.1.index) ++ [pushedEntry s set r.1 p]) []
  { s with stash := { s.stash with
      entries := if r.1 = 3 then es else es ++ entries, plan := s.stash.plan ++ plan ++ rejected } }

/-- The plan of a push in this bundle. -/
def planOf (s : State) (op : CoreOp) : Option PushPlan :=
  s.stash.plan.find? fun p => p.set == fld op.word 17 12 && p.core == op.core.val && p.slot == op.slot.val

/-- A push that faults at its own issue leaves no entry, and what it freed is there again (R177). -/
def dropPush (s : State) (op : CoreOp) : State :=
  match planOf s op with
  | some p =>
    if p.outcome = 4 then s
    else { s with stash := { s.stash with
      entries := (s.stash.entries.filter fun e => !(e.set == p.set && e.index == p.index && e.granules == p.granules)) ++
        p.old.toList } }
  | none => s

/-- A push counts in the registers of its set: DROPS, SPILLS, and PEAK with the ring granules held. -/
def countPush (s : State) (set outcome : Nat) : State :=
  let held := (usedGranules s.stash.entries set false).length
  { s with stash := { s.stash with
      peak := s.stash.peak.set set (BitVec.ofNat 28 (max (s.stash.peak.get set).toNat held))
      drops := if outcome = 2 then s.stash.drops.set set (BitVec.ofNat 24 (satAdd 24 (s.stash.drops.get set).toNat 1))
        else s.stash.drops
      spills := if outcome = 1 then s.stash.spills.set set (BitVec.ofNat 32 (satAdd 32 (s.stash.spills.get set).toNat 1))
        else s.stash.spills } }

/-- Byte addresses of granules: in the ring, or in the Twin's memory. -/
def granuleAddrs (d : BitVec 256) (spilled : Bool) (gs : List Nat) : List Nat :=
  gs.map fun g => (if spilled then fld d 139 96 else fld d 43 0) + 4096 * g

/-- The plan of a push, of a group decided now where it is the first. -/
def plannedPush (s : State) (op : CoreOp) : State :=
  if (planOf s op).isSome ∨ !setDeclared s (fld op.word 17 12) ∨ !coreActive s op.core then s else decideGroup s op

/-- The checks of STASH.PUSH in the order of R177, on the values its group decided (R148, R249). -/
def pushChecks (s : State) (op : CoreOp) : List (Option Flt) :=
  let w := op.word
  let n := fld w 25 18
  let set := fld w 17 12
  let r := regionOf s op.core n
  let early := ((planOf s op).bind (·.early)).map fun i => { code := 5, info := i : Flt }
  let index := ((planOf s op).map (·.index)).getD 0
  let count := ((planOf s op).map (·.count)).getD 0
  [encodingUnless (zeros w 63 36 && setDeclared s set && decide (index < fld (setDesc s set) 95 76)), early,
    stateUnless (canConsume r) n, boundUnless (decide (count ≤ rBound r)) n]

/-- A group's fault outcome has been raised: its other pushes raise it no more (R249, R396). -/
def groupFaulted (s : State) (set : Nat) : State :=
  { s with stash := { s.stash with plan := s.stash.plan.map fun p =>
      if p.set = set ∧ p.outcome = 3 then { p with outcome := 5 } else p } }

/-- What a push of a plan does at issue (R204, R249). A group that takes the fault outcome takes it once. -/
def pushEffect (s : State) (op : CoreOp) (p : PushPlan) : State :=
  let t := opClk s op
  let n := fld op.word 25 18
  let r := regionOf s op.core n
  let x : StashOp := { core := op.core, region := n, regDesc := putFld r 119 104 0, push := true, spilled := p.outcome == 1
                       count := p.count, issue := t, grans := granuleAddrs (setDesc s p.set) (p.outcome == 1) p.granules
                       moved := [], part := [] }
  let s1 := takeElasticConsumer (countPush s p.set p.outcome) op.core n t
  if p.outcome = 3 then abandonStep (report (groupFaulted s1 p.set) 0x11 p.set) 0xB
  else if p.outcome = 5 then s1
  else if p.outcome = 2 ∨ p.count = 0 then setRegion s1 op.core n t (consumerDone (regionOf s1 op.core n))
  else elasticIssue s { s1 with stash := { s1.stash with ops := s1.stash.ops ++ [x] } }

/-- STASH.PUSH (R204, R249). -/
def execStashPush (op : CoreOp) (s : State) : Out :=
  let s0 := plannedPush s op
  let checks := pushChecks s0 op
  let effect := match planOf s0 op with
    | some p => pushEffect s0 op p
    | none => s0
  coreOp (if coreActive s op.core ∧ (firstFault checks).isSome then dropPush s0 op else s0) op checks effect

/-- The checks of STASH.POP in the order of R177. -/
def popChecks (s : State) (op : CoreOp) : List (Option Flt) :=
  let w := op.word
  let t := opClk s op
  let n := fld w 25 18
  let set := fld w 17 12
  let r := regionOf s op.core n
  let count := (sregAt s op.core (fld w 35 31) t).toNat
  let index := (sregAt s op.core (fld w 30 26) t).toNat
  let fmtOk := match stashEntry s set index with
    | some e => e.fmt == rFmt r
    | none => true
  [encodingUnless (zeros w 63 36 && setDeclared s set && decide (index < fld (setDesc s set) 95 76) && fmtOk),
    latS s op.core (fld w 30 26) t, latS s op.core (fld w 35 31) t, stateUnless (canProduce r) n,
    boundUnless (decide (count ≤ rBound r)) n]

/-- STASH.POP (R204, R250, R251). -/
def execStashPop (op : CoreOp) (s : State) : Out :=
  let w := op.word
  let t := opClk s op
  let n := fld w 25 18
  let set := fld w 17 12
  let r := regionOf s op.core n
  let d := setDesc s set
  let count := (sregAt s op.core (fld w 35 31) t).toNat
  let index := (sregAt s op.core (fld w 30 26) t).toNat
  let entry := stashEntry s set index
  let hit := match entry with
    | some e => !e.dropped && e.count == count
    | none => false
  let orphan := match entry with
    | some e => e.count != count
    | none => true
  let x : StashOp := { core := op.core, region := n, regDesc := putFld r 119 104 0, push := false,
                       spilled := (entry.map (·.spilled)).getD false, count := count, issue := t,
                       grans := (entry.map fun e => granuleAddrs d e.spilled e.granules).getD [], moved := []
                       part := [] }
  let s1 := takeElasticProducer s op.core n t
  let s2 := { s1 with stash := { s1.stash with
    entries := s1.stash.entries.filter fun e => !(e.set == set && e.index == index) } }
  let done := producerDone (regionOf s2 op.core n)
  let effect :=
    if hit then
      if count = 0 then setRegion s2 op.core n t done
      else elasticIssue s { s2 with stash := { s2.stash with ops := s2.stash.ops ++ [x] } }
    else
      let s3 := setRegion s2 op.core n t (putFlag done 66 true)
      if orphan then
        { s3 with stash := { s3.stash with
            orphan := s3.stash.orphan.set set (BitVec.ofNat 8 (satAdd 8 (s3.stash.orphan.get set).toNat 1)) } }
      else s3
  coreOp s op (popChecks s op) effect

/-! ### Movement -/

/-- The bytes a push holds: its elements packed in order, then one scale byte per block (R249). -/
def pushBytes (s : State) (x : StashOp) : List Byte :=
  let fmt := rFmt x.regDesc
  packBits (fmtBits fmt) ((List.range x.count).map (regionBits s x.core x.regDesc 1)) ((x.count * fmtBits fmt + 7) / 8) ++
    (if isMX fmt then (List.range (x.count / 32)).map fun j =>
      storeByte s x.core (rSpace x.regDesc) (regionScale x.regDesc 1 (32 * j)) else [])

/-- The memory address of byte o of an entry. -/
def entryAddr (x : StashOp) (o : Nat) : Nat := x.grans.getD (o / 4096) 0 + o % 4096

/-- Byte o of an entry as it is stored: in the ring, or in the Twin's memory. -/
def entryByte (s : State) (x : StashOp) (o : Nat) : Byte :=
  if x.spilled then s.stash.twin.get (entryAddr x o) else memByte s (entryAddr x o)

/-- Write byte o of an entry. -/
def putEntryByte (s : State) (x : StashOp) (o : Nat) (b : Byte) : State :=
  if x.spilled then { s with stash := { s.stash with twin := s.stash.twin.set (entryAddr x o) b } }
  else writeMem s (entryAddr x o) [b]

/-- Bytes of an entry. -/
def entryLength (x : StashOp) : Nat := stashBytes (rFmt x.regDesc) x.count

/-- Byte o of an entry has moved. -/
def hasMoved (x : StashOp) (o : Nat) : Bool := x.moved.any fun m => m.1 == o / 512 && m.2.getLsbD (o % 512)

/-- The bytes of sector q of an entry (its bytes 512q to 512q + 511) that have yet to move. -/
def leftOf (x : StashOp) (q : Nat) : List Nat :=
  ((List.range 512).map (512 * q + ·)).filter fun o => decide (o < entryLength x) && !hasMoved x o

/-- Sectors of an operation. -/
def stashSectors (x : StashOp) : Nat := ceilDiv (entryLength x) 512

/-- The bytes of element k of an entry whose elements have w bits. -/
def elementBytes (w k : Nat) : List Nat := (List.range (((k + 1) * w - 1) / 8 + 1 - k * w / 8)).map (k * w / 8 + ·)

/-- What a pop moves of sector q when the bytes `sel` come: the elements and scale bytes that are complete are written into the
region, and the bytes of the others are kept. -/
def popBytes (s : State) (x : StashOp) (q : Nat) (sel : List Nat) : State × List (Nat × Byte) :=
  let d := x.regDesc
  let w := fmtBits (rFmt d)
  let plane := (x.count * w + 7) / 8
  let get := fun (o : Nat) => match x.part.find? (fun p => p.1 == o) with
    | some p => p.2
    | none => entryByte s x o
  let ready := fun (o : Nat) => sel.contains o || hasMoved x o
  let ks := (List.range x.count).filter fun k =>
    (k * w / 8 / 512 == q || ((k + 1) * w - 1) / 8 / 512 == q) && (elementBytes w k).any sel.contains
  let s1 := (ks.filter fun k => (elementBytes w k).all ready).foldl (fun t k =>
    putRegionBits t x.core d 1 k (bitsAt get (k * w / 8) (k * w % 8) w)) s
  let s2 := (sel.filter (plane ≤ ·)).foldl (fun t o =>
    putStore t x.core (rSpace d) (regionScale d 1 (32 * (o - plane))) [get o]) s1
  (s2, (((ks.filter fun k => !(elementBytes w k).all ready).flatMap (elementBytes w)).filter sel.contains).map fun o => (o, get o))

/-- Move the bytes of sector q of an operation that a memory operation selects (R217). -/
def stashSector (s : State) (x : StashOp) (q : Nat) (mask : BitVec 512) : State × StashOp :=
  let s0 := withStores (landNets s (clkEnd s)) x.core (clkEnd s)
  let sel := (leftOf x q).filter fun o => mask.getLsbD (o % 512)
  let r := if x.push then
      let bs := pushBytes s0 x
      (sel.foldl (fun t o => putEntryByte t x o (bs.getD o 0)) s0, [])
    else popBytes s0 x q sel
  let y := { x with moved := x.moved ++ [(q, mask)], part := x.part ++ r.2 }
  ({ r.1 with stash := { r.1.stash with ops := r.1.stash.ops.map fun z => if z = x then y else z } }, y)

/-- The place among an operation's granules of the one at a number of 4 KiB from zero, in the ring or on the Twin. -/
def granuleAt (x : StashOp) (g : Nat) : Option Nat := x.grans.findIdx? fun a => a / 4096 == g

/-- An operation has bytes of a granule still to move. -/
def wantsGranule (x : StashOp) (g : Nat) : Bool :=
  match granuleAt x g with
  | some j => (List.range 8).any fun i => !(leftOf x (8 * j + i)).isEmpty
  | none => false

/-- The operation that a memory operation of Vetch serves: the first in issue order that has bytes of its granule still to move
(R251), where it moves that way and bytes of the sector are selected. -/
def vetchFor (s : State) (kind : MemKind) (sector : Nat) (mask : BitVec 512) : Option StashOp :=
  match s.stash.ops.find? (fun x => !x.spilled && wantsGranule x (sector / 8)) with
  | some x =>
    let q := 8 * (granuleAt x (sector / 8)).getD 0 + sector % 8
    if (kind = .write ∧ x.push ∨ kind = .read ∧ !x.push) ∧ (leftOf x q).any fun o => mask.getLsbD (o % 512) then some x
    else none
  | none => none

/-- A memory operation of Vetch moves bytes of its sector. -/
def vetchSector (s : State) (kind : MemKind) (sector : Nat) (mask : BitVec 512) : State :=
  match vetchFor s kind sector mask with
  | some x => (stashSector s x (8 * (granuleAt x (sector / 8)).getD 0 + sector % 8) mask).1
  | none => s

/-- The packets of a spilled operation on the Twin port (R287): for each granule the bytes that a push writes, or a request for those
that a pop reads. -/
def sendSpilled (s : State) (x : StashOp) : State :=
  x.grans.zipIdx.foldl (fun t g =>
    let n := min 4096 (entryLength x - 4096 * g.2)
    let bs := if x.push then padPayload ((List.range n).map fun o => t.stash.twin.get (g.1 + o)) else []
    transmit t 6 (dataPacket t (peerCoord t 6) g.1 (if x.push then 0 else readAux n) bs)) s

/-- Every sector of a spilled operation moves over the Twin port. -/
def moveSpilled (s : State) (x : StashOp) : State :=
  sendSpilled ((List.range (stashSectors x)).foldl (fun (acc : State × StashOp) q =>
    stashSector acc.1 acc.2 q (BitVec.allOnes 512)) (s, x)).1 x

/-- A spilled operation may move: no earlier one has bytes of its granules on the Twin still to move (R251). -/
def spilledFirst (s : State) (x : StashOp) : Bool :=
  (s.stash.ops.takeWhile (· != x)).all fun y => !(y.spilled && x.grans.any fun a => wantsGranule y (a / 4096))

/-- The Twin port went down, or the Twin is lost, while an entry of the current step lies in a spill area (R252): the step is
abandoned with STASH_LOST, naming the set. -/
def stashLost (s : State) : State :=
  match s.stash.entries.find? (fun e => e.spilled && e.born == s.rsl.commits) with
  | some e => if stepOpen s then abandonStep (report s 0x12 e.set) 0xC else s
  | none => s

end Sys2Proof.Machine
end

