-- ==== Sys2Proof/Machine/Snapshots.lean ====
section
/-! DEFINITION. Snapshots (R357 to R364): slots and layers, the state record (R359), source copies (R360), copies by the
trickler and to lower layers, and the handling of uncorrectable errors (R226, R228, R484). -/

namespace Sys2Proof.Machine

/-! ### The resilience settings -/

/-- The resilience section of the Hetin record in force (R348). -/
def hetinRsl (s : State) : List Byte := recordSection s.sec.record 4

/-- The job resilience section (R350). -/
def jobRsl (s : State) : List Byte := sectionEntry s 5 32 0

/-- INTERVAL of R350. -/
def snapInterval (s : State) : Nat := numAt (jobRsl s) 0 2

/-- First page of the partner area this device reserves. -/
def areaFirst (s : State) : Nat := numAt (hetinRsl s) 16 4

/-- Pages of that area: a spare's has the size of the lost device's (R376), at this device's own place (DESIGN CHOICE 59). -/
def areaPages (s : State) : Nat := s.rsl.lent.getD (numAt (hetinRsl s) 20 4)

/-- The firmware's entry for the partner area (R349). -/
def partnerClass (s : State) : List ClassEntry :=
  if areaPages s = 0 then [] else [{ first := areaFirst s, last := areaFirst s + areaPages s - 1, cls := 3 }]

/-- A slot of the device. -/
def slotAt (s : State) (n : Nat) : Slot := s.rsl.slots.getD n Slot.empty

/-- Change a slot. -/
def setSlot (s : State) (n : Nat) (f : Slot → Slot) : State :=
  { s with rsl := { s.rsl with slots := modifyAt s.rsl.slots n f } }

/-- The layer that takes a snapshot first (R351). -/
def firstLayer (s : State) : Layer := if s.rsl.first = 1 then .flash else .partner

/-! ### Committed pages -/

/-- Insert into a rising list without repeats. -/
def insertNat (x : Nat) : List Nat → List Nat
  | [] => [x]
  | y :: l => if x < y then x :: y :: l else if x = y then y :: l else y :: insertNat x l

/-- The pages of a class, in increasing address (R359). -/
def classPages (s : State) (cls : Nat) : List Nat :=
  (((s.mem.classes.filter fun e => e.cls == cls).flatMap fun e =>
    (List.range (e.last + 1 - e.first)).map (e.first + ·)).filter fun p => classOf s (2097152 * p) == cls).foldl
      (fun l p => insertNat p l) []

/-- P, the committed pages of the job image (R352). -/
def committedPages (s : State) : List Nat := classPages s 1

/-- The place of a page among the committed pages. -/
def pageIndex (s : State) (p : Nat) : Nat := (committedPages s).findIdx (· == p)

/-! ### Source copies (R360) -/

/-- The physical address of a granule's source copy: what SNAPCUR names, or the granule itself. -/
def sourceAddr (s : State) (a : Nat) : Nat :=
  match rangeOf s a with
  | some r => copyAddr r (s.mem.snapCur.get (a / 98304) == 1) a
  | none => a

/-- The local address whose home or pool copy a physical address is, with the copy. -/
def copyOf (s : State) (a : Nat) : Nat × Bool :=
  match poolOf s a with
  | some r => (a - r.pool + r.param, true)
  | none => (a, false)

/-- The page whose source copies a physical address lies in (R360). -/
def sourcePage (s : State) (a : Nat) : Option Nat :=
  let c := copyOf s a
  if sourceAddr s c.1 = a then some (c.1 / 2097152) else none

/-- A physical address is in the source copy of a protected page: that page (R361). -/
def protectedBy (s : State) (a : Nat) : Option Nat := (sourcePage s a).filter s.rsl.left.contains

/-- What memory holds in a page's source copies, by offset in the page. -/
def pageImage (s : State) (p : Nat) : Sparse 8 :=
  (List.range 512).flatMap fun g =>
    let src := sourceAddr s (2097152 * p + 4096 * g)
    (hbmCells s src 4096).map fun c => (4096 * g + (c.1 - src), c.2)

/-- Where page n of a slot begins in local flash. -/
def flashAddr (slot n : Nat) : Nat := slot * 2 ^ 50 + 2097152 * n

/-- A page image put in a store of slots, over what was there. -/
def putPage (m : Sparse 8) (slot n : Nat) (img : Sparse 8) : Sparse 8 :=
  let a := flashAddr slot n
  img.foldl (fun m c => m.set (a + c.1) c.2) (m.clear a (a + 2097152))

/-! ### The partner (R348, R376) -/

/-- The partner is reached over the torus: PVIA says so, or a spare is one of the two. -/
def partnerTorus (s : State) : Bool := s.rsl.viaTorus || numAt (hetinRsl s) 3 1 == 1

/-- Send a packet to the partner over PVIA. -/
def toPartner (s : State) (p : Packet) : State := if partnerTorus s then route s p else transmit s 6 p

/-- S, the pages of a snapshot slot (R352). -/
def slotPages (s : State) : Nat := 1 + (committedPages s).length

/-- The partner's local address of page n of a slot, of the area that it reserves for this device (R349). -/
def partnerAddr (s : State) (slot n : Nat) : Nat := 2097152 * (s.rsl.pfirst + 1 + slot * slotPages s + n)

/-- Write bytes to the partner's memory: point-to-point data of at most 4,096 bytes a packet (R287). -/
def partnerWrite (s : State) (a : Nat) (n : Nat) (bs : Nat → List Byte) : State :=
  (List.range n).foldl (fun t k =>
    toPartner t (dataPacket t t.rsl.pcoord (a + 4096 * k) 0 (padPayload (bs k)))) s

/-- Write a page image to the first layer: flash, or the partner's slot. -/
def writeFirst (s : State) (slot n : Nat) (img : Sparse 8) : State :=
  match firstLayer s with
  | .flash => { s with rsl := { s.rsl with flash := putPage s.rsl.flash slot n img } }
  | _ =>
    partnerWrite { s with rsl := { s.rsl with remote := putPage s.rsl.remote slot n img } } (partnerAddr s slot n) 512 fun k =>
      img.span (4096 * k) 4096

/-- The page is no longer protected. -/
def unprotect (s : State) (p : Nat) : State :=
  { s with rsl := { s.rsl with left := s.rsl.left.filter (· != p) } }

/-- Copy a committed page to its place in a slot of the first layer (R360). -/
def pageToFirst (s : State) (slot p : Nat) : State := writeFirst s slot (1 + pageIndex s p) (pageImage s p)

/-- Copy one protected page to the first layer and unprotect it (R360). -/
def copyPage (s : State) (slot p : Nat) : State := unprotect (pageToFirst s slot p) p

/-- A damaged word lies in a page's source copies. -/
def pageDamaged (s : State) (p : Nat) : Option Nat :=
  (badAddrs s).find? fun a => sourcePage s a == some p

/-! ### The state record (R359) -/

/-- The content of a rewind point or state record at this quiet point (R354). SLOTQ is the first slot that begins at
or after it. -/
def captureRecord (s : State) : StateRecord :=
  let t := s.time.epoch.toNat - s.time.origin.toNat
  { c := s.rsl.commits, step := s.seq.step, cursor := s.eth.cursor, layout := s.coll.layout,
    bundle := BitVec.ofNat 32 (nextFlow s).1, slotq := BitVec.ofNat 64 (ceilDiv t 512),
    jobtag := jobTag s, skiprun := s.commit.skiprun, coord := myCoord s, serial := Config.serial, q := s.seq.qreg,
    loops := (nextFlow s).2, pages := (committedPages s).length, partner := s.rsl.pcoord, gen := s.cu.gen,
    streams := s.cu.stream, cursors := s.cu.cursor }

/-- The 65,536 bytes of a state record. A loop's entry holds its first bundle, body length, latched count and the
iteration in progress, counted from 0; the outermost loop comes first (DEDUCED 30). -/
def recordBytes (r : StateRecord) : List Byte :=
  let loop := fun (i : Nat) =>
    match r.loops.reverse[i]? with
    | some l => leBytes 4 l.first ++ leBytes 4 (l.last + 1 - l.first) ++ leBytes 4 l.count ++ leBytes 4 (l.count - l.left)
    | _ => List.replicate 16 0
  let head := leBytes 8 r.c.toNat ++ leBytes 8 r.step.toNat ++ leBytes 8 r.cursor.toNat ++ leBytes 4 r.layout.toNat ++
    leBytes 4 r.bundle.toNat ++ leBytes 8 r.slotq.toNat ++ leBytes 2 r.jobtag.toNat ++ leBytes 1 (min r.skiprun 255) ++
    [0] ++ leBytes 3 r.coord.toNat ++ [0] ++ leBytes 16 r.serial.toNat ++
    (List.range 32).flatMap (fun i => leBytes 4 (r.q.get i).toNat) ++ (List.range 8).flatMap loop ++
    leBytes 8 r.pages ++ leBytes 3 r.partner.toNat
  let gens := (List.range 256).flatMap fun i => leBytes 16 (r.gen.get i).toNat
  let strs := (List.range 256).flatMap fun i =>
    leBytes 32 (r.streams.get i).toNat ++ leBytes 8 (r.cursors.get i).toNat ++ List.replicate 24 0
  let body := head ++ List.replicate (4096 - head.length) 0 ++ gens ++ strs
  let full := body ++ List.replicate (65528 - body.length) 0
  full ++ leBytes 8 (crc64 full).toNat

/-- The entry of a loop in a state record: an unused one, of no body length, is zero (R359). -/
def loopEntryOk (b : List Byte) (i : Nat) : Bool := numAt b (196 + 16 * i) 4 != 0 || zeroAt b (192 + 16 * i) (207 + 16 * i)

/-- A stream descriptor of a state record holds no reserved encoding (R231). -/
def streamEntryOk (b : List Byte) (i : Nat) : Bool :=
  let d : BitVec 256 := BitVec.ofNat 256 (numAt b (8192 + 64 * i) 32)
  decide (fld d 53 52 < 2) && decide (fld d 61 60 < 2) && decide (fld d 47 44 ≤ 10)

/-- Read a state record; none where its CRC fails, or where a byte outside its fields, an unused loop entry, a reserved bit of a
generator slot (R128) or a reserved encoding of a stream descriptor is not as it must be (R16, R366). -/
def parseRecord (b : List Byte) : Option StateRecord :=
  let ok := crc64 (bytesAt b 0 65528) == BitVec.ofNat 64 (numAt b 65528 8) && numAt b 43 1 == 0 && numAt b 47 1 == 0 &&
    decide (numAt b 44 3 < 262144) && decide (numAt b 328 3 < 262144) && zeroAt b 331 4095 && zeroAt b 24576 65527 &&
    ((List.range 256).all fun i => zeroAt b (8192 + 64 * i + 40) (8192 + 64 * i + 63) && streamEntryOk b i) &&
    ((List.range 8).all (loopEntryOk b)) && (List.range 256).all fun i => zeros (BitVec.ofNat 128 (numAt b (4096 + 16 * i) 16)) 63 33
  let arr := fun {w : Nat} (n off step size : Nat) =>
    (Sparse.setList ([] : Sparse w) 0 ((List.range n).map fun i => BitVec.ofNat w (numAt b (off + step * i) size)))
  if ok then
    some { c := BitVec.ofNat 64 (numAt b 0 8), step := BitVec.ofNat 64 (numAt b 8 8),
           cursor := BitVec.ofNat 64 (numAt b 16 8), layout := BitVec.ofNat 32 (numAt b 24 4),
           bundle := BitVec.ofNat 32 (numAt b 28 4), slotq := BitVec.ofNat 64 (numAt b 32 8),
           jobtag := BitVec.ofNat 16 (numAt b 40 2), skiprun := numAt b 42 1,
           coord := BitVec.ofNat 18 (numAt b 44 3), serial := BitVec.ofNat 128 (numAt b 48 16), q := arr 32 64 4 4,
           loops := ((List.range 8).reverse.filterMap fun i =>
             let o := 192 + 16 * i
             if numAt b (o + 4) 4 = 0 then none
             else some { first := numAt b o 4, last := numAt b o 4 + numAt b (o + 4) 4 - 1,
                         count := numAt b (o + 8) 4, left := numAt b (o + 8) 4 - numAt b (o + 12) 4, brk := false }),
           pages := numAt b 320 8, partner := BitVec.ofNat 18 (numAt b 328 3), gen := arr 256 4096 16 16,
           streams := arr 256 8192 64 32, cursors := arr 256 8224 64 8 }
  else none

/-! ### Taking and completing a snapshot -/

/-- The slot a new snapshot fills: the one that does not hold the newest complete snapshot (R358). -/
def nextSlot (s : State) : Nat :=
  let a := slotAt s 0
  let b := slotAt s 1
  if a.state = 2 ∧ (b.state ≠ 2 ∨ b.c.toNat < a.c.toNat) then 1 else 0

/-- The pages that hold scale records. -/
def scalePages (s : State) : List Nat :=
  ((List.range (scaleCount s)).map fun i => scaleRecordAddr s i / 2097152).foldl (fun l p => insertNat p l) []

/-- BUSY of R357: some layer copy of either slot runs, or waits to begin. -/
def snapBusy (s : State) : Bool := s.rsl.slots.any fun x => !x.copying.isEmpty || !x.due.isEmpty

/-! ### Slot states on the partner (R349) -/

/-- RSL_SNAPs. -/
def snapWord (x : Slot) : Word :=
  packed [(0, x.state.toNat), (3, x.partner.toNat), (4, x.flash.toNat), (5, x.store.toNat), (6, x.secure.toNat)]

/-- Where the state of a slot stands in the header of the partner's area, among what the device wrote to the partner. -/
def headerAddr (slot : Nat) : Nat := 2 ^ 51 + 4 * slot

/-- The state of a slot goes to the header of the partner's area while the partner is the first layer (R349); a packet carries the
states of both slots (R287). -/
def tellHeader (s : State) (n : Nat) : State :=
  if s.rsl.first = 0 then
    let w := snapWord (slotAt s n)
    partnerWrite { s with rsl := { s.rsl with remote := s.rsl.remote.setList (headerAddr n) (leBytes 4 w.toNat) } }
      (2097152 * s.rsl.pfirst) 1 fun _ => leBytes 4 (snapWord (slotAt s 0)).toNat ++ leBytes 4 (snapWord (slotAt s 1)).toNat
  else s

/-- The snapshot counts as secure (R351): on the partner of another feed, else on flash. -/
def snapSecure (s : State) (x : Slot) : Bool :=
  x.state == 2 && (if s.rsl.first = 0 ∧ !s.rsl.sameFeed then x.partner else x.flash)

/-- Lower layers that a complete snapshot is copied to (R350, R351). -/
def lowerLayers (s : State) : List Layer :=
  let n := s.rsl.snapNo
  let every := fun (k : Nat) => decide (0 < k) && decide (n % k = 0)
  let flash := s.rsl.first == 0 && (s.rsl.sameFeed || every (numAt (jobRsl s) 2 2))
  (if flash then [.flash] else []) ++ (if every (numAt (jobRsl s) 4 2) then [.store] else [])

/-- Discard the snapshot in progress: its slot becomes empty, protection is cleared (R364). -/
def discardFilling (s : State) : State :=
  match s.rsl.filling with
  | some n =>
    let s1 := setSlot s n fun _ => Slot.empty
    tellHeader { s1 with rsl := { s1.rsl with filling := none, left := [] } } n
  | none => s

/-! ### Requests to the partner -/

/-- The partner is asked for its area by a management packet (R351), for the bytes of a page by point-to-point data (R287, R369). A
spare does not know the partner of the place it takes: it asks on every port, and the device that reserves an area for its
coordinate answers (DESIGN CHOICE 59). -/
def partnerRequest (s : State) (t : Pending) : State :=
  match t.use with
  | .partner =>
    let p := { newPacket s s.rsl.pcoord 3 1 [] with dest := globalAddr s.rsl.pcoord 0 }
    if s.eth.spare ∧ s.eth.phase ≠ .confirmed then
      (List.range 7).foldl (fun u k => if carriesPackets (portOf u k).mode then transmit u k (newPacket u (peerCoord u k) 3 1 []) else u) s
    else toPartner s p
  | _ => toPartner s (dataPacket s s.rsl.pcoord t.addr (readAux t.count) [])

/-- A transfer that does not pass the Ethernet port: to the partner (target 9) or on local flash (target 10). -/
def innerTransfer (s : State) (target : Nat) (use : TransferUse) (addr count : Nat) : State :=
  let t : Pending :=
    { id := s.eth.nextId, target := target, use := use, ns := 0, addr := addr, count := count, bytes := [], retried := false
      parked := false, issued := s.time.epoch }
  let s1 := { s with eth := { s.eth with transfers := s.eth.transfers ++ [t], nextId := s.eth.nextId + 1 } }
  if target = 9 then partnerRequest s1 t else s1

/-- Ask the partner for something: the request goes over PVIA. -/
def askPartner (s : State) (use : TransferUse) (addr count : Nat) : State := innerTransfer s 9 use addr count

/-- The partner is lost, or the port that reaches it (R364): a snapshot still copying to it is discarded, and later
ones take the roles of the last row of R351. -/
def partnerLost (s : State) : State :=
  if s.rsl.first = 0 ∧ leased s then
    report (discardFilling { s with rsl := { s.rsl with first := 1, plost := true, gone := true } }) 0x0D 0
  else s

/-! ### Uncorrectable errors (R226, R228, R484) -/

/-- Count an error corrected at a local address on a bank die, with whether the job met it (R455, R456). -/
def countCe (s : State) (die addr : Nat) (job : Bool) : State :=
  let s1 := { s with mem := { s.mem with ce := s.mem.ce.set die (BitVec.ofNat 16 (satAdd 16 (s.mem.ce.get die).toNat 1)) } }
  countEv s1 { code := 0x25, die := some die, addr := some addr, job := job }

/-- What an uncorrectable error means (R228, R484): scratch 0, committed 1, code 2, partner 3, an idle copy 4. -/
def errorRole (s : State) (a : Nat) : Nat :=
  let c := copyOf s a
  match rangeOf s c.1 with
  | some _ =>
    let blk := c.1 / 98304
    if (s.mem.cur.get blk == 1) = c.2 then 1
    else if s.mem.staged.get blk = 1 then 0
    else 4
  | none => classOf s a

/-- Count and record an uncorrectable error at a physical address, with the class of its page or range. -/
def recordUe (s : State) (a : Nat) : State :=
  let die := dieOf s a
  let cls := if (rangeOf s (copyOf s a).1).isSome then 1 else classOf s a
  markWord { s with mem := { s.mem with
      ue := s.mem.ue.set die (BitVec.ofNat 8 (satAdd 8 (s.mem.ue.get die).toNat 1))
      ueAddr := s.mem.ueAddr.set die (BitVec.ofNat 24 (a / 2097152 + cls * 2 ^ 21)) } } a true

/-- S of the snapshots that the partner keeps here (R349, R352): its committed pages are counted in the state record of slot 0
where the header shows one, and are taken to be as many as this device's where it shows none (DEDUCED 31). -/
def partnerSlotPages (s : State) : Nat :=
  let base := 2097152 * areaFirst s
  1 + (if fld (memByte s base) 2 0 = 0 then (committedPages s).length else memNum s (base + 2097152 + 320) 8)

/-- STATE 0b011 in the area header's entry of a slot of the Twin's, which no longer counts as secure (R349, R351). -/
def damageTwinSlot (s : State) (slot : Nat) : State :=
  let a := 2097152 * areaFirst s + 4 * slot
  writeMem s a [putFlag (putFld (memByte s a) 2 0 3) 6 false]

/-- Mark the Twin's snapshot held here damaged (R228, R349): the slot that the page lies in; for the header both, for a spill
page none (DEDUCED 31). -/
def damageTwin (s : State) (a : Nat) : State :=
  let page := a / 2097152 - areaFirst s
  let n := partnerSlotPages s
  if page = 0 then damageTwinSlot (damageTwinSlot s 0) 1
  else if page ≤ n then damageTwinSlot s 0
  else if page ≤ 2 * n then damageTwinSlot s 1
  else s

/-- A restore is needed (R228, R368): an open step is abandoned; a recovery that waits for its decide barrier asks for a restore
there, and one that is under way, or waits to restart or to be released, starts again from that barrier (DEDUCED 34). -/
def needRestore (s : State) (cause : Nat) : State :=
  if stepOpen s then abandonStep s cause
  else
    let t := { s with rsl := { s.rsl with need := true, cause := BitVec.ofNat 8 cause } }
    match s.rsl.phase with
    | .decide => t
    | .idle => s
    | .ended => s
    | _ => { t with rsl := { t.rsl with phase := .decide, mismatch := false, reading := [] } }

/-- An uncorrectable error met at a physical address (R228). -/
def handleUe (s : State) (a : Nat) : State :=
  let s1 := recordUe s a
  let pend := fun (s : State) => { s with mem := { s.mem with ueReport := stepOpen s } }
  match errorRole s a with
  | 0 => abandonStep (pend s1) 3
  | 1 => needRestore (pend s1) 4
  | 2 => needRestore (pend s1) 5
  | 3 => damageTwin s1 a
  | _ => s1

/-- Reads of a span of memory meet each of its uncorrectable words (R226). -/
def readMeets (s : State) (a n : Nat) : State :=
  ((badAddrs s).filter fun w => decide (a < w + 8) && decide (w < a + n)).foldl handleUe s

/-- Tansy met an uncorrectable word in a source copy: the slot being filled becomes damaged (R364, R484). -/
def damageFilling (s : State) : State :=
  match s.rsl.filling with
  | some n =>
    let s1 := setSlot s n fun x => { x with state := 3, copying := [], bad := [] }
    tellHeader { s1 with rsl := { s1.rsl with filling := none, left := [] } } n
  | none => s

/-- Tansy copies a page with `copy`; an uncorrectable word in its source copies damages the slot instead (R360, R484). -/
def tansyWith (copy : State → Nat → Nat → State) (s : State) (p : Nat) : State :=
  match pageDamaged s p with
  | some a => damageFilling (handleUe s a)
  | none => match s.rsl.filling with
    | some n => copy s n p
    | none => s

/-- Tansy copies a protected page, which is then protected no longer (R360, R484). -/
def tansyCopy (s : State) (p : Nat) : State := tansyWith copyPage s p

/-- A write is to come at a physical address: a protected page whose source copy holds it is copied at once, which RSL_TOUCH and
the event counters count (R361). -/
def touchWrite (s : State) (phys : Nat) (e : Ev) : State :=
  match protectedBy s phys with
  | none => s
  | some p =>
    let s1 := tansyCopy s p
    countEv { s1 with rsl := { s1.rsl with touches := BitVec.ofNat 32 (satAdd 32 s1.rsl.touches.toNat 1) } } e

/-! ### Taking a snapshot (R358) -/

/-- Step 4: SNAPCUR is set to CUR, every committed page is protected. -/
def protectAll (s : State) : State :=
  if s.rsl.filling.isSome then
    { s with rsl := { s.rsl with left := committedPages s }, mem := { s.mem with snapCur := s.mem.cur } }
  else s

/-- A snapshot starts at its quiet point (R358): the record is captured, the slot marked filling, the pages of scale
records copied, SNAPCUR set to CUR, every committed page protected. -/
def startSnapshot (s : State) : State :=
  let n := nextSlot s
  let r := captureRecord s
  let s1 := setSlot s n fun _ => { Slot.empty with state := 1, c := r.c, record := some r, copying := [firstLayer s] }
  let s2 := { s1 with
    rsl := { s1.rsl with filling := some n, left := [], lastSnap := r.c, snapNo := s1.rsl.snapNo + 1 } }
  let s3 := writeFirst (tellHeader s2 n) n 0 (Sparse.setList [] 0 (recordBytes r))
  protectAll (((scalePages s3).filter fun p => (committedPages s3).contains p).foldl (tansyWith pageToFirst) s3)

/-! ### Copies to the lower layers (R363, R393) -/

/-- A complete slot whose copy to a layer is due and can be read (R363): for flash from the partner slot, for the store from flash
or the partner. -/
def mayLower (s : State) (n : Nat) (l : Layer) : Bool :=
  let x := slotAt s n
  x.state == 2 && x.due.contains l && (match l with
    | .partner => false
    | .flash => s.rsl.first == 0
    | .store => x.flash || s.rsl.first == 0)

/-- First block of a slot on the shared store. -/
def storeBase (s : State) (slot : Nat) : Nat := numAt s.eth.entry 112 8 + (2 * s.eth.rank + slot) * numAt s.eth.entry 120 8

/-- What a slot page holds on local flash, or else on the partner: the source of a store copy (R363). -/
def slotPage (s : State) (slot page : Nat) : List Byte :=
  (if (slotAt s slot).flash then s.rsl.flash else s.rsl.remote).span (flashAddr slot page) 2097152

/-- Writes of a store copy: pages 1 to S − 1, Flush, page 0, Flush (R393). -/
def storeWrites (s : State) : Nat := (committedPages s).length + 3

/-- The next write of a store copy goes out: a page with its first block, or a Flush. -/
def storeNext (s : State) (slot : Nat) : State :=
  let x := slotAt s slot
  let most := (committedPages s).length
  let tgt := numAt s.eth.entry 104 1
  if !x.copying.contains .store ∨ storeWrites s ≤ x.stored then s
  else if x.stored < most then
    startTransfer s tgt (.store slot) (storeBase s slot + 512 * (1 + x.stored)) (slotPage s slot (1 + x.stored))
  else if x.stored = most + 1 then startTransfer s tgt (.store slot) (storeBase s slot) (slotPage s slot 0)
  else startTransfer s tgt (.store slot) 0 []

/-- A write of a store copy is complete: the next one follows. -/
def storeWritten (s : State) (slot : Nat) : State :=
  storeNext (setSlot s slot fun x => { x with stored := x.stored + 1 }) slot

/-! ### The commands -/

/-- TRICKLER_COPY (R360, R362): the first protected page is copied. -/
def execTricklerCopy (s : State) : Out :=
  match s.rsl.left with
  | [] => .next s
  | p :: _ => .next (tansyCopy s p)

/-- LOWER_LAYER_COPY (R363): the copy that is due starts. To flash it takes the pages now; to the store they go out one write
after the other (R393). -/
def execLowerLayerCopy (slot : Fin 2) (layer : Layer) (s : State) : Out :=
  if mayLower s slot layer then
    let s1 := setSlot s slot fun x => { x with copying := x.copying ++ [layer], due := x.due.filter (· != layer), stored := 0 }
    match layer with
    | .flash =>
      let a := flashAddr slot 0
      let got := s1.rsl.remote.filter fun c => decide (a ≤ c.1) && decide (c.1 < a + 2 ^ 50)
      .next { s1 with rsl := { s1.rsl with
        flash := got.foldl (fun m c => m.set c.1 c.2) (s1.rsl.flash.clear a (a + 2 ^ 50)) } }
    | .store => .next (storeNext s1 slot)
    | .partner => .next s
  else .next s

/-- A layer copy of a slot has made every write: the first layer's has copied all protected pages, a store copy has made its last
Flush (R360, R393). -/
def copyMade (s : State) (n : Nat) (l : Layer) : Bool :=
  let x := slotAt s n
  x.copying.contains l && (x.state == 2 || s.rsl.left.isEmpty) && (l != .store || decide (storeWrites s ≤ x.stored))

/-- SNAPSHOT_COMPLETE (R363): a layer copy completes; the first layer's makes the slot complete and ends protection, and the
lower layers' copies are due from here (R357). -/
def execSnapshotComplete (slot : Fin 2) (layer : Layer) (s : State) : Out :=
  if copyMade s slot layer then
    let firstDone := (slotAt s slot).state == 1
    let lower := if firstDone then lowerLayers s else []
    let s1 := setSlot s slot fun x => { x with
      state := 2, copying := x.copying.filter (· != layer), due := x.due ++ lower
      partner := x.partner || layer == .partner, flash := x.flash || layer == .flash
      store := x.store || layer == .store }
    let s2 := setSlot s1 slot fun x => { x with secure := snapSecure s1 x }
    .next (tellHeader (if firstDone then { s2 with rsl := { s2.rsl with filling := none, left := [] } } else s2) slot)
  else .next s

/-- LAYER_COPY_FAIL (R364): the copy is abandoned; the slot stays complete. A failed copy of the first layer leaves the
slot empty. -/
def execLayerCopyFail (slot : Fin 2) (layer : Layer) (s : State) : Out :=
  let x := slotAt s slot
  if x.copying.contains layer ∨ x.due.contains layer then
    if x.state = 1 then .next (discardFilling s)
    else .next (setSlot s slot fun x => { x with
      copying := x.copying.filter (· != layer), due := x.due.filter (· != layer) })
  else .next s

end Sys2Proof.Machine
end

