-- ==== Sys2Proof/Machine/Completions.lean ====
section
/-! DEFINITION. The completions of producers and consumers of regions (R151) and what an elastic operation must have moved
before it completes (table "Region roles and completion points"). -/

namespace Sys2Proof.Machine

/-- Take the first element that satisfies a test out of a list. -/
def takeFirst {α : Type} (p : α → Bool) : List α → Option (α × List α)
  | [] => none
  | x :: l => if p x then some (x, l) else (takeFirst p l).map fun r => (r.1, x :: r.2)

/-- Every byte of a stash operation has moved, or it may move over the Twin port now. -/
def stashDone (s : State) (x : StashOp) : Bool :=
  if x.spilled then spilledFirst s x else (List.range (stashSectors x)).all fun q => (leftOf x q).isEmpty

/-- The oldest fill, or spill, of a region whose elements have all moved, marked as having completed its region. -/
def freeCaptured (s : State) (core region : Nat) (spill : Bool) : Option State :=
  match s.cu.captured.find? (fun c => c.core == core && c.region == region && c.spill == spill && !c.freed &&
      regionDrained c) with
  | some c => some (dropDone (updateCaptured s c { c with freed := true }))
  | none => none

/-- The oldest push, or pop, of a region whose bytes have all moved, taken out; a spilled one moves its bytes here. -/
def freeStash (s : State) (core region : Nat) (push : Bool) : Option State :=
  let mine := fun (x : StashOp) => x.core == core && x.region == region && x.push == push && stashDone s x
  match s.stash.ops.find? mine with
  | some x =>
    let s1 := if x.spilled then moveSpilled s x else s
    let same := fun (y : StashOp) => y.core == core && y.region == region && y.push == push && y.issue == x.issue &&
      y.grans == x.grans
    match takeFirst same s1.stash.ops with
    | some r => some { s1 with stash := { s1.stash with ops := r.2 } }
    | none => some s1
  | none => none

/-- The first element that satisfies a test, changed. -/
def changeFirst {α : Type} (p : α → Bool) (f : α → α) : List α → List α
  | [] => []
  | x :: l => if p x then f x :: l else x :: changeFirst p f l

/-- The oldest binding of a region to a launch whose data has all moved, marked as having completed its region. -/
def freeBinding (s : State) (core region : Nat) (send : Bool) : Option State :=
  let mine := fun (b : Binding) => b.core == core && b.region == region && b.doneB && !b.freed
  let free := changeFirst mine fun b => { b with freed := true }
  let holds := fun (l : Launch) => (if send then l.sends else l.recvs).any mine
  let mark := fun (l : Launch) => if send then { l with sends := free l.sends } else { l with recvs := free l.recvs }
  if s.coll.launches.any holds then
    some { s with coll := { s.coll with launches := changeFirst holds mark s.coll.launches } }
  else none

/-- Some elastic operation on the region has moved all its data: the state without its claim on the region. -/
def freeElastic (s : State) (core region : Nat) (consumer : Bool) : Option State :=
  match freeCaptured s core region consumer with
  | some t => some t
  | none => match freeStash s core region consumer with
    | some t => some t
    | none => freeBinding s core region consumer

/-- An elastic completion changes the region's descriptor in clk `o` of the present beat (R151) and ends the sample that waits
for it. In a hold beat, where the schedule clk stands still, what a change of clk 6 or 7 replaced is kept for the test of
that beat (R153), and DONE is the first schedule clk after the hold (R462). -/
def elasticEnd (s : State) (core region o : Nat) (d : BitVec 128) : State :=
  let s1 := if s.seq.hold.isNone then setRegion s core region (8 * (s.seq.issued - 1) + o) d
    else
      let k := core * 256 + region
      { s with cu := { s.cu with
          region := s.cu.region.set k d
          heldLog := if 5 < o then s.cu.heldLog ++ [(k, s.cu.region.get k)] else s.cu.heldLog } }
  if s.seq.hold.isNone then finishRegion s1 core region true (8 * (s.seq.issued - 1) + o) 0
  else finishRegion s1 core region true (8 * s.seq.issued) (8 - o)

/-- The scheduled end of a region that falls due first. -/
def firstEnd (key : Nat) (prod : Bool) (l : List SchedEnd) : Option SchedEnd :=
  (l.filter fun e => e.key == key && e.prod == prod && !e.done).foldl (fun b e => match b with
    | some x => if e.due < x.due then some e else b
    | none => some e) none

/-- A scheduled producer or consumer of a region reaches its completion point, once the clk of it is reached. -/
def scheduledEnd (s : State) (core region : Nat) (prod : Bool) (d : BitVec 128) : State :=
  match firstEnd (core * 256 + region) prod s.cu.schedEnds with
  | some e =>
    if e.due < clkEnd s then
      let s0 := landNets s (e.due + 1)
      let s1 := { s0 with cu := { s0.cu with schedEnds := { e with done := true } :: s0.cu.schedEnds.erase e } }
      finishRegion (setRegion s1 core region e.due d) core region false e.due 0
    else s
  | none => s

/-- REGION_PRODUCER_COMPLETE: an issued producer of a filling region completes; a scheduled one must be outstanding, an
elastic one must have written its last element. -/
def execRegionProducerComplete (core : Fin 16) (region : BitVec 8) (elastic : Option (Fin 8)) (s : State) : Out :=
  let d := regionOf s core.val region.toNat
  if rState d = 1 ∧ rPtodo d < rPcount d then
    match elastic with
    | none => .next (scheduledEnd s core region.toNat true (producerDone d))
    | some o => match freeElastic s core region.toNat false with
      | some t => .next (elasticEnd t core region.toNat o (producerDone d))
      | none => .next s
  else .next s

/-- The elastic operation that frees a region next is a push that moves to the Twin, whose reads of the core's stores are made here
(R115). -/
def spillReads (s : State) (core region : Nat) : Bool :=
  (freeCaptured s core region true).isNone &&
    (s.stash.ops.find? fun x => x.core == core && x.region == region && x.push && stashDone s x).any (·.spilled)

/-- REGION_CONSUMER_COMPLETE: an issued consumer of a consuming region completes; a scheduled one must be outstanding,
an elastic one must have read its last element. -/
def execRegionConsumerComplete (core : Fin 16) (region : BitVec 8) (elastic : Option (Fin 8)) (ecc : Ecc) (s : State) : Out :=
  let d := regionOf s core.val region.toNat
  if rState d = 3 ∧ rCtodo d < rCcount d then
    match elastic with
    | none => .next (scheduledEnd s core region.toNat false (consumerDone d))
    | some o => match freeElastic s core region.toNat true with
      | some t =>
        let t1 := elasticEnd t core region.toNat o (consumerDone d)
        .next (if spillReads s core region.toNat then sramError t1 core ecc else t1)
      | none => .next s
  else .next s

end Sys2Proof.Machine
end

