-- ==== Sys2Proof/Machine/MemoryOps.lean ====
section
/-! DEFINITION. What the bank dies do with memory operations (R217, R226, R228 to R230), maintenance and patrol (R225),
the imbalance measure (R223, R224). -/

namespace Sys2Proof.Machine

/-- Tags of a pool (R229). -/
def poolSize : Pool → Nat
  | .general => 15872
  | .fetch => 256
  | .tansy => 256

/-- The pool a requester uses. -/
def requesterPool : Requester → Pool
  | .fetch => .fetch
  | .tansy => .tansy
  | _ => .general

/-- Tags in use on a bank die (OUTST). -/
def tagsOut (s : State) (die : Nat) : Nat := (s.mem.tags.filter fun t => t.die.val == die).length

/-- Tags of a pool in use on a bank die. -/
def poolOut (s : State) (die : Nat) (p : Pool) : Nat :=
  (s.mem.tags.filter fun t => t.die.val == die && t.pool == p).length

/-- The selected bytes of a sector, by number. -/
def maskBytes (mask : BitVec 512) : List Nat := (List.range 512).filter fun i => mask.getLsbD i

/-- The 8-byte words of a sector whose selected bytes are all eight (true) or some but not all (false). -/
def maskWords (mask : BitVec 512) (whole : Bool) : List Nat :=
  (List.range 64).filter fun w =>
    let n := ((List.range 8).filter fun i => mask.getLsbD (8 * w + i)).length
    if whole then n == 8 else decide (0 < n) && decide (n < 8)

/-- The local address of an operation's first byte. -/
def opFirst (m : MemOp) : Nat := 512 * m.sector + (maskBytes m.mask).headD 0

/-- The job causes an operation, not firmware (R456): Tansy and the Ethernet port act for firmware. -/
def jobOp (m : MemOp) : Bool := m.who != .tansy && m.who != .ethernet

/-- The event of a memory operation as the counters see it (R455, R456). -/
def memEvent (m : MemOp) (die code amount : Nat) : Ev :=
  let core := match m.who with
    | .stream c _ => some c.val
    | _ => none
  let engine := match m.who with
    | .stream _ e => some e.val
    | _ => none
  { code := code, core := core, engine := engine, die := some die,
    addr := some (opFirst m), job := jobOp m,
    amount := amount }

/-- Count an operation a bank die takes. -/
def countMemOp (s : State) (m : MemOp) (die : Nat) : State :=
  let n := (maskBytes m.mask).length
  let s1 := countEv s (memEvent m die 0x20 1)
  let s2 := if m.kind = .write then s1 else countEv s1 (memEvent m die 0x21 n)
  let s3 := if m.kind = .read then s2 else countEv s2 (memEvent m die 0x22 n)
  if m.kind = .accumulate then countEv s3 (memEvent m die 0x23 1) else s3

/-- The schedule clk and slot at which the operation issued that a memory operation serves (R236, R267): of a stream engine the
first captured that has elements left in the sector, of Vetch the one it moves for, of a link path the oldest collective
pending; the present clk where there is none (DEDUCED 54). -/
def opIssue (s : State) (m : MemOp) : Nat × Nat :=
  let found : Option (Nat × Nat) := match m.who with
    | .stream core engine => (s.cu.captured.find? fun c =>
        c.core == core.val && c.engine == engine.val && leftIn c m.sector).map fun c => (c.issue, c.slot)
    | .vetch => (vetchFor s m.kind m.sector m.mask).map fun x => (x.issue, 0)
    | .link => s.coll.launches.head?.map fun l => (l.issue, 0)
    | _ => none
  found.getD (clkEnd s, 0)

/-- A tag is allocated and the peak kept (R229). -/
def takeTag (s : State) (m : MemOp) (die : Fin 8) : State :=
  let t : Tag := { die := die, pool := requesterPool m.who, who := m.who, kind := m.kind, sector := m.sector
                   issue := (opIssue s m).1, slot := (opIssue s m).2, waits := none, late := false }
  let s1 := { s with mem := { s.mem with tags := s.mem.tags ++ [t] } }
  let out := tagsOut s1 die
  { s1 with mem := { s1.mem with
      tagPeak := s1.mem.tagPeak.set die (BitVec.ofNat 16 (max (s1.mem.tagPeak.get die).toNat out)) } }

/-- The physical address that an operation's sector reaches: Meadowsweet writes a block of a range to the copy that CUR does not
name, everything else reaches the current version (R272). -/
def opAddr (s : State) (m : MemOp) : Nat :=
  let a := 512 * m.sector
  match rangeOf s a with
  | some r => copyAddr r ((s.mem.cur.get (a / 98304) == 1) != (m.who == .meadowsweet && m.kind == .write)) a
  | none => a

/-- A write to the source copy of a protected page has the page copied first (R361). Meadowsweet's writes do so with their launch,
where their data moves (R273). -/
def firstTouch (s : State) (m : MemOp) (phys die : Nat) : State :=
  if m.kind = .read ∨ m.who = .tansy ∨ m.who = .meadowsweet then s
  else touchWrite s phys { (memEvent m die 0x50 1) with core := none, engine := none }

/-- The selected bytes of a write by a requester other than a stream engine or Vetch. -/
def writeMasked (s : State) (phys : Nat) (m : MemOp) : State :=
  (maskBytes m.mask).foldl (fun s k => writePhys s (phys + k) [m.data.getD k 0]) s

/-- What an operation moves. Meadowsweet's and Tansy's own data move with their launches and copies, a link path's
with its packets; their operations take their tags. -/
def moveData (s : State) (m : MemOp) (phys : Nat) : State :=
  match m.who with
  | .stream core engine => streamSector s core engine m.kind m.sector m.mask
  | .vetch => vetchSector s m.kind m.sector m.mask
  | .ethernet => if m.kind = .write then writeMasked s phys m else s
  | .link => if m.kind = .write then writeMasked s phys m else s
  | .fetch => s
  | .meadowsweet => s
  | .tansy => s

/-- The core whose tile store or buffer gives the data of an operation. -/
def dataCore (s : State) (m : MemOp) : Option Nat :=
  if m.kind = .read then none
  else match m.who with
    | .stream core _ => some core.val
    | .vetch => (vetchFor s m.kind m.sector m.mask).map (·.core)
    | _ => none

/-- The words of a sector that an operation reads at the stack: those it selects; of a write, those it selects in
part (R226). -/
def readWords (m : MemOp) : List Nat :=
  match m.kind with
  | .write => maskWords m.mask false
  | _ => maskWords m.mask false ++ maskWords m.mask true

/-- The words of an operation's reads that are uncorrectable, by physical address: stored so, or the first found so now. -/
def ueWords (s : State) (m : MemOp) (phys : Nat) : List Nat :=
  let ws := ((readWords m).map fun w => phys + 8 * w).filter (badWord s)
  if ws.isEmpty ∧ m.ecc = .uncorrectable then (readWords m).take 1 |>.map fun w => phys + 8 * w else ws

/-- A write or accumulate leaves a word whose read was uncorrectable as it was, all but those it writes whole, whose errors it
removes (R226). -/
def settleWords (old s : State) (m : MemOp) (phys : Nat) (ue : List Nat) : State :=
  if m.kind = .read then s
  else
    let s1 := ue.foldl (fun s a =>
      { s with mem := { s.mem with hbm := s.mem.hbm.setList a (old.mem.hbm.getList a 8) } }) s
    if m.kind = .write then (maskWords m.mask true).foldl (fun s w => markWord s (phys + 8 * w) false) s1 else s1

/-- The stack serves an operation: the copy on first touch, its data, then what its reads met (R226, R228, R361, R115). -/
def serveMemOp (s : State) (m : MemOp) (die : Fin 8) : State :=
  let phys := opAddr s m
  let s1 := firstTouch s m phys die
  let ue := ueWords s1 m phys
  let marked := ue.foldl (fun s a => markWord s a true) s1
  let s2 := settleWords marked (moveData marked m phys) m phys ue
  let s3 := match dataCore s1 m with
    | some core => sramError s2 core m.sram
    | none => s2
  if ue.isEmpty then (if m.ecc = .corrected ∧ !(readWords m).isEmpty then countCe s3 die (opFirst m) (jobOp m) else s3)
  else ue.foldl handleUe s3

/-- A channel of a stack is out of service: for at most 1,200 ticks from the start of the event (R225). -/
def channelOut (s : State) (stack channel : Nat) : Bool :=
  s.mem.maintenance.any fun x => x.1 == stack && x.2.1 == channel && decide (s.uptime < x.2.2 + 1200)

/-- An operation touches a channel out of service, or its requester's earlier operation on its sector waits for one (R225,
R239). -/
def waitsForChannel (s : State) (before : List Tag) (m : MemOp) : Bool :=
  (before.any fun t => t.waits.any fun x => x.who == m.who && x.sector == m.sector) ||
    (!s.mem.maintenance.isEmpty && (maskBytes m.mask).any fun k =>
      let a := opAddr s m + k
      channelOut s (stackOf s.mem.salt a) (channelOf a))

/-- A bank die takes an operation: its tag, and its service at the stack, at once unless a channel makes it wait (R225, R229). -/
def takeMemOp (s : State) (m : MemOp) (die : Fin 8) : State :=
  let s1 := takeTag (countMemOp s m die) m die
  if waitsForChannel s s.mem.tags m then
    { s1 with mem := { s1.mem with tags := modifyAt s1.mem.tags s.mem.tags.length fun t => { t with waits := some m } } }
  else serveMemOp s1 m die

/-- The operations that waited for a channel and need not any longer are served, in the order of their tags. -/
def serveWaiting (s : State) : State :=
  (List.range s.mem.tags.length).foldl (fun s k =>
    match s.mem.tags[k]? with
    | some t => match t.waits with
      | some m =>
        if waitsForChannel s (s.mem.tags.take k) m then s
        else serveMemOp { s with mem := { s.mem with tags := modifyAt s.mem.tags k fun t => { t with waits := none } } } m t.die
      | none => s
    | none => s) s

/-- The bank die that takes an operation. -/
def dieFor (s : State) (m : MemOp) : Fin 8 := ⟨dieOf s (512 * m.sector) % 8, Nat.mod_lt _ (by decide)⟩

/-- No tag of the requester's pool is free on the bank die that takes the operation (R229). -/
def poolFull (s : State) (m : MemOp) : Bool :=
  decide (poolSize (requesterPool m.who) ≤ poolOut s (dieFor s m) (requesterPool m.who))

/-- The operation waits for a tag behind those that wait already (R229); the wait is counted where its own pool is full
(DEDUCED 54). -/
def holdForTag (s : State) (m : MemOp) : State :=
  let die := dieFor s m
  let s1 := { s with mem := { s.mem with held := s.mem.held ++ [m] } }
  if poolFull s m then
    countEv { s1 with mem := { s1.mem with
      tagWaits := s1.mem.tagWaits.set die (BitVec.ofNat 32 (satAdd 32 (s1.mem.tagWaits.get die).toNat 1)) } }
      (memEvent m die 0x24 1)
  else s1

/-- One held operation: taken where it may be, held again behind others of its requester or while its pool is full; one that the
abandonment of the step has cancelled is dropped. -/
def serveOne (opened : Bool) (s : State) (m : MemOp) : State :=
  if opened ∧ !stepOpen s ∧ cancelled m.who then s
  else if poolFull s m ∨ s.mem.held.any (fun x => x.who == m.who) then
    { s with mem := { s.mem with held := s.mem.held ++ [m] } }
  else takeMemOp s m (dieFor s m)

/-- The operations that waited for a tag take those that are free, in order of arrival, none before an earlier one of its
requester (R229, R230). One that cancels the step takes the later ones of the step with it (R169). -/
def serveHeld (s : State) : State :=
  s.mem.held.foldl (serveOne (stepOpen s)) { s with mem := { s.mem with held := [] } }

/-- MEMORY_OPERATION (R217, R225, R226, R229). An operation outside HBM is dropped, and counted where it came over a link
or the Ethernet port (R215). -/
def execMemoryOperation (m : MemOp) (s : State) : Out :=
  if hbmLimit ≤ 512 * m.sector then
    if m.who = .link ∨ m.who = .ethernet then .next { s with mem := { s.mem with dropped := s.mem.dropped + 1 } }
    else .next s
  else if poolFull s m ∨ s.mem.held.any (fun x => x.who == m.who) then .next (holdForTag s m)
  else .next (takeMemOp s m (dieFor s m))

/-- An operation of the stream engine's to the sector has asked the bank die for accumulates that are not yet applied. -/
def accumulating (s : State) (t : Tag) : Bool :=
  match t.who with
  | .stream core engine => s.cu.captured.any fun c => c.core == core.val && c.engine == engine.val &&
      c.asked.any fun x => (unitAddrs c x.1).any fun a => a / 512 == t.sector
  | _ => false

/-- A tag may free: its operation has been served, its accumulates applied (R229). -/
def tagReady (s : State) (t : Tag) : Bool :=
  t.waits.isNone && !(t.kind == .accumulate && accumulating s t)

/-- MEMORY_OPERATION_COMPLETE (R229): the oldest tag of the pool on the bank die that may free does, and operations that wait
for a tag go on; a response that comes too late for its position is discarded and counted (R133). -/
def execMemoryOperationComplete (die : Fin 8) (pool : Pool) (s : State) : Out :=
  match takeFirst (fun (t : Tag) => t.die == die && t.pool == pool && tagReady s t) s.mem.tags with
  | some r => .next (serveHeld { s with mem := { s.mem with
      tags := r.2, lateCount := s.mem.lateCount + r.1.late.toNat } })
  | none => .next s

/-- PATROL_SCRUB (R225, R226): a maintenance read of the word at a physical address. -/
def execPatrolScrub (addr : Nat) (ecc : Ecc) (s : State) : Out :=
  if hbmLimit ≤ addr then .next s
  else
    let s1 := { s with mem := { s.mem with patrol := addr } }
    if ecc = .uncorrectable ∨ badWord s addr then .next (handleUe s1 addr)
    else if ecc = .corrected then .next (countCe s1 (dieOf s addr) (copyOf s addr).1 false)
    else .next s1

/-- HBM_MAINTENANCE (R225): a channel of a stack goes out of service, or none of it is any longer; a stack has at most one.
Operations that waited go on when their channels are in service. -/
def execHbmMaintenance (stack : Fin 24) (channel : Option (Fin 32)) (s : State) : Out :=
  let others := s.mem.maintenance.filter fun x => x.1 != stack.val
  .next (serveWaiting { s with mem := { s.mem with
    maintenance := match channel with
      | some c => others ++ [(stack.val, c.val, s.uptime)]
      | none => others } })

/-- The deepest stack of a window: the lowest of the largest means. -/
def deepest (means : List Nat) : Nat := means.findIdx (· == means.foldl max 0)

/-- IMBALANCE_WINDOW (R223, R224): the means of the 24 stacks over 10 ms. After 1,000 consecutive windows whose ratio
exceeds 4, IMBAL is set and, under AUTOKEY, a re-key is pending: at the 1,000th window of a run, not again while the same run
goes on. RATIO is rounded down to its unit of 1/4 (DESIGN CHOICE 55). -/
def execImbalanceWindow (means : List Nat) (s : State) : Out :=
  let ms := means.take 24
  let top := ms.foldl max 0
  let sum := ms.sum
  let exceeds := decide (4 * sum < 24 * top)
  let ratio := if sum = 0 then 0 else min 255 (4 * 24 * top / sum)
  let n := if exceeds then satAdd 16 s.mem.imbalWindows.toNat 1 else 0
  let s1 := { s with mem := { s.mem with
    imbalStack := BitVec.ofNat 5 (deepest ms), imbalRatio := BitVec.ofNat 8 ratio, imbalWindows := BitVec.ofNat 16 n } }
  if n = 1000 then
    let s2 := { s1 with mem := { s1.mem with imbal := true, keyPending := s1.mem.keyPending || s1.mem.autokey } }
    .next (report s2 0x0C (deepest ms))
  else .next s1

end Sys2Proof.Machine
end

