-- ==== Sys2Proof/Machine/Groups.lean ====
section
/-! DEFINITION. Collective descriptors (R327, R328), groups and trees (R324, R325), and the arithmetic of reductions
(R329, R335, R336). -/

namespace Sys2Proof.Machine

/-! ### Descriptors -/

/-- Collective descriptor n of the job image. -/
def collDescr (s : State) (n : Nat) : BitVec 512 := entryBits 512 (sectionEntry s 13 64 n)

/-- The job image declares it. -/
def collDeclared (s : State) (n : Nat) : Bool := decide (n < sectionCount s 13 64)

/-- KIND. -/
def cKind (d : BitVec 512) : Nat := fld d 3 0
/-- OP. -/
def cOp (d : BitVec 512) : Nat := fld d 7 4
/-- FMT. -/
def cFmt (d : BitVec 512) : Nat := fld d 11 8
/-- WIRE. -/
def cWire (d : BitVec 512) : Bool := flag d 12
/-- LOCAL. -/
def cLocal (d : BitVec 512) : Bool := flag d 13
/-- AXES. -/
def cAxes (d : BitVec 512) : Nat := fld d 18 16
/-- SCHAN. -/
def cSchan (d : BitVec 512) : Nat := fld d 25 20
/-- RCHAN. -/
def cRchan (d : BitVec 512) : Nat := fld d 31 26
/-- The cores of CORES. -/
def cCores (d : BitVec 512) : List Nat := bitsOf (fld d 47 32) 16
/-- ELEMS. -/
def cElems (d : BitVec 512) : Nat := fld d 95 64
/-- TIMEOUT, in slots. -/
def cTimeout (d : BitVec 512) : Nat := fld d 63 48
/-- PORT. -/
def cPort (d : BitVec 512) : Nat := fld d 98 96
/-- DEPTH. -/
def cDepth (d : BitVec 512) : Nat := fld d 111 104
/-- QBASE. -/
def cQbase (d : BitVec 512) : Nat := fld d 171 128

/-- Kinds that reduce: all-reduce, reduce-scatter, reduce. -/
def reduces (d : BitVec 512) : Bool := cKind d == 1 || cKind d == 2 || cKind d == 5

/-- N, the elements of a device's vector (R328). -/
def vectorElems (d : BitVec 512) : Nat := if cLocal d then cElems d else (cCores d).length * cElems d

/-- The format on the wire: binary32 partials of a BF16 sum with WIRE 0, else FMT (R336). -/
def wireFmt (d : BitVec 512) : Nat :=
  if reduces d ∧ cOp d = 0 ∧ cFmt d = 1 ∧ !cWire d then 0 else cFmt d

/-- Bytes of a vector of n elements on the wire: the elements packed, then the scale bytes of MX blocks. -/
def wireBytes (d : BitVec 512) (n : Nat) : Nat := stashBytes (wireFmt d) n

/-- Chunks of one device's vector (R333). -/
def vectorChunks (d : BitVec 512) : Nat := ceilDiv (wireBytes d (vectorElems d)) 4096

/-- Chunk j of a vector: 4,096 bytes, the last padded with zero to a multiple of 32. -/
def chunkOf (v : List Byte) (j : Nat) : List Byte :=
  let bs := bytesAt v (4096 * j) 4096
  bs ++ List.replicate (32 * ceilDiv bs.length 32 - bs.length) 0

/-! ### Groups and trees -/

/-- Relative position of a logical rank on an axis. -/
def rankPos (t : List Byte) (r axis : Nat) : Nat :=
  match axis with
  | 0 => r % sliceExtent t 0
  | 1 => r / sliceExtent t 0 % sliceExtent t 1
  | _ => r / (sliceExtent t 0 * sliceExtent t 1)

/-- The logical rank of a position. -/
def posRank (t : List Byte) (x y z : Nat) : Nat := x + sliceExtent t 0 * (y + sliceExtent t 1 * z)

/-- A rank moved to position v of an axis. -/
def moveRank (t : List Byte) (r axis v : Nat) : Nat :=
  let at' := fun (a : Nat) => if a = axis then v else rankPos t r a
  posRank t (at' 0) (at' 1) (at' 2)

/-- This device's logical rank. -/
def myRank (s : State) : Nat := rankOf s (jobTopo s) (myCoord s)

/-- Members of a rank's group over an axis set, in logical-rank order (R324). -/
def groupMembers (t : List Byte) (axes r : Nat) : List Nat :=
  (List.range (sliceSize t)).filter fun m => (List.range 3).all fun a => axes.testBit a || rankPos t m a == rankPos t r a

/-- The parent of a member (R325). -/
def treeParent (t : List Byte) (axes r : Nat) : Option Nat :=
  ((List.range 3).find? fun a => axes.testBit a && rankPos t r a != 0).map fun a =>
    let k := rankPos t r a
    let n := sliceExtent t a
    if sliceWraps t a ∧ ceilDiv (n - 1) 2 < k then moveRank t r a ((k + 1) % n) else moveRank t r a (k - 1)

/-- The children of a member. -/
def treeChildren (t : List Byte) (axes r : Nat) : List Nat :=
  (groupMembers t axes r).filter fun m => treeParent t axes m == some r

/-- A member lies in the subtree of a rank; 192 steps pass any tree. -/
def inSubtree (t : List Byte) (axes top : Nat) : Nat → Nat → Bool
  | 0, m => m == top
  | n + 1, m => m == top || (match treeParent t axes m with
      | some p => inSubtree t axes top n p
      | none => false)

/-- The neighbours of R343 in the job, by label. -/
def ringLabels (s : State) : List Nat := (List.range 6).filter fun l => leased s && sliceUsesLabel s (jobTopo s) (myCoord s) l

/-- The rank a label leads to within the job, for relays and queues. -/
def labelRank (s : State) (l : Nat) : Option Nat :=
  if l = 6 then
    let c := mapCoord s.link.topo 6
    if mapEnabled s.link.topo 6 ∧ inSlice s (jobTopo s) c then some (rankOf s (jobTopo s) c) else none
  else if sliceUsesLabel s (jobTopo s) (myCoord s) l then
    some (rankOf s (jobTopo s) (neighbour s (myCoord s) l))
  else none

/-! ### Reduction arithmetic -/

/-- A wire element as a number, subnormals under R63. -/
def wireNum (p1 : Bool) (fmt bits : Nat) : Num :=
  if fmt = 1 then bfIn p1 (BitVec.ofNat 16 bits) else f32In p1 (BitVec.ofNat 32 bits)

/-- round_w of R336. -/
def wireRound (p1 : Bool) (fmt : Nat) (x : Num) : Nat := if fmt = 1 then (rneBf p1 x).toNat else (rne32p p1 x).toNat

/-- Combine elements in order (R336); a NaN that stands alone becomes canonical too (R39). -/
def combineElems (profile op fmt : Nat) (xs : List Nat) : Nat :=
  let p1 := profile == 1
  let num := wireNum p1 fmt
  match xs with
  | [] => 0
  | x :: rest =>
    match op with
    | 0 =>
      if profile = 3 then wireRound p1 fmt (Num.sum (xs.map num))
      else rest.foldl (fun t y => wireRound p1 fmt (Num.add (num t) (num y)))
        (if num x = .nan then wireRound p1 fmt .nan else x)
    | 1 => wireRound p1 fmt (rest.foldl (fun t y => numMax t (num y)) (num x))
    | _ => wireRound p1 fmt (rest.foldl (fun t y => numMin t (num y)) (num x))

/-- A wire element is non-finite. -/
def wireNonfinite (fmt bits : Nat) : Bool :=
  if fmt = 1 then nonfiniteBf (BitVec.ofNat 16 bits) else nonfinite32 (BitVec.ofNat 32 bits)

/-- Bytes of a wire element of a reduction. -/
def wireSize (fmt : Nat) : Nat := if fmt = 1 then 2 else 4

/-- Combine chunks element by element, with whether an input or a result is non-finite. -/
def combineChunks (profile op fmt : Nat) (cs : List (List Byte)) : List Byte × Bool :=
  let w := wireSize fmt
  let n := (cs.headD []).length / w
  let cols := (List.range n).map fun i => cs.map fun c => numAt c (w * i) w
  let res := cols.map (combineElems profile op fmt)
  (res.flatMap (leBytes w), cols.any (fun x => x.any (wireNonfinite fmt)) || res.any (wireNonfinite fmt))

/-- The parts of the cores combined on chip (R329): cores 0 to 7, then 8 to 15, then the two results; in P3 all parts
at once. -/
def combineLocal (profile op fmt : Nat) (parts : List (Nat × Nat)) : Nat :=
  if profile = 3 then combineElems profile op fmt (parts.map (·.2))
  else
    let half := fun (p : Nat → Bool) => (parts.filter fun x => p x.1).map (·.2)
    let west := half fun c => decide (c < 8)
    let east := half fun c => decide (8 ≤ c)
    let one := combineElems profile op fmt
    if west.isEmpty then one east else if east.isEmpty then one west else one [one west, one east]

end Sys2Proof.Machine
end

