-- ==== Sys2Proof/Machine/Joins.lean ====
section
/-! DEFINITION. Joins over the job tree: the commit reduction (exchange 0x000, R275, R347) and the start and recovery barriers
(exchange 0x001, R321, R367, R370); the edges of trees and the way of their traffic (R325, R326). -/

namespace Sys2Proof.Machine

/-! ### Edges -/

/-- The label on which a member leaves toward its parent (R325). -/
def parentLabel (t : List Byte) (axes r : Nat) : Option Nat :=
  ((List.range 3).find? fun a => axes.testBit a && rankPos t r a != 0).map fun a =>
    if sliceWraps t a ∧ ceilDiv (sliceExtent t a - 1) 2 < rankPos t r a then 2 * a else 2 * a + 1

/-- The label of the tree edge from one member to another, its parent or its child. -/
def treeLabel (t : List Byte) (axes r q : Nat) : Option Nat :=
  if treeParent t axes r = some q then parentLabel t axes r
  else if treeParent t axes q = some r then (parentLabel t axes q).map reverseLabel
  else none

/-- The port on which traffic over a link of this device leaves: the link, or a detour (R305, R326); what the Twin link does not
carry goes over the torus. -/
def edgePort (s : State) (tree : Bool) (l : Nat) (d : BitVec 18) : Option Nat :=
  if l = 6 then (if twinDown s then (nextLabel s (myCoord s) d).bind (labelPort s) else some 6)
  else (labelPath s tree (myCoord s) d l).bind fun p => p.1.head?.bind (labelPort s)

/-- Bytes 20 to 27 of a system exchange (R334, R343). -/
def systemAux (s : State) (exchange : Nat) (down : Bool) (chunk : Nat) : Nat :=
  exchange + (if down then 4096 else 0) + 32768 + fld s.coll.layout 15 0 * 2 ^ 16 + chunk % 2 ^ 32 * 2 ^ 32

/-- Send a payload of an exchange to a neighbour in the job tree, in packets of 4,096 bytes; those of a commit reduction take the
count of the link on which they leave (R279) as they leave. -/
def sendJoin (s : State) (exchange rank : Nat) (down : Bool) (bs : List Byte) : State :=
  let t := jobTopo s
  match (treeLabel t 7 (myRank s) rank).bind fun l => edgePort s true l (rankCoord s t rank) with
  | none => dropPacket s
  | some port =>
    (List.range (ceilDiv bs.length 4096)).foldl (fun s k =>
      transmit s port (newPacket s (rankCoord s t rank) 2 (systemAux s exchange down 0)
        (padPayload (bytesAt bs (4096 * k) (min 4096 (bs.length - 4096 * k)))))) s

/-! ### Payloads -/

/-- The smaller of two values. -/
def lesser {w : Nat} (a b : BitVec w) : BitVec w := if a.toNat < b.toNat then a else b

/-- The larger of two values. -/
def greater {w : Nat} (a b : BitVec w) : BitVec w := if a.toNat < b.toNat then b else a

/-- The join of two recovery payloads (R367). -/
def joinPayloads (a b : RecoveryPayload) : RecoveryPayload :=
  { need := a.need || b.need, mismatch := a.mismatch || b.mismatch, none := a.none || b.none
    target := lesser a.target b.target, rmin := lesser a.rmin b.rmin, rmax := greater a.rmax b.rmax }

/-- A recovery barrier payload of 24 bytes (R367), filled up to the 32 of a packet. -/
def barrierBytes (phase : Nat) (p : RecoveryPayload) : List Byte :=
  leBytes 1 phase ++ leBytes 1 (p.need.toNat + 2 * p.mismatch.toNat + 4 * p.none.toNat) ++ List.replicate 6 0 ++
    leBytes 8 p.target.toNat ++ leBytes 4 p.rmin.toNat ++ leBytes 4 p.rmax.toNat ++ List.replicate 8 0

/-- The payload in the bytes of a barrier packet. -/
def barrierOf (b : List Byte) : RecoveryPayload :=
  let f := numAt b 1 1
  { need := f.testBit 0, mismatch := f.testBit 1, none := f.testBit 2, target := BitVec.ofNat 64 (numAt b 8 8)
    rmin := BitVec.ofNat 32 (numAt b 16 4), rmax := BitVec.ofNat 32 (numAt b 20 4) }

/-- The join of two payloads of an exchange: of a commit reduction the OR of NF and BUSY and each PENDING maximum (R347, R357), of
a barrier the join of R367. -/
def joinBytes (exchange : Nat) (a b : List Byte) : List Byte :=
  if exchange = 0 then
    leBytes 1 (numAt a 0 1 ||| numAt b 0 1) ++
      (List.range ((a.length - 1) / 4)).flatMap fun i => leBytes 4 (max (numAt a (1 + 4 * i) 4) (numAt b (1 + 4 * i) 4))
  else barrierBytes (numAt a 0 1) (joinPayloads (barrierOf a) (barrierOf b))

/-- Bytes of a payload of an exchange before its padding. -/
def joinLength (s : State) (exchange : Nat) : Nat := if exchange = 0 then 1 + 4 * scaleCount s else 32

/-! ### The join at a node -/

/-- The join of an exchange. -/
def joinOf (s : State) (exchange : Nat) : TreeJoin := if exchange = 0 then s.coll.reduction else s.coll.barrier

/-- Replace the join of an exchange. -/
def setJoin (s : State) (exchange : Nat) (j : TreeJoin) : State :=
  if exchange = 0 then { s with coll := { s.coll with reduction := j } } else { s with coll := { s.coll with barrier := j } }

/-- What the root adds to the joined payload: at the start of a job and at a restart the origin (R321, R370), in bytes 24 to 31
(DESIGN CHOICE 12). -/
def rootPayload (s : State) (exchange : Nat) (bs : List Byte) : List Byte :=
  let o : DWord := BitVec.ofNat 64 (2 ^ 20 * (s.time.epoch.toNat / 2 ^ 20 + 2))
  let slotq := match s.rsl.record with
    | some r => r.slotq
    | none => 0
  let origin : DWord := match numAt bs 0 1 with
    | 0 => o
    | 2 => o - 512 * slotq
    | _ => 0
  if exchange = 0 then bs else bytesAt bs 0 24 ++ leBytes 8 origin.toNat

/-- The joined payload reaches this device, and goes on to its children. -/
def joinDown (s : State) (exchange : Nat) (bs : List Byte) : State :=
  let s1 := setJoin s exchange { joinOf s exchange with part := [], down := some bs }
  (treeChildren (jobTopo s) 7 (myRank s)).foldl (fun s c => sendJoin s exchange c true bs) s1

/-- A child's payload is whole and of the phase of this device's own (R367). -/
def kidMeets (s : State) (exchange : Nat) (own : List Byte) (k : Nat × List Byte) : Bool :=
  decide (joinLength s exchange ≤ k.2.length) && (exchange == 0 || numAt k.2 0 1 == numAt own 0 1)

/-- Once this device's own payload and every child's are there, the join goes up, or at the root down (R321, R341, R347). -/
def tryJoin (s : State) (exchange : Nat) : State :=
  let t := jobTopo s
  let j := joinOf s exchange
  match j.own with
  | none => s
  | some own =>
    let mine := j.kids.filter (kidMeets s exchange own)
    if (treeChildren t 7 (myRank s)).all fun c => mine.any fun k => k.1 == c then
      let v := mine.foldl (fun v k => joinBytes exchange v k.2) own
      let s1 := setJoin s exchange { j with kids := j.kids.filter fun k => !kidMeets s exchange own k, own := none }
      match treeParent t 7 (myRank s) with
      | some p => sendJoin s1 exchange p false v
      | none => joinDown s1 exchange (rootPayload s1 exchange v)
    else s

/-- This device takes part in a join with its own payload, once. -/
def enterJoin (s : State) (exchange : Nat) (own : List Byte) : State :=
  let j := joinOf s exchange
  if j.entered then s else tryJoin (setJoin s exchange { j with own := some own, entered := true }) exchange

/-- The joined payload has been acted on. -/
def leaveJoin (s : State) (exchange : Nat) : State :=
  setJoin s exchange { joinOf s exchange with own := none, entered := false, part := [], down := none }

/-- A payload comes up from a child, in one packet or several. -/
def joinFromChild (s : State) (exchange rank : Nat) (bs : List Byte) : State :=
  let j := joinOf s exchange
  let open' := fun (k : Nat × List Byte) => k.1 == rank && decide (k.2.length < joinLength s exchange)
  let kids := if j.kids.any open' then changeFirst open' (fun k => (k.1, k.2 ++ bs)) j.kids else j.kids ++ [(rank, bs)]
  tryJoin (setJoin s exchange { j with kids := kids }) exchange

/-- The joined payload comes down from the parent, in one packet or several. -/
def joinFromParent (s : State) (exchange : Nat) (bs : List Byte) : State :=
  let j := joinOf s exchange
  let got := j.part ++ bs
  if !j.entered then s
  else if joinLength s exchange ≤ got.length then joinDown s exchange (bytesAt got 0 (joinLength s exchange))
  else setJoin s exchange { j with part := got }

/-- A packet of a join arrives (R334). -/
def joinPacket (s : State) (exchange rank : Nat) (down : Bool) (bs : List Byte) : State :=
  let t := jobTopo s
  if bs = [] then s
  else if down then (if treeParent t 7 (myRank s) = some rank then joinFromParent s exchange bs else s)
  else if (treeChildren t 7 (myRank s)).contains rank then joinFromChild s exchange rank bs
  else s

end Sys2Proof.Machine
end

