-- ==== Sys2Proof/Machine/Collectives.lean ====
section
/-! DEFINITION. Collective launches (R330 to R342): channels and bindings, credit, the start of a launch, chunks up and down the
tree, relays, queues, and layout epochs (R343 to R345). -/

namespace Sys2Proof.Machine

/-! ### Bindings a launch needs on this device (R328) -/

/-- This device is the root of the descriptor's group. -/
def isRoot (s : State) (d : BitVec 512) : Bool := (treeParent (jobTopo s) (cAxes d) (myRank s)).isNone

/-- Members of the descriptor's group, G. -/
def groupSizeOf (s : State) (d : BitVec 512) : Nat := (groupMembers (jobTopo s) (cAxes d) (myRank s)).length

/-- Devices of the ring of the axis of PORT, P (R339). -/
def ringSize (s : State) (d : BitVec 512) : Nat := sliceExtent (jobTopo s) (cPort d / 2)

/-- A core's send binding is required. -/
def sendNeeded (s : State) (d : BitVec 512) : Bool :=
  match cKind d with
  | 4 => isRoot s d
  | 6 => false
  | 7 => (labelRank s (cPort d)).isSome
  | 8 => (labelRank s (cPort d)).isSome
  | _ => true

/-- Receive bindings of a core that are required. -/
def recvNeeded (s : State) (d : BitVec 512) : Nat :=
  match cKind d with
  | 4 => if isRoot s d then 0 else 1
  | 5 => if isRoot s d then 1 else 0
  | 6 => 0
  | 7 => if (labelRank s (reverseLabel (cPort d))).isSome then ringSize s d - 1 else 0
  | 8 => if (labelRank s (reverseLabel (cPort d))).isSome then 1 else 0
  | _ => 1

/-- Elements of a receive binding. -/
def recvElems (s : State) (d : BitVec 512) : Nat :=
  match cKind d with
  | 2 => vectorElems d / (groupSizeOf s d * (cCores d).length)
  | 3 => groupSizeOf s d * cElems d
  | _ => cElems d

/-- Descriptors that declare a channel for sending, or receiving. -/
def channelDescs (s : State) (chan : Nat) (send : Bool) : List Nat :=
  (List.range (sectionCount s 13 64)).filter fun n =>
    let d := collDescr s n
    cKind d != 6 && (if send then cSchan d else cRchan d) == chan

/-- A launch still lacks a core's binding. -/
def lacksBinding (s : State) (core : Nat) (send : Bool) (l : Launch) : Bool :=
  if send then !(l.sends.any fun b => b.core == core)
  else decide ((l.recvs.filter fun b => b.core == core).length < recvNeeded s (collDescr s l.desc))

/-- A launch not yet registered. -/
def newLaunch (s : State) (desc issue : Nat) : Launch :=
  { desc := desc, slot := 0, issue := issue, lane := 0, registered := false, started := false, slipped := false, slips := 0,
    epoch := s.coll.layout, sends := [], recvs := [], vector := [], chunks := [], result := [], seen := [], given := [] }

/-- The descriptor a channel operation binds to: that of the oldest launch that lacks this core's binding, else the
first that declares the channel (DEDUCED 33). -/
def bindTarget (s : State) (core chan : Nat) (send : Bool) : Option Nat :=
  let ds := channelDescs s chan send
  match s.coll.launches.find? (fun l => ds.contains l.desc && lacksBinding s core send l) with
  | some l => some l.desc
  | none => ds.head?

/-- Attach a binding to the oldest launch of the descriptor that lacks it, or to a new one. -/
def attach (s : State) (desc issue : Nat) (send : Bool) (b : Binding) : State :=
  let fits := fun (l : Launch) => l.desc == desc && lacksBinding s b.core send l
  let put := fun (l : Launch) =>
    if send then { l with sends := l.sends ++ [b] }
    else { l with recvs := l.recvs ++ [{ b with step := (l.recvs.filter fun x => x.core == b.core).length + 1 }] }
  let ls := s.coll.launches
  let ls' := if ls.any fits then changeFirst fits put ls else ls ++ [put (newLaunch s desc issue)]
  { s with coll := { s.coll with launches := ls' } }

/-! ### The device's own vector -/

/-- Element k of a binding's region in wire format: BF16 widens to binary32 where partials are binary32. -/
def wireElem (s : State) (d : BitVec 512) (b : Binding) (k : Nat) : Nat :=
  let bits := regionBits s b.core b.regDesc 1 k
  if wireFmt d ≠ cFmt d then bits * 65536 else bits

/-- The send bindings in core order. -/
def sendOrder (l : Launch) : List Binding :=
  (List.range 16).flatMap fun c => l.sends.filter fun b => b.core == c

/-- The vector of this device on the wire, with whether an on-chip combination met a non-finite value. -/
def ownVector (s : State) (d : BitVec 512) (l : Launch) : List Byte × Bool :=
  let bs := sendOrder l
  let fmt := wireFmt d
  let n := vectorElems d
  let scales := if isMX fmt then bs.flatMap fun b =>
      (List.range (b.count / 32)).map fun j => storeByte s b.core (rSpace b.regDesc) (regionScale b.regDesc 1 (32 * j))
    else []
  if cLocal d then
    let cols := (List.range n).map fun k => bs.map fun b => (b.core, wireElem s d b k)
    let vals := cols.map (combineLocal (jobProfile s) (cOp d) fmt)
    (packBits (fmtBits fmt) vals ((n * fmtBits fmt + 7) / 8),
      cols.any (fun x => x.any fun y => wireNonfinite fmt y.2) || vals.any (wireNonfinite fmt))
  else
    let vals := bs.flatMap fun b => (List.range b.count).map (wireElem s d b)
    (packBits (fmtBits fmt) vals ((n * fmtBits fmt + 7) / 8) ++ scales, false)

/-! ### Packets of a launch -/

/-- Bytes 20 to 27 of a collective packet (R334). -/
def collAux (l : Launch) (down : Bool) (index : Nat) : Nat :=
  l.desc + (if down then 4096 else 0) + (if l.slipped then 8192 else 0) + fld l.epoch 15 0 * 2 ^ 16 + index * 2 ^ 32

/-- The label on which a packet of a launch leaves toward a rank: that of the tree edge, or of PORT and its reverse for what
returns. -/
def chunkLabel (s : State) (d : BitVec 512) (rank : Nat) (down : Bool) : Option Nat :=
  if 7 ≤ cKind d then some (if down then reverseLabel (cPort d) else cPort d)
  else treeLabel (jobTopo s) (cAxes d) (myRank s) rank

/-- A packet of a launch leaves. -/
def emit (s : State) (desc rank : Nat) (down : Bool) (aux : Nat) (data : List Byte) : State :=
  let d := collDescr s desc
  let c := rankCoord s (jobTopo s) rank
  match (chunkLabel s d rank down).bind fun l => edgePort s (decide (cKind d < 7)) l c with
  | some port => transmit s port (newPacket s c 2 aux data)
  | none => dropPacket s

/-! ### Credit (R333, R337, R339) -/

/-- The key of an edge's credit. -/
def creditKey (desc rank : Nat) (down : Bool) : Nat := desc * 2 ^ 19 + 2 * rank + down.toNat

/-- The chunks on an edge that wait. -/
def Wait.key (w : Wait) : Nat := creditKey w.desc w.rank w.down

/-- Send a chunk to a rank of the job, on credit: barriers carry no data, and a queue has its own credits (R340). -/
def sendChunk (s : State) (l : Launch) (rank : Nat) (down : Bool) (index : Nat) (data : List Byte) : State :=
  let kind := cKind (collDescr s l.desc)
  let k := creditKey l.desc rank down
  let n := (s.coll.credit.get k).toNat
  if kind = 6 ∨ kind = 8 then emit s l.desc rank down (collAux l down index) data
  else if 0 < n ∧ s.coll.waits.all (fun w => w.key != k) then
    emit { s with coll := { s.coll with credit := s.coll.credit.set k (BitVec.ofNat 32 (n - 1)) } }
      l.desc rank down (collAux l down index) data
  else
    { s with coll := { s.coll with waits := s.coll.waits ++
        [{ desc := l.desc, rank := rank, down := down, aux := collAux l down index, data := data, since := s.time.epoch }] } }

/-- Credit arrives on an edge: chunks that waited leave in order; what is left is blocked from now on (R338). -/
def takeCredit (s : State) (desc rank : Nat) (down : Bool) (more : Nat) : State :=
  let k := creditKey desc rank down
  let n := (s.coll.credit.get k).toNat + more
  let mine := s.coll.waits.filter fun w => w.key == k
  let left := (mine.drop n).map fun w => { w with since := s.time.epoch }
  let s1 := { s with coll := { s.coll with
    credit := s.coll.credit.set k (BitVec.ofNat 32 (n - mine.length))
    waits := s.coll.waits.filter (fun w => w.key != k) ++ left } }
  (mine.take n).foldl (fun s w => emit s w.desc w.rank w.down w.aux w.data) s1

/-- The edge that a chunk comes over. -/
def Chunk.edge (c : Chunk) : Nat := 2 * c.rank + c.down.toNat

/-- Replace launch i. -/
def setLaunch (s : State) (i : Nat) (l : Launch) : State :=
  { s with coll := { s.coll with launches := modifyAt s.coll.launches i fun _ => l } }

/-- Set the collective engine's non-finite flag. -/
def flagColl (s : State) (bad : Bool) : State := if bad then { s with coll := { s.coll with nonfin := true } } else s

/-! ### Delivery -/

/-- Byte o of the wire data whose first chunk is `base`, if its chunk has arrived. -/
def resultByte (l : Launch) (base o : Nat) : Option Byte :=
  (l.result.find? fun c => c.index == base + o / 4096).map fun c => c.data.getD (o % 4096) 0

/-- Where element e of a binding lies: its chunk base and its index within that vector of n elements. -/
def bindingElem (s : State) (d : BitVec 512) (b : Binding) (k : Nat) : Nat × Nat :=
  let cores := cCores d
  let i := cores.findIdx (· == b.core)
  let n := vectorElems d
  match cKind d with
  | 2 =>
    let g := (groupMembers (jobTopo s) (cAxes d) (myRank s)).findIdx (· == myRank s)
    (0, g * (n / groupSizeOf s d) + i * b.count + k)
  | 3 => ((i * b.count + k) / n * vectorChunks d, (i * b.count + k) % n)
  | 7 => ((b.step - 1) * vectorChunks d, i * b.count + k)
  | _ => (0, (if cLocal d then 0 else i * b.count) + k)

/-- Byte offset in a vector of the scale byte of the block of element e. -/
def wireScale (d : BitVec 512) (e : Nat) : Nat := (vectorElems d * fmtBits (wireFmt d) + 7) / 8 + e / 32

/-- Bytes of a queue slot: c × ELEMS elements rounded up to 4 KiB (R340). -/
def slotBytes (d : BitVec 512) : Nat := 4096 * vectorChunks d

/-- Address of the slot of item k. -/
def slotAddr (d : BitVec 512) (k : Nat) : Nat := cQbase d + k % max 1 (cDepth d) * slotBytes d

/-- The receive bindings of a launch that its cores need, by number. -/
def recvBound (s : State) (l : Launch) : Bool :=
  decide ((cCores (collDescr s l.desc)).length * recvNeeded s (collDescr s l.desc) ≤ l.recvs.length)

/-- The launch is the one that takes the next item of its queue, and the item has arrived (R340). -/
def itemDue (s : State) (l : Launch) : Bool :=
  decide ((s.coll.itemsOut.get l.desc).toNat < (s.coll.itemsIn.get l.desc).toNat) &&
    (s.coll.launches.find? fun x => x.desc == l.desc && !(recvBound s x && x.recvs.all (·.doneB))) == some l

/-- Byte o of the wire data of a launch whose first chunk is `base`: of a queue item as it lies in its slot, of anything else as it
arrived, if it has. -/
def wireByte (s : State) (d : BitVec 512) (l : Launch) (base o : Nat) : Option Byte :=
  if cKind d = 8 then some (memByte s (slotAddr d (s.coll.itemsOut.get l.desc).toNat + o)) else resultByte l base o

/-- Every byte of a binding's elements has arrived. -/
def bindingReady (s : State) (d : BitVec 512) (l : Launch) (b : Binding) : Bool :=
  if cKind d = 8 then itemDue s l
  else (List.range b.count).all fun k =>
    let p := bindingElem s d b k
    let w := fmtBits (wireFmt d)
    (resultByte l p.1 (p.2 * w / 8)).isSome && (resultByte l p.1 ((p.2 * w + w - 1) / 8)).isSome &&
      (!isMX (wireFmt d) || (resultByte l p.1 (wireScale d p.2)).isSome)

/-- Write element k of a receive binding into its region (R205, R336), with whether the value written is
non-finite. WIDEN is a widening conversion: its flags are the core's (R58), and no profile flushes its result (R63). -/
def deliverElem (d : BitVec 512) (l : Launch) (b : Binding) (acc : State × Bool) (k : Nat) : State × Bool :=
  let s := acc.1
  let p := bindingElem s d b k
  let w := fmtBits (wireFmt d)
  let get := fun (o : Nat) => (wireByte s d l p.1 o).getD 0
  let bits := bitsAt get (p.2 * w / 8) (p.2 * w % 8) w
  let scale := if isMX (wireFmt d) then (get (wireScale d p.2)).toNat else 0
  if b.widen then
    let r := convertTo 1 .rne false false 0 (elementNum (wireFmt d) bits scale)
    (setFlags (putRegionBits s b.core b.regDesc 1 k r.bits) b.core r.nonfin r.clamped, acc.2)
  else if wireFmt d ≠ cFmt d then
    let v := (rneBf (isP1 s) (f32In (isP1 s) (BitVec.ofNat 32 bits))).toNat
    (putRegionBits s b.core b.regDesc 1 k v, acc.2 || wireNonfinite 1 v)
  else
    let s1 := putRegionBits s b.core b.regDesc 1 k bits
    (if isMX (wireFmt d) ∧ k % 32 = 0 then
      putStore s1 b.core (rSpace b.regDesc) (regionScale b.regDesc 1 k) [BitVec.ofNat 8 scale] else s1, acc.2)

/-- Write every receive binding of launch i whose data has arrived. -/
def deliver (s : State) (i : Nat) : State :=
  match s.coll.launches[i]? with
  | none => s
  | some l =>
    let d := collDescr s l.desc
    let due := l.recvs.filter fun b => !b.doneB && bindingReady s d l b
    if due.isEmpty then s
    else
      let r := due.foldl (fun acc b =>
        (List.range b.count).foldl (deliverElem d l b) (withStores acc.1 b.core (clkEnd s), acc.2)) (s, false)
      let l1 := { l with recvs := l.recvs.map fun b => if due.contains b then { b with doneB := true } else b }
      let s1 := flagColl (setLaunch r.1 i l1) (r.2 && reduces d)
      if cKind d = 8 ∧ recvBound s1 l1 ∧ l1.recvs.all (·.doneB) then
        let s2 := { s1 with coll := { s1.coll with itemsOut := s1.coll.itemsOut.modify l.desc (· + 1) } }
        match labelRank s2 (reverseLabel (cPort d)) with
        | some q => sendChunk s2 l1 q true 0 []
        | none => s2
      else s1

/-- A result chunk arrives at this device, or arises here. -/
def addResult (s : State) (i index : Nat) (data : List Byte) : State :=
  match s.coll.launches[i]? with
  | none => s
  | some l =>
    let c : Chunk := { rank := 0, down := true, index := index, data := data }
    deliver (setLaunch s i { l with result := l.result ++ [c] }) i

/-! ### Up and down the tree -/

/-- Chunk j of a reduce-scatter is wanted below a branch: some member there owns a segment that overlaps it. -/
def branchWants (s : State) (d : BitVec 512) (child j : Nat) : Bool :=
  let t := jobTopo s
  let members := groupMembers t (cAxes d) (myRank s)
  let seg := vectorElems d / members.length * fmtBits (wireFmt d) / 8
  cKind d != 2 || (members.zipIdx).any fun m =>
    inSubtree t (cAxes d) child 192 m.1 && decide (m.2 * seg < 4096 * (j + 1)) && decide (4096 * j < (m.2 + 1) * seg)

/-- Send a chunk down every branch (R337). -/
def sendDown (s : State) (l : Launch) (j : Nat) (data : List Byte) : State :=
  let d := collDescr s l.desc
  ((treeChildren (jobTopo s) (cAxes d) (myRank s)).filter fun c => branchWants s d c j).foldl
    (fun s c => sendChunk s l c true j data) s

/-- At the root a chunk of the result arises: it is kept and, for the kinds with a down path, multicast. -/
def rootResult (s : State) (i : Nat) (l : Launch) (j : Nat) (data : List Byte) : State :=
  let s1 := if cKind (collDescr s l.desc) = 5 then s else sendDown s l j data
  addResult s1 i j data

/-- Combine chunk j of launch i once this device's own and every child's are present (R335), and send it up. -/
def tryCombine (s : State) (i j : Nat) : State :=
  match s.coll.launches[i]? with
  | none => s
  | some l =>
    let d := collDescr s l.desc
    let t := jobTopo s
    let me := myRank s
    let kids := treeChildren t (cAxes d) me
    let got := l.chunks.filter fun c => c.index == j
    if l.started ∧ kids.all (fun k => got.any fun c => c.rank == k) then
      let own := chunkOf l.vector j
      let order := (groupMembers t (cAxes d) me).filterMap fun r =>
        if r = me then some own else (got.find? fun c => c.rank == r).map (·.data)
      let r := if cKind d = 6 then ([], false) else combineChunks (jobProfile s) (cOp d) (wireFmt d) order
      let l' := { l with chunks := l.chunks.filter fun c => c.index != j }
      let s1 := flagColl (setLaunch s i l') r.2
      match treeParent t (cAxes d) me with
      | some p => sendChunk s1 l' p false j r.1
      | none => rootResult s1 i l' j r.1
    else s

/-- Pass a member's chunk of an all-gather toward the root; at the root it is part of the result. -/
def gatherUp (s : State) (i : Nat) (index : Nat) (data : List Byte) : State :=
  match s.coll.launches[i]? with
  | none => s
  | some l =>
    match treeParent (jobTopo s) (cAxes (collDescr s l.desc)) (myRank s) with
    | some p => sendChunk s l p false index data
    | none => rootResult s i l index data

/-! ### Relays and queues -/

/-- Send a chunk to the neighbour at PORT. -/
def sendOn (s : State) (l : Launch) (index : Nat) (data : List Byte) : State :=
  match labelRank s (cPort (collDescr s l.desc)) with
  | some q => sendChunk s l q false index data
  | none => s

/-- A queue item leaves while a credit is held (R257, R340): its send bindings are done then. -/
def tryItem (s : State) (i : Nat) : State :=
  match s.coll.launches[i]? with
  | none => s
  | some l =>
    let d := collDescr s l.desc
    let taken := (s.coll.taken.get l.desc).toNat
    if l.started ∧ !l.sends.isEmpty ∧ l.sends.all (fun b => !b.doneB) ∧ taken < cDepth d then
      let v := (ownVector s d l).1
      let l' := { l with vector := v, sends := l.sends.map fun b => { b with doneB := true } }
      let s1 := setLaunch s i l'
      let s2 := { s1 with coll := { s1.coll with taken := s1.coll.taken.set l.desc (BitVec.ofNat 8 (taken + 1)) } }
      (List.range (vectorChunks d)).foldl (fun s j => sendOn s l' j (chunkOf v j)) s2
    else s

/-- A chunk of a queue item lands in its slot, whether or not a launch is registered; the last chunk of an item completes it
(R340). -/
def landItem (s : State) (desc j : Nat) (data : List Byte) : State :=
  let d := collDescr s desc
  let k := (s.coll.itemsIn.get desc).toNat
  let n := (s.coll.landed.get desc).toNat + 1
  let whole : Bool := decide (vectorChunks d ≤ n)
  let s1 := writeMem s (slotAddr d k + 4096 * j) data
  { s1 with coll := { s1.coll with
      landed := s1.coll.landed.set desc (BitVec.ofNat 32 (if whole then 0 else n))
      itemsIn := if whole then s1.coll.itemsIn.set desc (BitVec.ofNat 32 (k + 1)) else s1.coll.itemsIn } }

/-! ### Starting a launch -/

/-- A relay forwards a chunk: one of steps 1 to P − 2 (R339). -/
def relayed (s : State) (d : BitVec 512) (c : Chunk) : Bool :=
  decide (c.index / max 1 (vectorChunks d) + 2 ≤ ringSize s d - 1)

/-- Launch i starts: its regions are read, and its first packets leave. -/
def startLaunch (s : State) (i : Nat) : State :=
  match s.coll.launches[i]? with
  | none => s
  | some l =>
    let d := collDescr s l.desc
    let kind := cKind d
    let v := if kind = 8 ∨ kind = 6 then ([], false) else ownVector s d l
    let l' := { l with
      started := true, vector := v.1
      sends := if kind = 8 then l.sends else l.sends.map fun b => { b with doneB := true } }
    let s1 := countEv (flagColl (setLaunch s i l') v.2) { code := 0x40 }
    let n := vectorChunks d
    match kind with
    | 3 =>
      let g := (groupMembers (jobTopo s) (cAxes d) (myRank s)).findIdx (· == myRank s)
      let waiting := l.chunks
      let s2 := setLaunch s1 i { l' with chunks := [] }
      let s3 := (List.range n).foldl (fun s j => gatherUp s i (g * n + j) (chunkOf v.1 j)) s2
      waiting.foldl (fun s c => gatherUp s i c.index c.data) s3
    | 4 => if isRoot s d then (List.range n).foldl (fun s j => sendDown s l' j (chunkOf v.1 j)) s1 else s1
    | 6 => tryCombine s1 i 0
    | 7 =>
      let s2 := (List.range n).foldl (fun s j => sendOn s l' j (chunkOf v.1 j)) (setLaunch s1 i { l' with chunks := [] })
      l.chunks.foldl (fun s c => sendOn s l' (c.index + n) c.data) s2
    | 8 => tryItem s1 i
    | _ => (List.range n).foldl (fun s j => tryCombine s i j) s1

/-! ### Credit that this device grants (R333) -/

/-- Chunks of the chunk store of 32 MiB. -/
def storeChunks : Nat := 8192

/-- The edges on which a launch takes data in, as 2 × rank + down, each with the chunks that its bindings let in (R333): what comes
down, and at the root of an all-gather what comes up, is for the receive bindings, which must be bound; of a relay only the steps
whose bindings are bound come (R339). -/
def inEdges (s : State) (d : BitVec 512) (l : Launch) : List (Nat × Nat) :=
  let t := jobTopo s
  let me := myRank s
  let n := vectorChunks d
  let below := fun (c : Nat) => ((groupMembers t (cAxes d) me).filter (inSubtree t (cAxes d) c 192)).length
  let up := fun (per : Nat → Nat) => (treeChildren t (cAxes d) me).map fun c => (2 * c, per c)
  let taken := fun (total : Nat) => if recvBound s l then total else 0
  let down := fun (total : Nat) => (treeParent t (cAxes d) me).toList.map fun p => (2 * p + 1, taken total)
  match cKind d with
  | 1 => up (fun _ => n) ++ down n
  | 2 => up (fun _ => n) ++ down ((List.range n).filter (branchWants s d me)).length
  | 3 => up (fun c => if isRoot s d then taken (below c * n) else below c * n) ++ down (groupSizeOf s d * n)
  | 4 => down n
  | 5 => up fun _ => n
  | 7 =>
    let steps := (cCores d).foldl (fun m c => min m (l.recvs.filter fun b => b.core == c).length) (ringSize s d - 1)
    (labelRank s (reverseLabel (cPort d))).toList.map fun q => (2 * q, steps * n)
  | _ => []

/-- Chunks of credit granted on an edge of a launch. -/
def givenOn (l : Launch) (edge : Nat) : Nat := ((l.given.find? fun x => x.1 == edge).map (·.2)).getD 0

/-- Chunks granted on an edge that have not arrived. -/
def owedOn (l : Launch) (edge : Nat) : Nat := givenOn l edge - (l.seen.filter fun x => x.1 == edge).length

/-- Chunks of the store that a launch holds or has promised; what its receive bindings take at once is not held. -/
def launchHolds (s : State) (l : Launch) : Nat :=
  l.chunks.length + (l.given.map fun x => owedOn l x.1).sum + (if recvBound s l then 0 else l.result.length)

/-- Chunks of the store in use. -/
def storeUsed (s : State) : Nat :=
  (s.coll.launches.map (launchHolds s)).sum + ((s.coll.waits.map fun w => (w.desc, w.aux)).eraseDups).length

/-- A chunk that came over an edge is still held: it waits for its combination, its start, a branch, or the bindings. -/
def chunkHeld (s : State) (l : Launch) (x : Nat × Nat) : Bool :=
  let on := if cKind (collDescr s l.desc) = 7 then vectorChunks (collDescr s l.desc) else 0
  l.chunks.any (fun c => c.edge == x.1 && c.index == x.2) ||
    s.coll.waits.any (fun w => w.desc == l.desc && w.aux / 2 ^ 32 == x.2 + on) ||
    (!recvBound s l && l.result.any fun c => c.index == x.2)

/-- Chunks that came over an edge of a launch and are still held. -/
def heldOn (s : State) (l : Launch) (edge : Nat) : Nat :=
  (l.seen.filter fun x => x.1 == edge && chunkHeld s l x).length

/-- An earlier launch of a descriptor still lacks credit on an edge: credit goes to launches in order, so that what the sender
holds belongs to its oldest one. -/
def creditOwedBefore (s : State) (i desc edge : Nat) : Bool :=
  (s.coll.launches.take i).any fun l => l.desc == desc &&
    (inEdges s (collDescr s desc) l).any fun e => e.1 == edge && decide (givenOn l edge < e.2)

/-- Grant what credit an edge of launch i may have: 64 chunks at most with those still held, as the store has space (R333). A
grant is a payload-free packet against the direction of the data, its number in CHUNK (DESIGN CHOICE 12). -/
def grantEdge (i : Nat) (s : State) (e : Nat × Nat) : State :=
  match s.coll.launches[i]? with
  | none => s
  | some l =>
    let most := 64 - (owedOn l e.1 + heldOn s l e.1)
    let n := min (e.2 - givenOn l e.1) (min most (storeChunks - storeUsed s))
    if n = 0 ∨ creditOwedBefore s i l.desc e.1 then s
    else
      let down : Bool := e.1 % 2 = 0
      let given := l.given.filter (fun x => x.1 != e.1) ++ [(e.1, givenOn l e.1 + n)]
      emit (setLaunch s i { l with given := given }) l.desc (e.1 / 2) down (collAux l down n) []

/-- Grant the credit that launch i may have, once it is registered. -/
def grantLaunch (s : State) (i : Nat) : State :=
  match s.coll.launches[i]? with
  | none => s
  | some l => if l.registered then (inEdges s (collDescr s l.desc) l).foldl (grantEdge i) s else s

/-- What has arrived goes to the bindings that take it, and credit is granted as the store and the bindings allow. -/
def settleColl (s : State) : State :=
  let is := List.range s.coll.launches.length
  is.foldl grantLaunch (is.foldl deliver s)

/-- The slot in progress (R6); none before the epoch origin. -/
def slotNow (s : State) : Option Nat :=
  if s.time.origin ≠ 0 ∧ s.time.origin.toNat ≤ s.time.epoch.toNat then
    some ((s.time.epoch.toNat - s.time.origin.toNat) / 512)
  else none

/-- The counter is at the first tick of a slot. -/
def atSlotStart (s : State) : Bool :=
  (slotNow s).isSome && decide ((s.time.epoch.toNat - s.time.origin.toNat) % 512 = 0)

/-- Every send binding that a launch requires is there (R332). -/
def launchReady (s : State) (l : Launch) : Bool :=
  let d := collDescr s l.desc
  !sendNeeded s d || (cCores d).all fun c => l.sends.any fun b => b.core == c

/-- The oldest launch of a descriptor, when it is registered. -/
def oldestLaunch (s : State) (desc : Nat) : Option Nat :=
  match s.coll.launches.findIdx? (fun l => l.desc == desc) with
  | some i => if (s.coll.launches[i]?).any (·.registered) then some i else none
  | none => none

/-- A slot has passed without the launch: the miss is counted once, and the slots it has slipped recorded (R332). -/
def slipLaunch (s : State) (i : Nat) (l : Launch) (by' : Nat) : State :=
  let s1 := if l.slipped then s
    else countEv { s with coll := { s.coll with miss := BitVec.ofNat 32 (satAdd 32 s.coll.miss.toNat 1) } } { code := 0x41 }
  let s2 := { s1 with coll := { s1.coll with
    lastDesc := BitVec.ofNat 12 l.desc, lastSlots := BitVec.ofNat 16 (min by' 65535) } }
  setLaunch s2 i { l with slipped := true, slips := by' }

/-- LAUNCH_SLOT_TEST (R332): at the first tick of a slot the oldest registered launch of a descriptor starts if it is
ready, and otherwise has missed. Its start reads the send bindings, with what their ECC shows (R115). -/
def execLaunchSlotTest (desc : BitVec 12) (ecc : Option (Fin 16 × Ecc)) (s : State) : Out :=
  match oldestLaunch s desc.toNat, slotNow s with
  | some i, some now => match s.coll.launches[i]? with
    | none => .next s
    | some l =>
      if l.started ∨ now < l.slot ∨ !atSlotStart s then .next s
      else
        let s1 := if l.slot < now ∨ !launchReady s l then slipLaunch s i l (now - l.slot) else s
        if launchReady s l then
          let s2 := settleColl (startLaunch s1 i)
          match ecc with
          | some e => .next (if l.sends.any fun b => b.core == e.1.val then sramError s2 e.1 e.2 else s2)
          | none => .next s2
        else .next s1
  | _, _ => .next s

/-! ### Arrivals -/

/-- The launch that a packet's chunk belongs to: the oldest registered one of the descriptor that has not had it; a barrier packet
may come before its launch is registered (R341). -/
def chunkLaunch (s : State) (desc : Nat) (key : Nat × Nat) : Option Nat :=
  let early := cKind (collDescr s desc) == 6
  s.coll.launches.findIdx? fun l => l.desc == desc && (l.registered || early) && !l.seen.contains key

/-- A chunk up the tree or along a ring. What a relay forwards follows the device's own block, so that the credit of a step
carries that step's data (R339). -/
def arriveUp (s : State) (i : Nat) (l : Launch) (c : Chunk) : State :=
  let d := collDescr s l.desc
  let stored := setLaunch s i { l with chunks := l.chunks ++ [c] }
  match cKind d with
  | 3 => if l.started then gatherUp s i c.index c.data else stored
  | 7 =>
    let s1 := if !relayed s d c then s
      else if l.started then sendOn s l (c.index + vectorChunks d) c.data
      else stored
    addResult s1 i c.index c.data
  | _ => tryCombine stored i c.index

/-- A chunk down the tree, or a barrier's down packet. -/
def arriveDown (s : State) (i : Nat) (l : Launch) (c : Chunk) : State :=
  let s1 := sendDown s l c.index c.data
  addResult s1 i c.index c.data

/-- A chunk reaches the launch it belongs to, or waits for the registration of its barrier. -/
def chunkArrives (s : State) (desc : Nat) (c : Chunk) : State :=
  let s0 := if (chunkLaunch s desc (c.edge, c.index)).isNone ∧ cKind (collDescr s desc) = 6 then
      { s with coll := { s.coll with launches := s.coll.launches ++ [newLaunch s desc 0] } }
    else s
  match chunkLaunch s0 desc (c.edge, c.index) with
  | none => s0
  | some i => match s0.coll.launches[i]? with
    | none => s0
    | some l =>
      let l' := { l with seen := l.seen ++ [(c.edge, c.index)] }
      let s1 := setLaunch s0 i l'
      if c.down then arriveDown s1 i l' c else arriveUp s1 i l' c

/-- A returned credit: one fewer is taken, and an item that waited may leave. -/
def returnCredit (s : State) (desc : Nat) : State :=
  let n := (s.coll.taken.get desc).toNat
  let s1 := { s with coll := { s.coll with taken := s.coll.taken.set desc (BitVec.ofNat 8 (n - 1)) } }
  match s1.coll.launches.findIdx? (fun l => l.desc == desc && l.started && l.sends.any fun b => !b.doneB) with
  | some i => tryItem s1 i
  | none => s1

/-- A fence exchange as it leaves on a port (R345): the coordinate it names in the place of CHUNK (DESIGN CHOICE 12). -/
def fencePacket (s : State) (port : Nat) (coord : BitVec 18) (tag : BitVec 16) : Packet :=
  { newPacket s (peerCoord s port) 2 (systemAux s 3 false coord.toNat) [] with jobtag := tag }

/-- The notice by which a fence exchange is remembered, so that it is forwarded once (R345). -/
def fenceNotice (coord : BitVec 18) (tag : BitVec 16) : Notice := { origin := coord, link := none, up := true, tags := [tag] }

/-- Send a fence exchange on every port that is UP or MGMT. -/
def floodFence (s : State) (coord : BitVec 18) (tag : BitVec 16) : State :=
  rememberNotice ((openPorts s).foldl (fun t p => transmit t p (fencePacket s p coord tag)) s) (fenceNotice coord tag)

/-- A stale packet (R345): dropped and counted; its sender is shut out for the rest of the job, and fenced by exchange
0x003. This device abandons its step. -/
def stalePacket (s : State) (src : BitVec 18) : State :=
  let s1 := { s with coll := { s.coll with stale := BitVec.ofNat 16 (satAdd 16 s.coll.stale.toNat 1) } }
  if s.coll.barred.contains src then s1
  else
    let s2 := { s1 with coll := { s1.coll with
      barred := s1.coll.barred ++ [src], fenced := BitVec.ofNat 8 (satAdd 8 s1.coll.fenced.toNat 1) } }
    abandonStep (floodFence s2 src (jobTag s2)) 8

/-- The link packet count of a commit reduction (R279, R347): a count that differs abandons the step. -/
def countExchange (s : State) (port : Nat) (count : Nat) : State :=
  if count = (portOf s port).received.toNat then s else abandonStep (report s 0x1A port) 6

/-- A fence exchange arrives (R345): forwarded once; every device of the job abandons its step; the named one releases its
lease. -/
def fenceArrives (s : State) (coord : BitVec 18) (tag : BitVec 16) : State :=
  let s1 := if noticeSeen s (fenceNotice coord tag) then s else floodFence s coord tag
  if tag = jobTag s ∧ tag ≠ 0 then
    let s2 := abandonStep s1 8
    if coord = myCoord s then releaseLease (report s2 0x18 0) false else s2
  else s1

/-- A peer's epoch-drained exchange arrives (R344). -/
def drainedArrives (s : State) (src : BitVec 18) (epoch : BitVec 16) : State :=
  if s.coll.drained.contains (src, epoch) then s
  else { s with coll := { s.coll with drained := s.coll.drained ++ [(src, epoch)] } }

/-- A system exchange of the job arrives (R334). The count that it carries was compared as the port took it in. -/
def systemArrives (s : State) (p : Packet) : State :=
  let src := BitVec.ofNat 18 p.src.toNat
  let rank := rankOf s (jobTopo s) src
  match fld p.aux 11 0 with
  | 0 => if stepOpen s then joinPacket s 0 rank (flag p.aux 12) p.payload else s
  | 1 => joinPacket s 1 rank (flag p.aux 12) p.payload
  | 2 => drainedArrives s src (BitVec.ofNat 16 (fld p.aux 31 16))
  | _ => s

/-- Collective data is taken in: no recovery runs that has cancelled every launch (R169, R355). -/
def takesData (s : State) : Bool := s.rsl.phase == .idle || s.rsl.phase == .verify || s.rsl.phase == .release

/-- Collective data of the job arrives (R335 to R341): a chunk, a payload-free packet of a barrier, or credit. -/
def dataArrives (s : State) (p : Packet) : State :=
  let desc := fld p.aux 11 0
  let down := flag p.aux 12
  let index := fld p.aux 63 32
  let kind := cKind (collDescr s desc)
  let rank := rankOf s (jobTopo s) (BitVec.ofNat 18 p.src.toNat)
  if !takesData s then s
  else if kind = 8 then (if down then returnCredit s desc else settleColl (landItem s desc index p.payload))
  else if kind ≠ 6 ∧ p.payload = [] then settleColl (takeCredit s desc rank (!down) index)
  else settleColl (chunkArrives s desc { rank := rank, down := down, index := index, data := p.payload })

/-- A packet of a launch that carries data, or is a barrier's; a grant or a return of credit is neither, and may come of a peer's
next epoch (R344, R345). -/
def hasData (s : State) (p : Packet) : Bool := !p.payload.isEmpty || cKind (collDescr s (fld p.aux 11 0)) == 6

/-- A queue item of descriptor `desc` that reads a core's stores left between two states, on the credit that a packet returned
(R115, R340). -/
def itemLeft (s t : State) (desc core : Nat) : Bool :=
  match s.coll.launches.findIdx? (fun l => l.desc == desc && l.started && l.sends.any fun b => !b.doneB) with
  | some i => (t.coll.launches[i]?).any fun l => l.desc == desc && l.sends.any (fun b => b.core == core) && l.sends.all (·.doneB)
  | none => false

/-- A packet's data, with what the ECC of the reads shows of an item that leaves with it (R115). -/
def dataWith (s : State) (p : Packet) (ecc : Option (Fin 16 × Ecc)) : State :=
  let t := dataArrives s p
  let desc := fld p.aux 11 0
  match ecc with
  | some e => if cKind (collDescr s desc) = 8 ∧ flag p.aux 12 ∧ itemLeft s t desc e.1 then sramError t e.1 e.2 else t
  | none => t

/-- COLLECTIVE_PACKET (R334 to R341, R345): what the collective engine does with a packet the port has accepted. A stale packet is
counted, whoever sent it; data of a sender shut out is not taken. -/
def execCollectivePacket (port : Fin 7) (p : Packet) (ecc : Option (Fin 16 × Ecc)) (s : State) : Out :=
  let src := BitVec.ofNat 18 p.src.toNat
  if p.kind ≠ 2 ∨ !portOpen s port then .next s
  else if isSystem p ∧ fld p.aux 11 0 = 3 then .next (fenceArrives s (BitVec.ofNat 18 (fld p.aux 63 32)) p.jobtag)
  else if (portOf s port).mode ≠ .up ∨ addrCoord p.dest ≠ myCoord s ∨ p.jobtag ≠ jobTag s ∨ jobTag s = 0 then .next s
  else if isSystem p then .next (systemArrives s p)
  else if hasData s p ∧ fld p.aux 31 16 ≠ fld s.coll.layout 15 0 then .next (stalePacket s src)
  else if s.coll.barred.contains src then .next s
  else .next (dataWith s p ecc)

/-- FENCE_EXCHANGE (R345): exchange 0x003, on a port that is UP or MGMT. -/
def execFenceExchange (port : Fin 7) (coord : BitVec 18) (jobtag : BitVec 16) (s : State) : Out :=
  if portOpen s port then .next (fenceArrives s coord jobtag) else .next s

/-- The hold limit in ticks (R156, R171). -/
def holdLimit (s : State) : Nat := match s.seq.job with
  | some j => 512 * (if j.holdLim = 0 then 16777216 else j.holdLim)
  | none => 512 * 16777216

/-- The branch timeout of a descriptor in ticks (R338). -/
def branchLimit (s : State) (d : BitVec 512) : Nat := if cTimeout d = 0 then holdLimit s else 512 * cTimeout d

/-- The branch of a multicast through a port is blocked, and its time has run out: credit in the tick of expiry is in time (R322,
R338). -/
def branchExpired (s : State) (desc port : Nat) : Bool :=
  let d := collDescr s desc
  s.coll.waits.any fun w => w.desc == desc && w.down &&
    ((chunkLabel s d w.rank true).bind fun l => edgePort s true l (rankCoord s (jobTopo s) w.rank)) == some port &&
    decide (w.since.toNat + branchLimit s d < s.time.epoch.toNat)

/-- MCAST_TIMEOUT (R338): a blocked branch of a running multicast expires. -/
def execMcastTimeout (desc : BitVec 12) (port : Fin 7) (s : State) : Out :=
  let kind := cKind (collDescr s desc.toNat)
  if branchExpired s desc.toNat port.val && decide (1 ≤ kind) && decide (kind ≤ 4) then
    let s1 := { s with coll := { s.coll with mcast := BitVec.ofNat 8 (satAdd 8 s.coll.mcast.toNat 1) } }
    .next (abandonStep (report s1 0x19 (desc.toNat + port.val * 4096)) 9)
  else .next s

/-- Every binding that a launch requires on this device has completed (R342); a barrier's down packet has come. -/
def launchBound (s : State) (l : Launch) : Bool :=
  let d := collDescr s l.desc
  let cores := cCores d
  l.sends.all (·.freed) && l.recvs.all (·.freed) &&
    (!sendNeeded s d || decide (l.sends.length = cores.length)) &&
    decide (l.recvs.length = cores.length * recvNeeded s d) && (cKind d != 6 || !l.result.isEmpty)

/-- A packet that this device sent for a launch of a descriptor. -/
def ofLaunch (s : State) (desc : Nat) (p : Packet) : Bool :=
  p.kind == 2 && p.jobtag == jobTag s && p.src == (myCoord s).setWidth 24 && fld p.aux 11 0 == desc && !isSystem p

/-- Every packet of the launches of a descriptor has been sent and acknowledged (R342). -/
def allAcked (s : State) (desc : Nat) : Bool :=
  s.coll.waits.all (fun w => w.desc != desc) &&
    s.link.ports.all fun q => !(q.unacked ++ q.waiting).any (ofLaunch s desc)

/-- COLLECTIVE_COMPLETE (R342): the oldest launch of a descriptor completes. -/
def execCollectiveComplete (desc : BitVec 12) (s : State) : Out :=
  match oldestLaunch s desc.toNat with
  | none => .next s
  | some i => match s.coll.launches[i]? with
    | none => .next s
    | some l =>
      if l.started ∧ launchBound s l ∧ allAcked s l.desc then
        .next (settleColl (finishLaunch { s with coll := { s.coll with launches := s.coll.launches.eraseIdx i } } 0x10 l.desc))
      else .next s

/-! ### Layout epochs (R343, R344) -/

/-- OUTST: launches registered in the current epoch and not complete. -/
def outstanding (s : State) : Nat :=
  (s.coll.launches.filter fun l => l.registered && l.epoch == s.coll.layout).length

/-- The ring peers (R343). -/
def ringPeers (s : State) : List (BitVec 18) := ((ringLabels s).map (neighbour s (myCoord s))).eraseDups

/-- Tell the ring peers once that this device has drained its epoch. -/
def tellDrained (s : State) : State :=
  if s.coll.told ∨ outstanding s ≠ 0 then s
  else
    (ringPeers s).foldl (fun t c => route t (newPacket s c 2 (systemAux s 2 false 0) []))
      { s with coll := { s.coll with told := true } }

/-- EPOCH.ADVANCE may proceed: drained here and at every ring peer. -/
def epochDrainedAll (s : State) : Bool :=
  outstanding s == 0 && (ringPeers s).all fun c => s.coll.drained.contains (c, BitVec.ofNat 16 s.coll.layout.toNat)

/-- EPOCH_DRAINED (R344): exchange 0x002 of a peer is received, on a port that is UP. -/
def execEpochDrained (port : Fin 7) (src : BitVec 18) (epoch : BitVec 16) (s : State) : Out :=
  if (portOf s port).mode = .up then .next (drainedArrives s src epoch) else .next s

/-! ### The operations -/

/-- A slot of a queue touches a pool span (R273). -/
def queueInPool (s : State) (d : BitVec 512) : Bool :=
  cKind d == 8 && s.mem.ranges.any fun r =>
    decide (cQbase d < r.pool + 98304 * r.blocks) && decide (r.pool < cQbase d + cDepth d * slotBytes d)

/-- The checks of LINK.SEND and LINK.RECV in the order of R177 (R205, R273, R330). -/
def channelChecks (s : State) (op : CoreOp) (send : Bool) : List (Option Flt) :=
  let w := op.word
  let t := opClk s op
  let n := fld w 25 18
  let widen := !send && flag w 31
  let r := regionOf s op.core n
  let count := (sregAt s op.core (fld w 30 26) t).toNat
  let target := bindTarget s op.core (fld w 17 12) send
  let d := collDescr s (target.getD 0)
  let fmtOk := if widen then rFmt r == 1 && (isScaled (cFmt d) || cFmt d == 5 || cFmt d == 6) else rFmt r == cFmt d
  let sizeOk := if send then sendNeeded s d && count == cElems d
    else decide (0 < recvNeeded s d) && count == recvElems s d
  let enc := zeros w 63 (if send then 31 else 32) && target.isSome && (cCores d).contains op.core.val && fmtOk && sizeOk
  [encodingUnless enc, latS s op.core (fld w 30 26) t, stateUnless (if send then canConsume r else canProduce r) n,
    boundUnless (decide (count ≤ rBound r) && !queueInPool s d) n]

/-- LINK.SEND and LINK.RECV (R205, R330). -/
def bindChannel (op : CoreOp) (send : Bool) (s : State) : Out :=
  let w := op.word
  let t := opClk s op
  let n := fld w 25 18
  let b : Binding := { core := op.core, region := n, issue := t, regDesc := putFld (regionOf s op.core n) 119 104 0,
                       count := (sregAt s op.core (fld w 30 26) t).toNat, widen := !send && flag w 31, step := 0,
                       doneB := false, freed := false }
  let s1 := if send then takeElasticConsumer s op.core n t else takeElasticProducer s op.core n t
  coreOp s op (channelChecks s op send)
    (elasticIssue s (settleColl (attach s1 ((bindTarget s op.core (fld w 17 12) send).getD 0) t send b)))

/-- LINK.SEND. -/
def execLinkSend (op : CoreOp) (s : State) : Out := bindChannel op true s

/-- LINK.RECV. -/
def execLinkRecv (op : CoreOp) (s : State) : Out := bindChannel op false s

/-- A sequencer register. -/
def qregOf (s : State) (r : Nat) : Word := s.seq.qreg.get r

/-- The slot number in a pair of sequencer registers. -/
def qpair (s : State) (r : Nat) : Nat := (qregOf s r).toNat + (qregOf s (r + 1)).toNat * 2 ^ 32

/-- Two descriptors share a channel. -/
def shareChannel (a b : BitVec 512) : Bool :=
  let chans := fun (d : BitVec 512) => if cKind d = 6 then [] else [cSchan d, cRchan d]
  (chans a).any fun c => (chans b).contains c

/-- The rules of R210, R331 and R339 for a launch. -/
def launchLegal (s : State) (desc : Nat) : Bool :=
  let d := collDescr s desc
  collDeclared s desc &&
    !(s.coll.launches.any fun l => l.registered && l.desc != desc && shareChannel (collDescr s l.desc) d) &&
    (match cKind d with
      | 7 => decide (cPort d < 6) && sliceWraps (jobTopo s) (cPort d / 2)
      | 8 => cPort d != 6 || (labelRank s 6).isSome
      | _ => true)

/-- Register a launch: the oldest one of the descriptor that is only bound, or a new one. -/
def registerLaunch (s : State) (desc slot issue lane : Nat) : State :=
  let bound := fun (l : Launch) => l.desc == desc && !l.registered
  let put := fun (l : Launch) => { l with registered := true, slot := slot, issue := issue, lane := lane, epoch := s.coll.layout }
  let ls := s.coll.launches
  let ls' := if ls.any bound then changeFirst bound put ls else ls ++ [put (newLaunch s desc issue)]
  { s with coll := { s.coll with launches := ls' } }

/-- COLL.LAUNCH (R210, R331). -/
def execCollLaunch (op : ChipOp) (s : State) : Out :=
  let w := op.word
  let desc := fld w 19 8
  let r := fld w 24 20
  let full := decide (64 ≤ (s.coll.launches.filter (·.registered)).length)
  chipOp s op
    [encodingUnless (zeros w 63 25 && decide (r % 2 = 0) && launchLegal s desc),
      if full then some { code := 4 } else none]
    (elasticIssue s (settleColl (registerLaunch s desc (qpair s r) (8 * (s.seq.issued - 1)) op.slot)))

/-- EPOCH.ADVANCE (R211, R344): in the beat of issue the layout epoch advances; what peers that have advanced already told of the
next epoch is kept. -/
def execEpochAdvance (op : ChipOp) (s : State) : Out :=
  chipOp s op [encodingUnless (zeros op.word 63 8)]
    { s with coll := { s.coll with
        layout := s.coll.layout + 1, told := false
        drained := s.coll.drained.filter fun x => x.2 != BitVec.ofNat 16 s.coll.layout.toNat } }

end Sys2Proof.Machine
end

