-- ==== Sys2Proof/Machine/Meadowsweet.lean ====
section
/-! DEFINITION. Meadowsweet (R258 to R273, R283): the update of one parameter, passes over a range, launches. -/

namespace Sys2Proof.Machine

/-- Meadowsweet descriptor n of the job image (R261). -/
def optDescr (s : State) (n : Nat) : BitVec 512 := entryBits 512 (sectionEntry s 14 64 n)

/-- PARAM. -/
def oParam (d : BitVec 512) : Nat := fld d 43 0
/-- KIND. -/
def oKind (d : BitVec 512) : Nat := fld d 47 44
/-- GFMT. -/
def oGfmt (d : BitVec 512) : Nat := fld d 51 48
/-- GRAD. -/
def oGrad (d : BitVec 512) : Nat := fld d 107 64
/-- COEF. -/
def oCoef (d : BitVec 512) : Nat := fld d 171 128
/-- BLOCKS. -/
def oBlocks (d : BitVec 512) : Nat := fld d 223 192
/-- POOL. -/
def oPool (d : BitVec 512) : Nat := fld d 299 256
/-- NORM. -/
def oNorm (d : BitVec 512) : Nat := fld d 363 320

/-- Kinds with a second moment. -/
def hasSecond (kind : Nat) : Bool := kind == 0 || kind == 1 || kind == 4

/-- Trust-ratio kinds. -/
def isTrust (kind : Nat) : Bool := kind == 4 || kind == 5

/-! ### Arithmetic (R264): every operation rounds once with rne32; P1 flushes subnormal results, the vector-operation row of
R63, and reads operands as they are. The sums, r and AR of R266 follow the same row (DEDUCED 56) -/

/-- a × b. -/
def oMul (p1 : Bool) (a b : Word) : Word := rne32p p1 (Num.mul (dec32 a) (dec32 b))
/-- a + b. -/
def oAdd (p1 : Bool) (a b : Word) : Word := rne32p p1 (Num.add (dec32 a) (dec32 b))
/-- a − b. -/
def oSub (p1 : Bool) (a b : Word) : Word := rne32p p1 (Num.add (dec32 a) (Num.neg (dec32 b)))
/-- a × b + c with one rounding. -/
def oFma (p1 : Bool) (a b c : Word) : Word :=
  rne32p p1 (Num.add (Num.mul (dec32 a) (dec32 b)) (dec32 c))
/-- −a. -/
def oNeg (a : Word) : Word := a ^^^ 0x80000000#32
/-- a / b. -/
def oDiv (p1 : Bool) (a b : Word) : Word := div32 p1 a b
/-- √a. -/
def oSqrt (p1 : Bool) (a : Word) : Word := sqrt32 p1 a

/-- What the pseudocode of R264 computes before it writes p: the gradient, the moments, u, and a non-finite value
among them (R269). -/
structure Moments where
  g   : Word
  m   : Word
  v   : Word
  u   : Word
  bad : Bool
  deriving DecidableEq, Repr

/-- A coefficient: ALPHA, B1, C1, B2, C2, EPS, WD, GSCALE are 0 to 7 (R263). -/
def coefOf (c : List Word) (i : Nat) : Word := c.getD i 0#32

/-- The first part of R264, from the stored p, m, v and the widened gradient. -/
def momentsOf (p1 : Bool) (kind : Nat) (c : List Word) (p m v grad : Word) : Moments :=
  let g := oMul p1 (coefOf c 7) grad
  let two := hasSecond kind
  let m' := if two then oFma p1 (coefOf c 1) m (oMul p1 (coefOf c 2) g) else oFma p1 (coefOf c 1) m g
  let v' := if two then oFma p1 (oMul p1 (coefOf c 4) g) g (oMul p1 (coefOf c 3) v) else v
  let u0 := if two then oDiv p1 m' (oAdd p1 (oSqrt p1 v') (coefOf c 5)) else m'
  let u := if isTrust kind then oFma p1 (coefOf c 6) p u0 else u0
  { g := g, m := m', v := v', u := u
    bad := nonfinite32 grad || nonfinite32 g || nonfinite32 m' || (two && nonfinite32 v') || nonfinite32 u0 ||
      nonfinite32 u }

/-- The new p of R264; `ar` is ALPHA × r. -/
def newParam (p1 : Bool) (kind : Nat) (c : List Word) (ar p u : Word) : Word :=
  let alpha := coefOf c 0
  if kind = 0 ∨ kind = 2 then oFma p1 (oNeg alpha) u p
  else if kind = 1 then oSub p1 p (oFma p1 alpha u (oMul p1 (coefOf c 6) p))
  else oFma p1 (oNeg ar) u p

/-! ### Records -/

/-- Words from memory by local address. -/
def memWords (s : State) (a n : Nat) : List Word := bytesWords n (memBytes s a (4 * n))

/-- The gradients of record k of a range, widened (R260). -/
def recordGrads (s : State) (d : BitVec 512) (k : Nat) : List Word :=
  if oGfmt d = 1 then
    let b := memBytes s (oGrad d + 2048 * k) 2048
    (List.range 1024).map fun i => BitVec.ofNat 32 (numAt b (2 * i) 2 <<< 16)
  else memWords s (oGrad d + 4096 * k) 1024

/-- The moments of every parameter of record k, read from the current version, with its p. -/
def recordMoments (s : State) (d : BitVec 512) (c : List Word) (k : Nat) : List (Word × Moments) :=
  let a := oParam d + 12288 * k
  let kind := oKind d
  let ps := memWords s a 1024
  let ms := memWords s (a + 4096) 1024
  let vs := if hasSecond kind then memWords s (a + 8192) 1024 else List.replicate 1024 0#32
  ((ps.zip (ms.zip vs)).zip (recordGrads s d k)).map fun x =>
    (x.1.1, momentsOf (isP1 s) kind c x.1.1 x.1.2.1 x.1.2.2 x.2)

/-- The bank die of record k. -/
def recordDie (s : State) (d : BitVec 512) (k : Nat) : Nat := dieOf s (oParam d + 12288 * k)

/-- Set a bank die's non-finite flag (R269). -/
def flagDie (s : State) (die : Nat) (bad : Bool) : State :=
  if bad then { s with mem := { s.mem with nonfin := putFlag s.mem.nonfin die true } } else s

/-- Write 4 KiB of a record's field to the copy that CUR does not name, after Tansy's copy of a page it protects
(R272, R273, R361). -/
def writeOther (s : State) (a : Nat) (ws : List Word) : State :=
  match rangeOf s a with
  | none => s
  | some r =>
    let phys := copyAddr r (s.mem.cur.get (a / 98304) != 1) a
    writePhys (touchWrite s phys { code := 0x50, die := some (dieOf s a), addr := some a }) phys (wordBytes ws)

/-- Sp and Su of a record: fma(x, x, s) from +0 in increasing index (R266); in P1 subnormal results are flushed, as in the update
(DEDUCED 56). -/
def sumSquares (p1 : Bool) (xs : List Word) : Word := xs.foldl (fun t x => oFma p1 x x t) 0#32

/-- Pass 1 of one record (R266). -/
def passOne (d : BitVec 512) (c : List Word) (s : State) (k : Nat) : State :=
  let ms := recordMoments s d c k
  let sp := sumSquares (isP1 s) (ms.map (·.1))
  let su := sumSquares (isP1 s) (ms.map (·.2.u))
  flagDie (writeMem s (oNorm d + 8 * k) (wordBytes [sp, su])) (recordDie s d k) (ms.any (·.2.bad))

/-- The update of one record into the staged version (R264, R272), its count, and its part of the digest (R283). A kind without a
second moment leaves the v words, and errors in them, as they are (R259; DEDUCED 56: R484 says that every word is written). -/
def updateRecord (d : BitVec 512) (c : List Word) (ar : Word) (s : State) (k : Nat) : State :=
  let a := oParam d + 12288 * k
  let kind := oKind d
  let die := recordDie s d k
  let ms := recordMoments s d c k
  let ps := ms.map fun x => newParam (isP1 s) kind c ar x.1 x.2.u
  let s1 := writeOther (writeOther s a ps) (a + 4096) (ms.map (·.2.m))
  let s2 := if hasSecond kind then writeOther s1 (a + 8192) (ms.map (·.2.v)) else s1
  let s3 := flagDie s2 die (ms.any (·.2.bad) || ps.any nonfinite32)
  let crc := crc64 (leBytes 8 a ++ wordBytes ps)
  let n := satAdd 32 (s3.mem.optCount.get die).toNat 1
  countEv { s3 with mem := { s3.mem with
      staged := s3.mem.staged.set (a / 98304) 1
      digest := s3.mem.digest + crc
      optCount := s3.mem.optCount.set die (BitVec.ofNat 32 n) } }
    { code := 0x51, die := some die, addr := some a, amount := 1024 }

/-- Records of a range. -/
def recordCount (d : BitVec 512) : Nat := 8 * oBlocks d

/-- The final pass over a range. -/
def finalPass (s : State) (d : BitVec 512) (c : List Word) (ar : Word) : State :=
  (List.range (recordCount d)).foldl (updateRecord d c ar) s

/-! ### Launches -/

/-- A launch of the list. -/
def optLaunchOf (s : State) (desc : Nat) : Option OptLaunch := s.mem.launches.find? fun l => l.desc == desc

/-- Replace a launch. -/
def setOptLaunch (s : State) (l : OptLaunch) : State :=
  { s with mem := { s.mem with launches := s.mem.launches.map fun x => if x.desc = l.desc then l else x } }

/-- An elastic requester whose writes a launch waits for. -/
def launchWaits : Requester → Bool
  | .stream .. => true
  | .vetch => true
  | .link => true
  | _ => false

/-- A collective launched, or a region bound by a link operation, before an OPT.LAUNCH and not complete (R267): operations of one
beat stand in slot order, and the chip lane before the cores (R140, R170). -/
def collBefore (l : OptLaunch) (x : Launch) : Bool :=
  (x.registered && (decide (x.issue < l.issue) || (x.issue == l.issue && decide (x.lane < l.lane)))) ||
    (x.sends ++ x.recvs).any fun b => !b.freed && decide (b.issue < l.issue)

/-- Every stream, stash, link and collective operation issued before a launch has completed, and no write or accumulate
of theirs holds a tag or waits for one (R267). -/
def earlierDone (s : State) (l : OptLaunch) : Bool :=
  s.cu.captured.all (fun c => decide (l.issue ≤ c.issue)) && s.stash.ops.all (fun x => decide (l.issue ≤ x.issue)) &&
    !s.coll.launches.any (collBefore l) &&
    !(s.mem.tags.any fun t => t.kind != .read && launchWaits t.who && decide (t.issue < l.issue)) &&
    !(s.mem.held.any fun m => m.kind != .read && launchWaits m.who && decide ((opIssue s m).1 < l.issue))

/-- Every bank die's DESC, BUSY and PASS. -/
def setBanks (s : State) (desc : Nat) (busy : Bool) (pass : Nat) : State :=
  let dies := List.range 8
  { s with mem := { s.mem with
      optDesc := dies.foldl (fun m b => m.set b (BitVec.ofNat 12 desc)) s.mem.optDesc
      optBusy := if busy then 255 else 0
      optPass := dies.foldl (fun m b => m.set b (BitVec.ofNat 2 pass)) s.mem.optPass } }

/-- MEADOWSWEET_LAUNCH_START (R263, R267): the coefficient record is read; a trust-ratio kind makes pass 1, any other
kind its whole update. -/
def execMeadowsweetLaunchStart (desc : BitVec 12) (s : State) : Out :=
  match optLaunchOf s desc.toNat with
  | none => .next s
  | some l =>
    if l.phase = .waiting ∧ earlierDone s l then
      let d := optDescr s l.desc
      let c := memWords s (oCoef d) 8
      if isTrust (oKind d) then
        let s1 := setBanks (setOptLaunch s { l with phase := .pass1, coef := c }) l.desc true 1
        .next ((List.range (recordCount d)).foldl (passOne d c) s1)
      else
        let s1 := setBanks (setOptLaunch s { l with phase := .final, coef := c }) l.desc true 2
        .next (finalPass s1 d c 0#32)
    else .next s

/-- The sum, in increasing record number, of the words at byte o of the 8-byte entries of the norm scratch (R266), flushed in P1 like
the sums of a record (DEDUCED 56). -/
def normSum (s : State) (d : BitVec 512) (o : Nat) : Word :=
  (List.range (recordCount d)).foldl (fun t k =>
    oAdd (isP1 s) t (BitVec.ofNat 32 (memNum s (oNorm d + 8 * k + o) 4))) 0#32

/-- r of R266, rounded like the sums it comes from (DEDUCED 56). -/
def trustRatio (s : State) (d : BitVec 512) : Word :=
  let p1 := isP1 s
  let sp := normSum s d 0
  let su := normSum s d 4
  if (dec32 sp).isZero || (dec32 su).isZero then 0x3F800000#32 else oDiv p1 (oSqrt p1 sp) (oSqrt p1 su)

/-- TRUST_RATIO_SUM (R266): bank die 0 forms r, and pass 2 writes the range. -/
def execTrustRatioSum (desc : BitVec 12) (s : State) : Out :=
  match optLaunchOf s desc.toNat with
  | none => .next s
  | some l =>
    if l.phase = .pass1 then
      let d := optDescr s l.desc
      let r := trustRatio s d
      let ar := oMul (isP1 s) (coefOf l.coef 0) r
      let s1 := setBanks (setOptLaunch s { l with phase := .final }) l.desc true 2
      .next (finalPass (flagDie s1 0 (nonfinite32 r)) d l.coef ar)
    else .next s

/-- The launch of a descriptor writes in a sector: in its range or its norm scratch. -/
def launchWrites (d : BitVec 512) (sector : Nat) : Bool :=
  let a := 512 * sector
  (decide (oParam d ≤ a) && decide (a < oParam d + 98304 * oBlocks d)) ||
    (isTrust (oKind d) && decide (oNorm d < a + 512) && decide (a < oNorm d + 8 * recordCount d))

/-- Some write of a launch holds a tag or waits for one (R268). -/
def updateWrites (s : State) (desc : Nat) : Bool :=
  (s.mem.tags.any fun t => t.kind != .read && t.who == .meadowsweet && launchWrites (optDescr s desc) t.sector) ||
    s.mem.held.any fun m => m.kind != .read && m.who == .meadowsweet && launchWrites (optDescr s desc) m.sector

/-- MEADOWSWEET_LAUNCH_COMPLETE (R268): the last record is written and its tags are free. -/
def execMeadowsweetLaunchComplete (desc : BitVec 12) (s : State) : Out :=
  match optLaunchOf s desc.toNat with
  | none => .next s
  | some l =>
    if l.phase = .final ∧ updateWrites s l.desc = false then
      let s1 := { s with mem := { s.mem with launches := s.mem.launches.filter fun x => x.desc != l.desc } }
      let more := s1.mem.launches.any fun x => x.phase != .waiting
      let last := (s1.mem.optDesc.get 0).toNat
      let s2 := if more then s1 else setBanks s1 last false 0
      .next (finishLaunch s2 0x13 l.desc)
    else .next s

end Sys2Proof.Machine
end

