-- ==== Sys2Proof/Machine/Moves.lean ====
section
/-! DEFINITION. The M-class operations (R139, R176, R197, R198). Each has latency 2. -/

namespace Sys2Proof.Machine

/-- NOP: no action; any bit above the header is an ENCODING fault (R139, R176). -/
def execNop (op : CoreOp) (s : State) : Out :=
  coreOp s op [encodingUnless (zeros op.word 63 12)] s

/-- SMOVI: s_SD := IMM. -/
def execSmovi (op : CoreOp) (s : State) : Out :=
  coreOp s op [encodingUnless (zeros op.word 31 17)]
    (pushResult s op 2 (.scalar (fld op.word 16 12) [BitVec.ofNat 32 (fld op.word 63 32)]) false false)

/-- The function field of SALU and QALU (R198); none for a reserved code. -/
def aluFn (fn : Nat) (a b : Word) : Option Word :=
  let sh := fld b 4 0
  match fn with
  | 0 => some (a + b)
  | 1 => some (a - b)
  | 2 => some (a &&& b)
  | 3 => some (a ||| b)
  | 4 => some (a ^^^ b)
  | 5 => some (a <<< sh)
  | 6 => some (a >>> sh)
  | 7 => some (if a.toNat ≤ b.toNat then a else b)
  | 8 => some (if a.toNat ≤ b.toNat then b else a)
  | 9 => some (a * b)
  | _ => none

/-- SALU: s_SD := s_SA FN s_SB. -/
def execSalu (op : CoreOp) (s : State) : Out :=
  let t := opClk s op
  let sa := fld op.word 21 17
  let sb := fld op.word 26 22
  let r := aluFn (fld op.word 30 27) (sregAt s op.core sa t) (sregAt s op.core sb t)
  coreOp s op [encodingUnless (zeros op.word 63 31 && r.isSome), latS s op.core sa t, latS s op.core sb t]
    (pushResult s op 2 (.scalar (fld op.word 16 12) [r.getD 0]) false false)

/-- SADDI: s_SD := s_SA + IMM, modulo 2³². -/
def execSaddi (op : CoreOp) (s : State) : Out :=
  let t := opClk s op
  let sa := fld op.word 21 17
  coreOp s op [encodingUnless (zeros op.word 31 22), latS s op.core sa t]
    (pushResult s op 2
      (.scalar (fld op.word 16 12) [sregAt s op.core sa t + BitVec.ofNat 32 (fld op.word 63 32)]) false false)

/-- BSTAT: s_SD := the bank status word (R84). -/
def execBstat (op : CoreOp) (s : State) : Out :=
  let t := opClk s op
  coreOp s op [encodingUnless (zeros op.word 63 21)]
    (pushResult s op 2
      (.scalar (fld op.word 16 12) [bankStatusAt s op.core (fld op.word 18 17) (fld op.word 20 19) t]) false false)

/-- SMOVV: s_SD := lane LANE of v_VA. -/
def execSmovv (op : CoreOp) (s : State) : Out :=
  let t := opClk s op
  let va := fld op.word 22 17
  coreOp s op [encodingUnless (zeros op.word 63 31), latV s op.core va t]
    (pushResult s op 2 (.scalar (fld op.word 16 12) [vlaneAt s op.core va t (fld op.word 30 23)]) false false)

/-- VMOVS: every lane of v_VD := s_SA. -/
def execVmovs (op : CoreOp) (s : State) : Out :=
  let t := opClk s op
  let sa := fld op.word 22 18
  coreOp s op [encodingUnless (zeros op.word 63 23), latS s op.core sa t]
    (pushResult s op 2
      (.vector (fld op.word 17 12) 0 (List.replicate 256 (sregAt s op.core sa t))) false false)

/-- FLAGS: s_SD := the core's sticky flags (R58). -/
def execFlags (op : CoreOp) (s : State) : Out :=
  let t := opClk s op
  coreOp s op [encodingUnless (zeros op.word 63 17)]
    (pushResult s op 2 (.scalar (fld op.word 16 12) [flagsAt (settle s op.core (t - 1)) op.core t]) false false)

end Sys2Proof.Machine
end

