-- ==== Sys2Proof/Machine/ChipOps.lean ====
section
/-! DEFINITION. The chip operations (R161 to R165, R207 to R213) but those of collectives. -/

namespace Sys2Proof.Machine

/-- A chip operation that changes the flow of issue: a second one in a bundle raises ENCODING (R141). -/
def flowOp (s : State) (op : ChipOp) (checks : List (Option Flt)) (effect : State) : Out :=
  let count := fun (t : State) => { t with seq := { t.seq with flowOps := s.seq.flowOps + 1 } }
  if s.seq.current.isNone then .next s
  else chipOp (count s) op (encodingUnless (decide (s.seq.flowOps = 0)) :: checks) (count effect)

/-- Issue goes on after bundle x instead of after this one (R161, R164). -/
def jumpAfter (s : State) (x : Nat) : State :=
  let f := afterBundle s.seq.loops x
  redirectTo (setLoops s f.2 false) f.1

/-- Bundle x lies beyond the body of the innermost active loop. -/
def beyondLoop (s : State) (x : Nat) : Bool :=
  match s.seq.loops with
  | l :: _ => decide (l.last < x)
  | [] => false

/-- LOOP (R161, R162, R208). -/
def execLoop (op : ChipOp) (s : State) : Out :=
  let w := op.word
  let k := bundleNow s
  let b := fld w 37 13
  let count := (qregOf s (fld w 12 8)).toNat
  let l : Loop := { first := k + 1, last := k + b, count := count, left := count, brk := false }
  flowOp s op
    [encodingUnless (zeros w 63 38 && decide (1 ≤ b) && decide (b ≤ 2 ^ 24) && decide (k + b < bundleCount s) &&
        !beyondLoop s (k + b)),
      if count ≠ 0 ∧ 8 ≤ s.seq.loops.length then some { code := 0x0A } else none]
    (if count = 0 then jumpAfter s (k + b) else setLoops s (l :: s.seq.loops) true)

/-- LOOP.BREAK (R163). -/
def execLoopBreak (op : ChipOp) (s : State) : Out :=
  let w := op.word
  let taken := !flag w 8 || qregOf s (fld w 13 9) != 0
  let loops := match s.seq.loops with
    | l :: rest => (if taken then { l with brk := true } else l) :: rest
    | [] => []
  flowOp s op [encodingUnless (zeros w 63 14 && !s.seq.loops.isEmpty)] { s with seq := { s.seq with loops := loops } }

/-- The bodies of the LOOP operations in some bundles. -/
def loopBodies (s : State) (ks : List Nat) : List (Nat × Nat) :=
  ks.flatMap fun k => (List.range 8).filterMap fun c =>
    let w := chipWord s k c
    if fld w 7 0 = 1 ∧ k < bundleCount s then some (k + 1, k + fld w 37 13) else none

/-- The loop bodies the sequencer knows: of the active loops, of the fetched run-ahead, and of what the loop buffer has copied:
the whole body, or in the first iteration what lies up to the current bundle (R160, R165). -/
def knownBodies (s : State) : List (Nat × Nat) :=
  (s.seq.loops.map fun l => (l.first, l.last)) ++ loopBodies s (runAhead s) ++
    (match s.seq.loopBuf with
      | some b =>
        let last := if s.seq.bufFull then b.2 else min b.2 (bundleNow s)
        loopBodies s ((List.range (last + 1 - b.1)).map (b.1 + ·))
      | none => [])

/-- BRANCH (R165, R208): a taken branch ends each loop it leaves. A backward target is not in the run-ahead. -/
def execBranch (op : ChipOp) (s : State) : Out :=
  let w := op.word
  let k := bundleNow s
  let target := fld w 63 32
  let q := qregOf s (fld w 14 10)
  let within := fun (b : Nat × Nat) (x : Nat) => decide (b.1 ≤ x) && decide (x ≤ b.2)
  let into := (knownBodies s).any fun b => within b target && !within b k
  let taken := match fld w 9 8 with
    | 0 => true
    | 1 => q == 0
    | _ => q != 0
  let s1 := setLoops s (s.seq.loops.filter fun l => within (l.first, l.last) target) false
  flowOp s op
    [encodingUnless (zeros w 31 15 && decide (fld w 9 8 ≠ 3) && decide (target < bundleCount s) && !into)]
    (if taken then
      let s2 := redirectTo s target
      { s1 with seq := { s1.seq with redirect := some target, fetched := s2.seq.fetched && decide (k < target) } }
    else s)

/-- The cores of a SKIP.IF. -/
def skipCores (w : DWord) : List Nat := bitsOf (fld w 23 8) 16

/-- The condition of a SKIP.IF: ABSENT of its region is SENSE on some core of the mask (R164). -/
def skipCond (w : DWord) (region : Nat → BitVec 128) : Bool :=
  (skipCores w).any fun c => rAbsent (region c) == flag w 32

/-- SKIP.IF (R164, R208): its condition is that of the look clk. -/
def execSkipIf (op : ChipOp) (s : State) : Out :=
  let w := op.word
  let k := bundleNow s
  let n := fld w 56 33
  let cond : Bool := match s.seq.look with
    | some p => if p.1 = w then p.2 else skipCond w fun c => regionOf s c (fld w 31 24)
    | none => skipCond w fun c => regionOf s c (fld w 31 24)
  flowOp s op
    [encodingUnless (zeros w 63 57 && (skipCores w).all (fun c => decide (c < jobCores s)) &&
        (n == 0 || (decide (k + n < bundleCount s) && !beyondLoop s (k + n))))]
    (if cond = true ∧ n ≠ 0 then jumpAfter s (k + n) else s)

/-- WAIT (R209): its condition has been met before the bundle issued. -/
def execWait (op : ChipOp) (s : State) : Out :=
  let w := op.word
  let kind := fld w 9 8
  chipOp s op [encodingUnless (zeros w 63 27 && decide (kind ≠ 3) && (kind != 0 || fld w 14 10 % 2 == 0))] s

/-- Write a sequencer register. -/
def setQreg (s : State) (r : Nat) (v : Word) : State := { s with seq := { s.seq with qreg := s.seq.qreg.set r v } }

/-- QMOVI. -/
def execQmovi (op : ChipOp) (s : State) : Out :=
  let w := op.word
  chipOp s op [encodingUnless (zeros w 31 13)] (setQreg s (fld w 12 8) (BitVec.ofNat 32 (fld w 63 32)))

/-- QADDI. -/
def execQaddi (op : ChipOp) (s : State) : Out :=
  let w := op.word
  chipOp s op [encodingUnless (zeros w 31 18)]
    (setQreg s (fld w 12 8) (qregOf s (fld w 17 13) + BitVec.ofNat 32 (fld w 63 32)))

/-- QALU: as SALU, on sequencer registers. -/
def execQalu (op : ChipOp) (s : State) : Out :=
  let w := op.word
  let r := aluFn (fld w 26 23) (qregOf s (fld w 17 13)) (qregOf s (fld w 22 18))
  chipOp s op [encodingUnless (zeros w 63 27 && r.isSome)] (setQreg s (fld w 12 8) (r.getD 0))

/-- MB.SET (R212). -/
def execMbSet (op : ChipOp) (s : State) : Out :=
  let w := op.word
  let q := qregOf s (fld w 12 8)
  chipOp s op [encodingUnless (zeros w 63 13 && zeros q 31 16)]
    { s with seq := { s.seq with microBatch := BitVec.ofNat 16 q.toNat } }

/-- OPT.LAUNCH (R267, R268): at most once per step and descriptor. -/
def execOptLaunch (op : ChipOp) (s : State) : Out :=
  let w := op.word
  let n := fld w 19 8
  let l : OptLaunch := { desc := n, issue := 8 * (s.seq.issued - 1), lane := op.slot, phase := .waiting, coef := [] }
  chipOp s op
    [encodingUnless (zeros w 63 20 && decide (n < sectionCount s 14 64) && !s.mem.launched.contains n)]
    (elasticIssue s { s with mem := { s.mem with launches := s.mem.launches ++ [l], launched := s.mem.launched ++ [n] } })

/-! ### STEP.COMMIT (R213, R275) -/

/-- A tag whose operation STEP.COMMIT waits for. -/
def commitWaits : Requester → Bool
  | .stream .. => true
  | .vetch => true
  | .link => true
  | .meadowsweet => true
  | _ => false

/-- Every elastic operation of the device has completed, its tags are free, and none waits for one (R213, R239). -/
def elasticDone (s : State) : Bool :=
  s.cu.captured.isEmpty && s.stash.ops.isEmpty && s.coll.launches.isEmpty && s.mem.launches.isEmpty &&
    !(s.mem.tags.any fun t => commitWaits t.who) && !(s.mem.held.any fun m => commitWaits m.who)

/-- The lowest region that is not free of the lowest active core that has one. -/
def regionHeld (s : State) : Option Nat :=
  (s.cu.region.find? fun e => decide (e.1 / 256 < jobCores s) && rState e.2 != 0).map fun e => e.1 % 256

/-- The commit configuration (R274). -/
def commitConfig (s : State) : List Byte := sectionEntry s 4 32 0

/-- The loss word; none where LOSS is zero. -/
def lossWord (s : State) : Option Word :=
  let a := numAt (commitConfig s) 0 8
  if a = 0 then none else some (BitVec.ofNat 32 (memNum s a 4))

/-- The maximum PENDING over the slots bound to scale record i (R275); +0 for a malformed record (R72). -/
def pendingOf (s : State) (i : Nat) : Word :=
  if scaleMalformed (memBytes s (scaleRecordAddr s i) 128) then 0
  else BitVec.ofNat 32 (((List.range (jobCores s)).flatMap fun c => (List.range 16).filterMap fun n =>
    if slotBinding s c n = some i then some (fld (slotOf s c n) 87 56) else none).foldl max 0)

/-- The sources of NF on this device: core, bank die, loss, collective engine (R282). A core's flag is what its FLAGS would
read in the first clk of the beat. -/
def nfSources (s : State) : BitVec 5 :=
  let t := 8 * (s.seq.issued - 1)
  let core := (List.range (jobCores s)).any fun c => (flagsAt (settle s c (t - 1)) c t).getLsbD 0
  let loss := match lossWord s with
    | some v => nonfinite32 v
    | none => false
  BitVec.ofNat 5 (core.toNat + 2 * (s.mem.nonfin != 0).toNat + 4 * loss.toNat + 8 * s.coll.nonfin.toNat)

/-- The local gather (step 3 of R275). -/
def gather (s : State) : State :=
  let src := nfSources s
  { s with commit := { s.commit with
      phase := .gathered, nf := src != 0, sources := src
      pend := (List.range (scaleCount s)).map (pendingOf s) } }

/-- STEP.COMMIT: with every region free it gathers; a pending uncorrectable-error report abandons the step instead. -/
def execStepCommit (op : ChipOp) (s : State) : Out :=
  chipOp s op
    [encodingUnless (zeros op.word 63 8), (regionHeld s).map fun n => { code := 9, info := n }]
    (if s.mem.ueReport then abandonStep s 3 else gather s)

end Sys2Proof.Machine
end

