-- ==== Sys2Proof/Machine/Sequencer.lean ====
section
/-! DEFINITION. Issue (R137 to R165): the hold tests of the look clk, hold beats, the issue of a bundle, the end of the
stream, HOLD_TIMEOUT and SLIP. -/

namespace Sys2Proof.Machine

/-! ### Opcodes (R175, R207) -/

/-- The opcode of a core operation is listed; an M-class 0x00 is a NOP only with bits [63:12] zero (R176). -/
def coreOpcodeOk (w : DWord) : Bool :=
  let o := fld w 11 5
  match fld w 4 3 with
  | 0 => decide (o ≤ 7) && (o != 0 || zeros w 63 12)
  | 1 => decide (1 ≤ o) && decide (o ≤ 5)
  | 2 => (decide (1 ≤ o) && decide (o ≤ 0xE)) || o == 0x10 || o == 0x11 || o == 0x18 || o == 0x19 ||
      (decide (0x20 ≤ o) && decide (o ≤ 0x23)) || (decide (0x28 ≤ o) && decide (o ≤ 0x2B))
  | _ => (decide (1 ≤ o) && decide (o ≤ 3)) || (decide (8 ≤ o) && decide (o ≤ 0xB)) || o == 0x10 || o == 0x11 ||
      o == 0x18 || o == 0x19 || o == 0x20

/-- The opcode of a chip operation is listed; a no-operation has no other bit (R140, R207). -/
def chipOpcodeOk (w : DWord) : Bool :=
  let o := fld w 7 0
  (o == 0 && w == 0) || (decide (1 ≤ o) && decide (o ≤ 8)) || (decide (0x10 ≤ o) && decide (o ≤ 0x14))

/-! ### The tests of the look clk (R153, R154) -/

/-- A failing test: whose it is, its region, its cause in the order of CNT_HOLDC, and whether it is REGION_ORDER. -/
structure HoldTest where
  chip   : Bool
  core   : Nat
  slot   : Nat
  offset : Nat
  region : Nat
  cause  : Nat
  order  : Bool
  deriving DecidableEq, Repr

/-- A region at the look clk: schedule clk 5 of the preceding issued bundle, or, in a run of hold beats, clk 5 of the last of
them. -/
def lookRegion (s : State) (core n : Nat) : BitVec 128 :=
  if s.seq.hold.isNone ∧ 0 < s.seq.issued then regionAt s core n (8 * s.seq.issued - 2)
  else match s.cu.heldLog.find? fun e => e.1 == core * 256 + n with
    | some e => e.2
    | none => regionOf s core n

/-- The regions an operation consumes. -/
def consumedRegions (w : DWord) : List Nat :=
  match fld w 4 3, fld w 11 5 with
  | 1, 1 => ((maskArrays (fld w 15 12)).map fun n => (fld w 25 18 + n) % 256) ++ [fld w 33 26]
  | 1, 3 => [fld w 28 21]
  | 2, 0x18 => if flag w 39 then [fld w 47 40] else []
  | 3, 9 => [fld w 23 16]
  | 3, 0x10 => [fld w 25 18]
  | 3, 0x18 => [fld w 25 18]
  | 3, 0x20 => [fld w 23 16]
  | _, _ => []

/-- A scheduled producer, or consumer, of a region has issued and not completed at the look clk. -/
def schedOpen (s : State) (core n : Nat) (prod : Bool) : Bool :=
  s.cu.schedEnds.any fun e => e.key == core * 256 + n && e.prod == prod &&
    (!e.done || (s.seq.hold.isNone && decide (8 * s.seq.issued - 2 ≤ e.due)))

/-- A consumer proceeds when its region is ready or consuming; REGION_ORDER when it could never become so. -/
def consumerTest (s : State) (w : DWord) (core slot n : Nat) : Option HoldTest :=
  let d := lookRegion s core n
  if rState d = 2 ∨ rState d = 3 then none
  else some { chip := false, core := core, slot := slot, offset := fld w 2 0, region := n, cause := 0,
              order := rState d == 0 || decide (0 < rPtodo d) || schedOpen s core n true }

/-- A REGION.SET proceeds when its region is free. -/
def setTest (s : State) (w : DWord) (core slot n : Nat) : Option HoldTest :=
  let d := lookRegion s core n
  if rState d = 0 then none
  else some { chip := false, core := core, slot := slot, offset := fld w 2 0, region := n, cause := 2,
              order := decide (0 < rCtodo d) || schedOpen s core n false }

/-- The failing tests of a core operation. -/
def coreTests (s : State) (core slot : Nat) (w : DWord) : List HoldTest :=
  if fld w 4 3 = 3 ∧ fld w 11 5 = 1 then (setTest s w core slot (fld w 19 12)).toList
  else (consumedRegions w).filterMap (consumerTest s w core slot)

/-- A SKIP.IF proceeds when every region it tests is ready or consuming. -/
def skipTests (s : State) (slot : Nat) (w : DWord) : List HoldTest :=
  let n := fld w 31 24
  ((skipCores w).filter fun c => decide (c < jobCores s)).filterMap fun c =>
    let d := lookRegion s c n
    if rState d = 2 ∨ rState d = 3 then none
    else some { chip := true, core := c, slot := slot, offset := 0, region := n, cause := 3, order := rState d == 0 }

/-- The condition of a WAIT (R209). -/
def waitMet (s : State) (w : DWord) : Bool :=
  let id := fld w 26 15
  match fld w 9 8 with
  | 0 => decide (s.time.origin.toNat + 512 * qpair s (fld w 14 10) ≤ s.time.epoch.toNat)
  | 1 => !s.coll.launches.any fun l => l.registered && l.desc == id
  | 2 => !s.mem.launches.any fun l => l.desc == id
  | _ => true

/-- The failing tests of a chip operation. -/
def chipTests (s : State) (slot : Nat) (w : DWord) : List HoldTest :=
  let held := fun (ok : Bool) => if ok then []
    else [{ chip := true, core := 0, slot := slot, offset := 0, region := 0, cause := 4, order := false : HoldTest }]
  match fld w 7 0 with
  | 4 => skipTests s slot w
  | 5 => held (waitMet s w)
  | 0x11 => held (epochDrainedAll s)
  | 0x14 => held (elasticDone s)
  | _ => []

/-- The failing tests of bundle k: the chip lane, then the active cores' lanes. -/
def holdTests (s : State) (k : Nat) : List HoldTest :=
  ((List.range 8).flatMap fun c => chipTests s c (chipWord s k c)) ++
    (List.range (jobCores s)).flatMap fun c => (List.range 4).flatMap fun n => coreTests s c n (coreWord s k c n)

/-! ### Beats -/

/-- Counters 0 to 23 and the fixed counters are cleared in the beat in which the first bundle is due (R457). -/
def firstBeat (s : State) : State :=
  if s.mon.cleared then s
  else
    { s with mon := { s.mon with
        val := s.mon.val.clear 0 24, beats := 0, holds := [], coreHolds := [], clks := 0, heldBeats := 0
        cleared := true } }

/-- A beat passes: 8 arithmetic clks. -/
def passBeat (s : State) : State :=
  countEv { s with mon := { s.mon with clks := s.mon.clks + 8 } } { code := 1, amount := 8 }

/-- The cause a hold beat is counted under (R458): region, fetch, REGION.SET, SKIP.IF, WAIT. -/
def holdCause (fetch : Bool) (ts : List HoldTest) : Nat :=
  let has := fun (c : Nat) => ts.any fun t => t.cause == c
  if has 0 then 0 else if fetch then 1 else if has 2 then 2 else if has 3 then 3 else 4

/-- The cores that held a failing operation in a beat. -/
def failingCores (ts : List HoldTest) : List Nat :=
  (ts.filter fun t => t.cause != 4).foldl (fun l t => insertNat t.core l) []

/-- The lowest failing region of each core, with its cause, over a run of hold beats. -/
def mergeCores (old : List (Nat × Nat × Nat)) (ts : List HoldTest) : List (Nat × Nat × Nat) :=
  (ts.filter fun t => t.cause != 4).foldl (fun l t =>
    match l.find? fun e => e.1 == t.core with
    | some e => if t.region < e.2.1 then l.map fun x => if x.1 = t.core then (t.core, t.region, t.cause) else x else l
    | none => l ++ [(t.core, t.region, t.cause)]) old

/-- The first failing operation of a beat: chip lane, core, slot, offset; the sequencer where there is none. -/
def firstFailing (ts : List HoldTest) : Bool × Nat × Nat × Nat := match ts with
  | t :: _ => (t.chip, if t.chip then 0 else t.core, t.slot, t.offset)
  | [] => (true, 0, 0, 0)

/-- A hold beat of bundle k (R144, R157, R457, R458). -/
def holdBeat (s : State) (k : Nat) (fetch : Bool) (ts : List HoldTest) : State :=
  let old := s.seq.hold.getD { bundle := k, start := s.time.epoch.toNat, beats := 0, fetch := false, waits := true,
                               cores := [], who := (true, 0, 0, 0), late := fetch, met := false }
  let h := { old with
    beats := old.beats + 1, fetch := old.fetch || fetch, waits := old.waits && !fetch && ts.all fun t => t.cause == 4
    cores := mergeCores old.cores ts, who := firstFailing ts, late := fetch }
  let up := fun (w : Word) => BitVec.ofNat 32 (satAdd 32 w.toNat 1)
  let cores := failingCores ts
  let s1 := { s with
    cu := { s.cu with heldLog := [] }
    seq := { s.seq with hold := some h }
    mon := { s.mon with
      holds := s.mon.holds.modify (holdCause fetch ts) up
      coreHolds := cores.foldl (fun m c => m.modify c up) s.mon.coreHolds
      heldBeats := s.mon.heldBeats + 1 } }
  cores.foldl (fun s c => countEv s { code := 3, core := some c, coreOnly := true }) (countEv s1 { code := 3 })

/-! ### Issue -/

/-- What no later operation can meet is forgotten: units whose last clk lies well before clk t, past port claims. -/
def prune (s : State) (t : Nat) : State :=
  let sweeps := s.cu.sweeps.filter fun w => !(decide (sweepGroups w ≤ w.done) && decide (w.first + w.slices + 10 < t))
  let inits := s.cu.inits
  let keep := fun (c : Nat) => (sweeps.any fun w => w.core == c) || netReaders s c
  { s with
    cu := { s.cu with
      sweeps := sweeps
      drains := s.cu.drains.filter fun d => !(d.toCome == 0 && decide (d.first + 74 < t))
      nets := s.cu.nets.filter fun x => decide (x.sent < x.pairs.length) || decide (t < netClk x x.pairs.length)
      ports := s.cu.ports.filter fun u => u.claims.any fun c => decide (t ≤ claimClk c)
      tileLog := s.cu.tileLog.filter fun e => keep (e.1 / 33554432)
      accLog := s.cu.accLog.filter fun e => (inits.any fun b => b.core == e.1 / 1048576) || netReaders s (e.1 / 1048576)
      schedEnds := s.cu.schedEnds.filter fun e => !e.done || decide (t ≤ e.due + 8)
      regionLog := s.cu.regionLog.filter fun e => decide (t ≤ e.2.2 + 8)
      heldLog := []
      streamLog := s.cu.streamLog.filter fun e => decide (t ≤ e.2.2) }
    stash := { s.stash with plan := [] } }

/-- Units a step consumes (UPS). -/
def unitsPerStep (s : State) : Nat := numAt (sectionEntry s 6 16 0) 12 4

/-- The first bundle of a step: the dataset cursor passes the step's units (R391), and DRAW of every generator slot is
kept for a skip (R276). -/
def openStep (s : State) : State :=
  if s.seq.fresh then
    { s with
      seq := { s.seq with fresh := false }
      eth := { s.eth with stepCursor := s.eth.cursor, cursor := s.eth.cursor + BitVec.ofNat 64 (unitsPerStep s) }
      cu := { s.cu with gen0 := (List.range 256).foldl (fun m i =>
        m.set i (BitVec.ofNat 64 (fld (s.cu.gen.get i) 127 64))) s.cu.gen0 } }
  else s

/-- The SKIP.IF of bundle k and its condition at the look clk. -/
def lookSkip (s : State) (k : Nat) : Option (DWord × Bool) :=
  ((List.range 8).map (chipWord s k)).findSome? fun w =>
    if fld w 7 0 = 4 then some (w, skipCond w fun c => lookRegion s c (fld w 31 24)) else none

/-- The sample of a word that no table lists: it issues, is no NOP, and faults (R460, R462). -/
def reservedSample (s : State) (o : Origin) (w : DWord) : Sample :=
  { bundle := o.bundle, who := BitVec.ofNat 8 (o.core + 16 * o.slot + (if o.chip then 128 else 0))
    cls := if o.chip then 0 else fld w 4 3, opcode := if o.chip then fld w 7 0 else fld w 11 5, elastic := false
    issue := o.clk, core := o.core, slot := o.slot, region := none, desc := none, clks := s.mon.clks
    holds := s.mon.heldBeats }

/-- A word with an opcode that no table lists raises ENCODING at issue (R15) and is counted for Eyebright (R460). -/
def reservedOp (s : State) (x : Origin × DWord) : State :=
  let r := raiseFault s x.1 { code := 1 }
  sampleOp r (reservedSample s x.1 x.2) (if x.1.chip then 4 else fld x.2 4 3) .faulted

/-- The words of bundle k with an opcode that no table lists; they count before the bundle's other operations (DEDUCED 56). -/
def reservedOps (s : State) (k : Nat) : State :=
  let t := 8 * (s.seq.issued - 1)
  let chip := (List.range 8).filterMap fun c =>
    if chipOpcodeOk (chipWord s k c) then none
    else some ({ clk := t, chip := true, core := 0, slot := c, offset := 0, bundle := k : Origin }, chipWord s k c)
  let core := (List.range (jobCores s)).flatMap fun c => (List.range 4).filterMap fun n =>
    let w := coreWord s k c n
    if coreOpcodeOk w then none
    else some ({ clk := t + fld w 2 0, chip := false, core := c, slot := n, offset := fld w 2 0, bundle := k : Origin }, w)
  (chip ++ core).foldl reservedOp s

/-- Bundle k issues (R143). -/
def issueBundle (s : State) (k : Nat) (loops : List Loop) (ahead : Nat) : State :=
  let look := lookSkip s k
  let s1 := setLoops (openStep (endHold s)) loops false
  let s2 := prune s1 (8 * s1.seq.issued)
  let s3 := { s2 with
    seq := { s2.seq with current := some k, redirect := none, fetched := false, issued := s2.seq.issued + 1
                         flowOps := 0, ahead := min ahead 512, look := look, looked := false }
    mon := { s2.mon with beats := s2.mon.beats + 1 } }
  reservedOps (countEv (fillBuffer s3 k) { code := 2 }) k

/-- The origin of a fault of the look clk of bundle k. -/
def testOrigin (s : State) (k : Nat) (t : HoldTest) : Origin :=
  { clk := 8 * s.seq.issued - 3, chip := t.chip, core := if t.chip then 0 else t.core, slot := t.slot
    offset := t.offset, bundle := k }

/-- The lease still lets bundles issue: tick EXPIRY + GRACE has not ended (R388). -/
def leaseHolds (s : State) : Bool :=
  decide (s.time.epoch.toNat ≤ s.eth.expiry.toNat + 1000000 * numAt s.eth.entry 28 4)

/-- A bundle is due (R143, R321, R370, R388): the job runs under its lease, its step is open, the origin has been
reached. -/
def issueDue (s : State) : Bool :=
  leaseHolds s && s.seq.running && !s.seq.stopped && !s.seq.ended && stepOpen s &&
    (match s.rsl.start with
      | some t => decide (t.toNat ≤ s.time.epoch.toNat)
      | none => decide (s.time.origin.toNat ≤ s.time.epoch.toNat))

/-- The bundle holds an EPOCH.ADVANCE. -/
def hasAdvance (s : State) (k : Nat) : Bool := (List.range 8).any fun c => fld (chipWord s k c) 7 0 == 0x11

/-- The tests of the look clk of bundle k that end in REGION_ORDER are raised (R154, R170). Each failing region of an
operation is a fault of its own, in operand order (DEDUCED 54). -/
def orderFaults (s : State) (k : Nat) : State :=
  ((holdTests s k).filter (·.order)).foldl (fun s' t => raiseFault s' (testOrigin s k t) { code := 9, info := t.region }) s

/-- The chip has stopped on a fault of the current beat, whose look clk has not been tested yet: its faults belong to the
stopping beat too (R170). -/
def lateLook (s : State) : Bool :=
  s.seq.stopped && s.seq.fault.code != 0 && s.seq.current.isSome && !s.seq.looked &&
    decide (s.seq.fault.clk / 8 + 1 = s.seq.issued)

/-- BUNDLE_ISSUE: a beat. `arrived`: the bundle due is in every lane queue, as it is in any case where the run-ahead or the
loop buffer holds it (R160, R165); `ahead`: bundles fetched beyond it, at most 512 (R159). In the stopping beat only its look
clk is tested. -/
def execBundleIssue (arrived : Bool) (ahead : Nat) (s : State) : Out :=
  if lateLook s then
    let k := (nextFlow s).1
    let s1 := { s with seq := { s.seq with looked := true } }
    .next (if (arrived || inRunAhead s k) && decide (k < bundleCount s) then orderFaults s1 k else s1)
  else if !issueDue s then .next s
  else
    let s1 := passBeat (firstBeat s)
    let f := nextFlow s1
    let k := f.1
    if s1.commit.phase ≠ .idle then
      .next (holdBeat s1 k (!arrived && !inRunAhead s k && decide (k < bundleCount s))
        [{ chip := true, core := 0, slot := 0, offset := 0, region := 0, cause := 4, order := false }])
    else if bundleCount s1 ≤ k then
      .next (let s2 := endHold s1; { s2 with seq := { s2.seq with ended := true, running := false, current := none } })
    else if !arrived && !inRunAhead s k then .next (holdBeat s1 k true [])
    else
      let s2 := if hasAdvance s1 k then tellDrained s1 else s1
      let ts := holdTests s2 k
      if ts.any (·.order) then .next (orderFaults { s2 with seq := { s2.seq with looked := true } } k)
      else if !ts.isEmpty then .next (holdBeat s2 k false ts)
      else .next (issueBundle s2 k f.2 ahead)

/-- STREAM_END_RELEASE (R488): once every elastic operation has completed, the lease is released. -/
def execStreamEndRelease (s : State) : Out :=
  if s.seq.ended ∧ elasticDone s then .next (releaseLease s false) else .next s

/-- The run of hold beats is over but for the beat that ends it: STEP.COMMIT has completed, every test of the bundle due
passes, and it has arrived or issue has passed the last bundle. -/
def holdOver (s : State) (h : Hold) : Bool :=
  let k := (nextFlow s).1
  s.commit.phase == .idle && (decide (bundleCount s ≤ k) || ((!h.late || inRunAhead s k) && (holdTests s k).isEmpty))

/-- At the end of a run's tick of expiry: whether what it waits for has come, which ends the hold (R156, R322). -/
def expiryTick (s : State) : State :=
  match s.seq.hold with
  | none => s
  | some h =>
    if s.time.epoch.toNat = h.start + holdLimit s then
      { s with seq := { s.seq with hold := some { h with met := holdOver s h } } }
    else s

/-- HOLD_TIMEOUT (R156, R280): a run of hold beats outlasts the hold limit, the tick of expiry included (R322). A commit
reduction that does not complete within it abandons the step. -/
def execHoldTimeout (s : State) : Out :=
  match s.seq.hold with
  | none => .next s
  | some h =>
    if s.seq.stopped ∨ s.time.epoch.toNat ≤ h.start + holdLimit s ∨ h.met then .next s
    else if s.commit.phase = .launched then .next (abandonStep (endHold s) 0xA)
    else
      let low := h.cores.foldl (fun m e => min m e.2.1) 0xFFFF
      .next (raiseFault (endHold s)
        { clk := 8 * s.seq.issued, chip := h.who.1, core := h.who.2.1, slot := h.who.2.2.1, offset := h.who.2.2.2
          bundle := h.bundle }
        { code := 0x0B, info := if h.waits then 0xFFFF else low })

/-- SLIP (R168): the fault of a late arrival; at a crossing of a core position that position is fenced (R133). No operation
raises it: it is recorded under the current bundle, chip slot 0 and the clk after the last issued one (DEDUCED 54). -/
def execSlip (crossing late : BitVec 16) (position : Option (Fin 20)) (s : State) : Out :=
  let s0 := match position with
    | some p => if (positionAt s p).state = 1 then lateTags s (positionAt s p).logical.toNat else s
    | none => s
  let s1 := if s.seq.job.isSome then
      raiseFault s0 { clk := 8 * s.seq.issued, chip := true, core := 0, slot := 0, offset := 0, bundle := bundleNow s }
        { code := 7, info := crossing.toNat, aux := late.toNat }
    else s
  match position with
  | some p => .next (fencePosition s1 p 4)
  | none => .next s1

end Sys2Proof.Machine
end

