-- ==== Sys2Proof/Machine/Commit.lean ====
section
/-! DEFINITION. The commit of a step (R275 to R283, R357, R371, R392): the commit reduction, the commit instant, the
completion of STEP.COMMIT with its rewind point and snapshot. -/

namespace Sys2Proof.Machine

/-! ### The commit reduction (R275, R347) -/

/-- What this device brings to the commit reduction: NF and BUSY, and the PENDING maxima. -/
def reductionPayload (s : State) : List Byte :=
  BitVec.ofNat 8 (s.commit.nf.toNat + 2 * (snapBusy s).toNat) :: s.commit.pend.flatMap fun v => leBytes 4 v.toNat

/-- The ports whose links the job owns and that are UP. -/
def ownedPorts (s : State) : List Nat :=
  (List.range 7).filter fun p => (portOf s p).mode == .up && portOwned s p

/-- The ports of the tree edges of this device. -/
def treePorts (s : State) : List Nat :=
  let t := jobTopo s
  let me := myRank s
  ((treeParent t 7 me).toList ++ treeChildren t 7 me).filterMap fun r => (treeLabel t 7 me r).bind (labelPort s)

/-- Each owned link that is no tree edge carries this device's count of the packets it sent there (R279, R347), which the packet
takes as it leaves. -/
def sendCounts (s : State) : State :=
  ((ownedPorts s).filter fun p => !(treePorts s).contains p).foldl (fun t p =>
    transmit t p (newPacket s (peerCoord s p) 2 (systemAux s 0 false 0) [])) s

/-- COMMIT_REDUCTION_LAUNCH (R275, R279, R347): at the first tick of a slot after the gather. -/
def execCommitReductionLaunch (s : State) : Out :=
  if s.commit.phase = .gathered ∧ atSlotStart s then
    .next (enterJoin (sendCounts { s with commit := { s.commit with phase := .launched } }) 0 (reductionPayload s))
  else .next s

/-! ### The commit instant (R276) -/

/-- CUR flips in every staged block, and STAGED is cleared. -/
def flipVersions (s : State) : State :=
  { s with mem := { s.mem with
      cur := s.mem.staged.foldl (fun m c => m.modify c.1 (· ^^^ c.2)) s.mem.cur
      staged := [] } }

/-- The commit writes bytes at a local address, after Tansy's copy of a page it protects (R361). -/
def commitStore (s : State) (a : Nat) (bs : List Byte) : State :=
  writeMem (touchWrite s (physAddr s a) { code := 0x50, die := some (dieOf s a), addr := some a }) a bs

/-- One scale record at the commit instant: R71 on a commit, PENDING cleared on a skip; a malformed record keeps every byte
(R72). -/
def commitScale (skip : Bool) (maxima : List Word) (s : State) (i : Nat) : State :=
  let a := scaleRecordAddr s i
  let r := memBytes s a 128
  if scaleMalformed r then s
  else if skip then commitStore s (a + 68) (List.replicate 4 0)
  else commitStore s a (scaleCommitted r (maxima.getD i 0))

/-- The uncorrectable words that the scale records are read from at the commit instant (R226, R228). -/
def scalesMet (s : State) : List Nat :=
  (badAddrs s).filter fun w => (List.range (scaleCount s)).any fun i =>
    let a := physAddr s (scaleRecordAddr s i)
    decide (a < w + 8) && decide (w < a + 128)

/-- Address of the ring's place for the n-th record. -/
def ringPlace (s : State) (n : Nat) : Nat := numAt (commitConfig s) 8 8 + 64 * (n % 256)

/-- The protected pages whose source copies the writes of the commit instant touch and that cannot be copied: their scale records,
after the flip of versions, and the place of the step record (R361, R364). -/
def commitDamages (s : State) (skip : Bool) : List Nat :=
  let u := if skip then s else flipVersions s
  let places := ringPlace s (s.rsl.commits.toNat + 1) :: (List.range (scaleCount s)).map (scaleRecordAddr s)
  (places.filterMap fun a => protectedBy u (physAddr u a)).filter fun p => (pageDamaged u p).isSome

/-- Every scale record at the commit instant. -/
def commitScales (s : State) (skip : Bool) (maxima : List Word) : State :=
  (List.range (scaleCount s)).foldl (commitScale skip maxima) s

/-- PENDING of every scale slot becomes zero. -/
def clearPending (s : State) : State :=
  { s with cu := { s.cu with scale := s.cu.scale.foldl (fun m c => m.set c.1 (putFld c.2 87 56 0)) s.cu.scale } }

/-- DRAW of every sequential-mode slot as it stood at the step's first bundle. -/
def restoreDraws (s : State) : State :=
  { s with cu := { s.cu with gen := s.cu.gen.foldl (fun m c =>
      if flag c.2 32 then m.set c.1 (putFld c.2 127 64 (s.cu.gen0.get c.1).toNat) else m) s.cu.gen } }

/-- The effects of the table "Effects at the commit instant". -/
def commitEffects (s : State) (skip : Bool) (maxima : List Word) : State :=
  if skip then
    let s1 := restoreDraws (clearPending (commitScales { s with mem := { s.mem with staged := [] } } true maxima))
    { s1 with
      stash := { s1.stash with entries := s1.stash.entries.filter fun e => e.born != s.rsl.commits }
      eth := { s1.eth with
        cursor := if numAt (commitConfig s) 16 1 = 1 then s1.eth.stepCursor else s1.eth.cursor }
      commit := { s1.commit with
        skiprun := s1.commit.skiprun + 1, skips := BitVec.ofNat 32 (satAdd 32 s1.commit.skips.toNat 1) } }
  else
    let s1 := clearPending (commitScales (flipVersions s) false maxima)
    { s1 with
      seq := { s1.seq with step := s1.seq.step + 1 }
      commit := { s1.commit with skiprun := 0 } }

/-- SOURCES of the step record: this device's own, or another device only. -/
def recordSources (s : State) (skip : Bool) : Nat :=
  if skip ∧ fld s.commit.sources 3 0 = 0 then 16 else fld s.commit.sources 3 0

/-- The step record (R282): `old` is the state before the instant, `s` after it. -/
def stepRecord (old s : State) (skip : Bool) : List Byte :=
  leBytes 8 old.seq.step.toNat ++ leBytes 4 ((lossWord old).getD 0).toNat ++ [if skip then 2 else 1] ++
    leBytes 1 (recordSources old skip) ++ leBytes 1 (min s.commit.skiprun 255) ++ [0] ++
    leBytes 8 (if skip then 0 else old.mem.digest.toNat) ++ leBytes 8 s.eth.cursor.toNat ++
    leBytes 8 s.time.epoch.toNat ++ leBytes 4 s.coll.layout.toNat ++ List.replicate 20 0

/-- Address of the directory's place for the n-th record of this rank (R390). -/
def recordPlace (s : State) (n : Nat) : Nat :=
  let per := numAt s.eth.entry 48 4
  numAt s.eth.entry 40 8 + 64 * (per * s.eth.rank + n % max 1 per)

/-- Write the step record to the ring and to the directory (R282, R390). -/
def writeRecord (s : State) (r : List Byte) : State :=
  let n := s.rsl.commits.toNat + 1
  let s1 := commitStore s (ringPlace s n) r
  startTransfer { s1 with rsl := { s1.rsl with recHigh := max n s1.rsl.recHigh } } 8 .record (recordPlace s n) r

/-- The fields that a replay compares: STEP, LOSS, OUTCOME, DIGEST, CURSOR (R371). -/
def recordFields (r : List Byte) : List Byte := bytesAt r 0 13 ++ bytesAt r 16 16

/-- Link counts of the step and of the queues start again (R279, R340). -/
def resetCounts (s : State) : State :=
  { s with
    link := { s.link with ports := s.link.ports.map fun q => { q with sent := 0, received := 0 } }
    coll := { s.coll with taken := [], itemsIn := [], landed := [], itemsOut := [] } }

/-- Tree traffic returns to the links that are UP again (R326). -/
def rejoinTree (s : State) : State :=
  { s with link := { s.link with away := s.link.away.filter fun l =>
      !(s.link.ports.any fun q => q.mode == .up && q.label == l) } }

/-- The commit instant with the joined payload. -/
def commitWith (s : State) (bs : List Byte) : State :=
  let f := numAt bs 0 1
  let skip := f.testBit 0
  let s1 := commitEffects s skip ((List.range (scaleCount s)).map fun i => BitVec.ofNat 32 (numAt bs (1 + 4 * i) 4))
  let r := stepRecord s s1 skip
  let s2 := rejoinTree (resetCounts (writeRecord s1 r))
  let s3 := { s2 with
    mem := { s2.mem with digest := 0 }
    rsl := { s2.rsl with
      mismatch := s2.rsl.phase == .verify && recordFields r != recordFields s2.rsl.replay }
    commit := { s2.commit with
      phase := .decided, last := if skip then 2 else 1, sources := BitVec.ofNat 5 (recordSources s skip)
      good := !skip, busy := f.testBit 1, late := false } }
  leaveJoin s3 0

/-- COMMIT_INSTANT (R276, R282, R347, R371): once the joined values have come down. A scale record whose read is uncorrectable, or
such a word met by the copy of a page before its write, abandons the step instead (R228, R280): no version flips and no record is
written. -/
def execCommitInstant (s : State) : Out :=
  match s.coll.reduction.down with
  | some bs =>
    if s.commit.phase ≠ .launched then .next s
    else
      let pages := commitDamages s ((numAt bs 0 1).testBit 0)
      if (scalesMet s).isEmpty ∧ pages.isEmpty then .next (commitWith s bs)
      else .next (pages.foldl tansyCopy ((scalesMet s).foldl handleUe s))
  | none => .next s

/-! ### Completion (R213, R275, R354, R392) -/

/-- The units the next step consumes are resident. -/
def unitsResident (s : State) : Bool :=
  (List.range (unitsPerStep s)).all fun i => s.eth.resident.contains (s.eth.cursor.toNat + i)

/-- The effects of completion: flags, scale slots, micro-batch, ATTEMPTQ, the commit count, the rewind point. -/
def completeStep (s : State) : State :=
  let q := numAt (commitConfig s) 18 1 % 32
  let s1 := loadScaleSlots { s with
    cu := { s.cu with nonfin := 0, satf := 0 }
    mem := { s.mem with nonfin := 0, launched := [] }
    coll := { s.coll with nonfin := false }
    seq := { s.seq with microBatch := 0, fresh := true, qreg := s.seq.qreg.set q (BitVec.ofNat 32 s.commit.skiprun) }
    rsl := { s.rsl with commits := s.rsl.commits + 1, runs := 0 }
    commit := { s.commit with phase := .idle } }
  { s1 with rsl := { s1.rsl with rewind := some (captureRecord s1) } }

/-- A skip that reaches SKIPMAX ends the job's issue (R278); a waiting topology update is applied (R312). -/
def skipLimit (s : State) : State :=
  let most := numAt (commitConfig s) 17 1
  if !s.commit.good ∧ most ≤ s.commit.skiprun then
    applyWaiting (report { s with commit := { s.commit with limit := true }, seq := { s.seq with running := false } } 0x13 most)
  else s

/-- A snapshot is due at this quiet point (R357). -/
def snapshotDue (s : State) : Bool :=
  s.commit.good && decide (s.rsl.lastSnap.toNat + snapInterval s ≤ s.rsl.commits.toNat)

/-- A device that waits for the area of the spare that took its partner's place asks for it again (R376). -/
def askLost (s : State) : State :=
  if s.rsl.gone ∧ s.rsl.viaTorus ∧ !(s.eth.transfers.any fun t => t.use == .partner) then askPartner s .partner 0 64 else s

/-- The quiet point: a due snapshot is taken unless some device is busy, and then deferred (R357, R358). -/
def quietPoint (s : State) : State :=
  if snapshotDue s then
    if s.commit.busy then
      askLost { s with rsl := { s.rsl with defers := BitVec.ofNat 16 (satAdd 16 s.rsl.defers.toNat 1) } }
    else startSnapshot (askLost s)
  else askLost s

/-- After the replay of a restore the device enters the release barrier (R371). -/
def enterRelease (s : State) : State :=
  if s.rsl.phase = .verify then { s with rsl := { s.rsl with phase := .release } } else s

/-- STEP_COMMIT_COMPLETE: with the next step's units resident the commit completes; a graceful stop or a lapse releases
the lease then (R388, R417). -/
def execStepCommitComplete (s : State) : Out :=
  if s.commit.phase ≠ .decided then .next s
  else if !unitsResident s then
    if s.commit.late then .next s
    else .next { s with
      commit := { s.commit with late := true }
      eth := { s.eth with feedWaits := BitVec.ofNat 16 (satAdd 16 s.eth.feedWaits.toNat 1) } }
  else
    let s1 := skipLimit (completeStep s)
    if s.eth.stopping ∨ s.eth.phase = .lapsing then .next (releaseLease s1 (s.eth.phase == .lapsing))
    else .next (enterRelease (quietPoint s1))

end Sys2Proof.Machine
end

