-- ==== Sys2Proof/Machine/Image.lean ====
section
/-! DEFINITION. The job image (R171 to R174): its header and sections, its placement in memory, and every check that names a
malformed image. The checks read the image where it has been written. -/

namespace Sys2Proof.Machine

/-! ### Header and sections -/

/-- Section entries of the directory in the header. -/
def imageSections (img : List Byte) : List Section :=
  (List.range 16).filterMap fun i =>
    let o := 64 + 24 * i
    let s : Section := { typ := numAt img o 2, off := numAt img (o + 8) 8, size := numAt img (o + 16) 8 }
    if s.typ = 0 then none else some s

/-- The header settings of an image (R171). -/
def imageJob (img : List Byte) : Job :=
  let secs := imageSections img
  let seqOff := ((secs.find? fun x => x.typ == 8).map (·.off)).getD 0
  { profile := numAt img 6 1, width := numAt img 7 1, cores := numAt img 8 1
    checked := (numAt img 9 1).testBit 0, clocked := (numAt img 9 1).testBit 1
    halves := BitVec.ofNat 16 (numAt img 10 2), holdLim := numAt img 12 3, bcount := numAt img 16 8
    load := numAt img 24 8, seed := BitVec.ofNat 128 (numAt img 32 16), sections := secs
    masks := (List.range 16).map fun c => BitVec.ofNat 32 (numAt img (seqOff + 4 * c) 4), length := img.length }

/-- Entry size of a section type; 0 for a reserved type. -/
def entrySize (typ : Nat) : Nat :=
  ([0, 576, 8, 16, 32, 32, 16, 144, 128, 8, 128, 256, 32, 64, 64, 24]).getD typ 0

/-- Entries a section type admits (R172). -/
def entriesOk (j : Job) (typ n : Nat) : Bool :=
  match typ with
  | 1 => n == j.bcount
  | 2 => decide (1 ≤ n) && decide (n ≤ 32)
  | 9 => decide (n ≤ 65535)
  | 10 => n == j.cores
  | 11 => n == j.cores
  | 12 => decide (n ≤ 64)
  | 13 => decide (n ≤ 4096)
  | 14 => decide (n ≤ 4096)
  | 15 => true
  | _ => n == 1

/-- A section type that must appear. -/
def sectionRequired (typ : Nat) : Bool := (decide (1 ≤ typ) && decide (typ ≤ 8)) || typ == 10 || typ == 11

/-- The header's own fields, against the directory entry. -/
def headerOk (img entry : List Byte) : Bool :=
  let j := imageJob img
  decide (512 ≤ img.length) && img.length == numAt entry 68 8 && numAt img 0 4 == 0x4A565833 && numAt img 4 2 == 1 &&
    decide (1 ≤ j.profile) && decide (j.profile ≤ 3) && j.profile == numAt entry 3 1 &&
    decide (1 ≤ j.width) && decide (j.width ≤ 64) && j.width == numAt entry 4 1 &&
    decide (1 ≤ j.cores) && decide (j.cores ≤ 16) && j.cores == numAt entry 5 1 &&
    decide (numAt img 9 1 < 4) && decide (j.halves.toNat < 2 ^ j.cores) && numAt img 15 1 == 0 &&
    decide (1 ≤ j.bcount) && decide (j.bcount ≤ 2 ^ 32) && decide (j.load % 2097152 = 0) &&
    decide (j.load + img.length ≤ hbmLimit) && zeroAt img 48 63 && zeroAt img 448 511

/-- The section directory. -/
def directoryOk (img : List Byte) : Bool :=
  let j := imageJob img
  let unused := (List.range 16).all fun i =>
    let o := 64 + 24 * i
    zeroAt img (o + 2) (o + 7) && (numAt img o 2 != 0 || zeroAt img o (o + 23))
  unused && (j.sections.all fun x =>
      let e := entrySize x.typ
      e != 0 && decide (x.off % 64 = 0) && decide (x.off + x.size ≤ img.length) && decide (x.size % max 1 e = 0) &&
        entriesOk j x.typ (x.size / max 1 e)) &&
    (List.range 16).all fun t =>
      let n := (j.sections.filter fun x => x.typ == t).length
      decide (n ≤ 1) && (!sectionRequired t || n == 1)

/-! ### Placement (R173) -/

/-- The class entries of the image (R227). -/
def imageClasses (img : List Byte) (j : Job) : List ClassEntry :=
  match j.sections.find? (fun x => x.typ == 2) with
  | none => []
  | some x => (List.range (x.size / 8)).map fun i =>
      let v : BitVec 64 := BitVec.ofNat 64 (numAt img (x.off + 8 * i) 8)
      { first := fld v 20 0, last := fld v 41 21, cls := fld v 44 42 }

/-- The Meadowsweet ranges of the image. -/
def imageRanges (img : List Byte) (j : Job) : List Range :=
  match j.sections.find? (fun x => x.typ == 14) with
  | none => []
  | some x => (List.range (x.size / 64)).map fun i =>
      let d : BitVec 512 := BitVec.ofNat 512 (numAt img (x.off + 64 * i) 64)
      { param := oParam d, pool := oPool d, blocks := oBlocks d }

/-- Write the whole image at LOAD. -/
def writeImage (s : State) (img : List Byte) : State := writeMem (freshen s (loadOf s) img.length) (loadOf s) img

/-- Copy the initial data, all of it or only what lies in code pages, in entry order (R173, R369). An entry that spans code pages
and committed ones goes with its first page (DEDUCED 56). -/
def placeInitial (s : State) (img : List Byte) (codeOnly : Bool) : State :=
  (List.range (sectionCount s 15 24)).foldl (fun s i =>
    let e := sectionEntry s 15 24 i
    if codeOnly ∧ classOf s (numAt e 0 8) ≠ 2 then s
    else writeMem (freshen s (numAt e 0 8) (numAt e 8 8)) (numAt e 0 8) (bytesAt img (numAt e 16 8) (numAt e 8 8))) s

/-- The state with an image as the job in force: settings, classes, ranges, and the image in memory. -/
def loadImage (s : State) (img : List Byte) : State :=
  let j := imageJob img
  let s1 := { s with
    seq := { s.seq with job := some j, checked := j.checked, clocked := j.clocked }
    mem := { s.mem with
      classes := imageClasses img j ++ s.mem.classes.filter fun c => c.cls == 3
      ranges := imageRanges img j, cur := [], staged := [], snapCur := [] } }
  writeImage s1 img

/-! ### The conditions of the chapters on the sections -/

/-- Spans [a, a + n) and [b, b + m) have an address in common. -/
def overlap (a n b m : Nat) : Bool := decide (max a b < min (a + n) (b + m))

/-- A span overlaps the partner area reserved here (R349). -/
def meetsPartner (s : State) (a n : Nat) : Bool := overlap a n (2097152 * areaFirst s) (2097152 * areaPages s)

/-- Class entries (R227, R349). -/
def classesOk (s : State) : Bool :=
  (List.range (sectionCount s 2 8)).all fun i =>
    let v : BitVec 64 := entryBits 64 (sectionEntry s 2 8 i)
    zeros v 63 45 && decide (fld v 44 42 ≤ 2) && decide (fld v 20 0 ≤ fld v 41 21) && decide (fld v 41 21 ≤ 1572863) &&
      !meetsPartner s (2097152 * fld v 20 0) (2097152 * (fld v 41 21 + 1 - fld v 20 0))

/-- A topology descriptor (R323). -/
def topologyOk (s : State) (t : List Byte) : Bool :=
  decide (numAt t 0 3 < 262144) && decide (numAt t 3 1 < 8) && zeroAt t 7 15 && inSlice s t (myCoord s) &&
    (List.range 3).all fun a =>
      let n := numAt t (4 + a) 1
      decide (1 ≤ n) && decide (n ≤ extentOf s a) && (!sliceWraps t a || n == extentOf s a)

/-- Commit configuration (R274). -/
def commitOk (s : State) : Bool :=
  let c := commitConfig s
  (numAt c 0 8 == 0 || inClass s (numAt c 0 8) 4 0) && inClass s (numAt c 8 8) 16384 0 && decide (numAt c 16 1 ≤ 1) &&
    decide (1 ≤ numAt c 17 1) && decide (numAt c 18 1 < 32) && zeroAt c 19 31

/-- A generator slot of the image. -/
def imageGen (s : State) (core n : Nat) : BitVec 128 :=
  BitVec.ofNat 128 (numAt (sectionEntry s 11 256 core) (16 * n) 16)

/-- An entry of the sequential-stream table (R373), as its table lies in memory. -/
def seqEntry (s : State) (i : Nat) : List Byte := memBytes s (numAt (jobRsl s) 8 8 + 16 * i) 16

/-- Entries of the sequential-stream table. -/
def seqCount (s : State) : Nat := numAt (jobRsl s) 16 2

/-- Resilience section and sequential-stream table (R350, R373). -/
def resilienceOk (s : State) : Bool :=
  let r := jobRsl s
  let n := seqCount s
  let es := (List.range n).map (seqEntry s)
  decide (1 ≤ numAt r 0 2) && zeroAt r 6 7 && zeroAt r 18 31 && decide (n ≤ 256) &&
    (if n = 0 then numAt r 8 8 == 0 else inClass s (numAt r 8 8) (16 * n) 2) &&
    (es.all fun e => zeroAt e 2 3 && decide (numAt e 0 1 < jobCores s) && decide (numAt e 1 1 < 16) &&
      flag (imageGen s (numAt e 0 1) (numAt e 1 1)) 32) &&
    es.zipIdx.all fun p => (es.take p.2).all fun q => bytesAt q 0 2 != bytesAt p.1 0 2

/-- Dataset feed (13). A feed of no slots has no ring to place (DEDUCED 56). -/
def feedOk (s : State) : Bool :=
  let f := sectionEntry s 6 16 0
  let n := numAt f 8 4
  decide (2 * numAt f 12 4 ≤ n) && (n == 0 || inClass s (numAt f 0 8) (n * 4096 * numAt s.eth.entry 100 4) 0)

/-- The masters an event admits, as a mask over the codes of MASTER, and whether it admits an address (R455). Event 0x00, which
counts nothing, admits as the device's own events do (DEDUCED 56). -/
def eventAdmits (code : Nat) : Nat × Bool :=
  if code = 0 ∨ code = 1 ∨ code = 2 ∨ code = 0x40 ∨ code = 0x41 then (1, false)
  else if code = 3 ∨ (0x10 ≤ code ∧ code ≤ 0x15) then (3, false)
  else if 0x20 ≤ code ∧ code ≤ 0x23 then (15, true)
  else if code = 0x24 ∨ code = 0x25 ∨ code = 0x50 ∨ code = 0x51 then (9, true)
  else if 0x30 ≤ code ∧ code ≤ 0x33 then (17, false)
  else (0, false)

/-- A counter selection (R454 to R456): no reserved encoding. -/
def selectionOk (w : Word) : Bool :=
  let a := eventAdmits (fld w 7 0)
  zeros w 31 25 && a.1.testBit (fld w 10 8) && decide (fld w 20 19 ≠ 3) && (!flag w 23 || a.2)

/-- Monitoring section (R459). -/
def monitoringOk (s : State) : Bool :=
  let m := sectionEntry s 7 144 0
  ((List.range 24).all fun i => selectionOk (BitVec.ofNat 32 (numAt m (4 * i) 4))) && decide (numAt m 130 1 < 32) &&
    decide (numAt m 131 1 < 4) && decide (1 ≤ numAt m 132 4) && decide (numAt m 132 4 ≤ 16777216) && zeroAt m 136 143

/-- Sequence layout (R246, R255). -/
def sequenceOk (s : State) : Bool :=
  let b := sectionEntry s 8 128 0
  ((List.range 16).all fun c =>
    let v : BitVec 32 := BitVec.ofNat 32 (numAt b (4 * c) 4)
    zeros v 31 8 && (if flag v 0 then decide (fld v 7 3 % 2 = 0) else zeros v 7 1)) &&
    decide (numAt b 64 4 ≤ 4194304) && decide (numAt b 68 4 ≤ 131072) && zeroAt b 72 127

/-- Scale-slot bindings (R485) and generator slots (R128). -/
def slotsOk (s : State) : Bool :=
  (List.range (jobCores s)).all fun c =>
    let b := sectionEntry s 10 128 c
    zeroAt b 0 7 && (List.range 16).all fun n =>
      decide (numAt b (8 * n) 4 ≤ scaleCount s) && numAt b (8 * n + 4) 4 == 0 && zeros (imageGen s c n) 63 33

/-- The spill area of a set lies in the spill pages the Twin reserves, where these are known (R248). -/
def spillFits (s : State) (d : BitVec 256) : Bool :=
  match s.stash.area with
  | some (first, pages) =>
    decide (2097152 * first ≤ fld d 139 96) && decide (fld d 139 96 + 4096 * fld d 167 140 ≤ 2097152 * (first + pages))
  | none => true

/-- Every spill set's area fits. -/
def spillsFit (s : State) : Bool :=
  (List.range (sectionCount s 12 32)).all fun i => fld (setDesc s i) 45 44 != 0 || spillFits s (setDesc s i)

/-- The ring of a set. -/
def ringSpan (d : BitVec 256) : Nat × Nat := (fld d 43 0, 4096 * fld d 75 48)

/-- Stash sets (R247, R248, R349). -/
def stashOk (s : State) : Bool :=
  let ds := (List.range (sectionCount s 12 32)).map (setDesc s)
  (ds.all fun d =>
    let r := ringSpan d
    zeros d 11 0 && decide (fld d 45 44 ≠ 3) && zeros d 47 46 && zeros d 255 168 && decide (1 ≤ fld d 75 48) &&
      decide (1 ≤ fld d 95 76) && zeros d 107 96 && inClass s r.1 r.2 0 && !meetsPartner s r.1 r.2 &&
      (if fld d 45 44 = 0 then decide (1 ≤ fld d 167 140) else zeros d 167 96)) &&
    ds.zipIdx.all fun p => (ds.take p.2).all fun q =>
      !overlap (ringSpan p.1).1 (ringSpan p.1).2 (ringSpan q).1 (ringSpan q).2

/-- A collective descriptor (R327, R328, R337, R338, R340): no reserved field or encoding, unused fields zero (TIMEOUT but in the
kinds that end in a multicast), the divisibility rule, and a queue's slots in scratch pages. The group size of R328 is that
of the directory entry's TOPO, which places the device in its job (DESIGN CHOICE 55). A reduce-scatter without cores has no
number of elements that is a multiple as R328 asks (DEDUCED 56). -/
def collectiveOk (s : State) (d : BitVec 512) : Bool :=
  let k := cKind d
  let red := reduces d
  let tree := decide (k ≤ 6)
  let fmtOk := if red then decide (cFmt d ≤ 1) else if k = 6 then cFmt d == 0 else decide (cFmt d ≤ 9)
  let g := ((List.range 3).filter fun a => (cAxes d).testBit a).foldl (fun n a => n * sliceExtent (jobTopo s) a) 1
  let n := vectorElems d
  decide (1 ≤ k) && decide (k ≤ 8) && fmtOk && (if red then decide (cOp d ≤ 2) else cOp d == 0) &&
    (!cWire d || (red && cOp d == 0 && cFmt d == 1)) && (!cLocal d || red) && zeros d 15 14 && zeros d 19 19 &&
    (tree || cAxes d == 0) && (k != 6 || (zeros d 31 20 && zeros d 47 32 && cElems d == 0)) &&
    (k == 6 || decide (1 ≤ cElems d)) && (k ≤ 4 || zeros d 63 48) &&
    (if tree then cPort d == 0 else decide (cPort d ≤ 6)) && zeros d 103 99 && zeros d 127 112 && zeros d 511 172 &&
    (if k = 8 then decide (1 ≤ cDepth d) && zeros d 139 128 &&
        inClass s (cQbase d) (cDepth d * 4096 * vectorChunks d) 0
      else zeros d 111 104 && zeros d 171 128) &&
    (k != 2 || ((cCores d).length != 0 && decide (n % (g * (cCores d).length) = 0)))

/-- Collective descriptors. -/
def collectivesOk (s : State) : Bool := (List.range (sectionCount s 13 64)).all fun i => collectiveOk s (collDescr s i)

/-- A page that no class entry covers. -/
def uncovered (s : State) (p : Nat) : Bool := !s.mem.classes.any fun e => decide (e.first ≤ p) && decide (p ≤ e.last)

/-- No class entry covers any page of a span. -/
def spanUncovered (s : State) (a n : Nat) : Bool :=
  (List.range ((a + n - 1) / 2097152 + 1 - a / 2097152)).all fun i => uncovered s (a / 2097152 + i)

/-- Meadowsweet descriptors (R261, R262, R349). -/
def meadowOk (s : State) : Bool :=
  let ds := (List.range (sectionCount s 14 64)).map (optDescr s)
  let len := fun (d : BitVec 512) => 98304 * oBlocks d
  (ds.all fun d =>
    let w := if oGfmt d = 0 then 4 else 2
    zeros d 63 52 && zeros d 127 108 && zeros d 191 172 && zeros d 255 224 && zeros d 319 300 && zeros d 511 364 &&
      decide (oKind d ≤ 5) && decide (oKind d ≠ 3) && decide (oGfmt d ≤ 1) && decide (oParam d % 98304 = 0) &&
      decide (oPool d % 98304 = 0) && decide (oGrad d % w = 0) && zeros d 133 128 && zeros d 325 320 &&
      decide (1 ≤ oBlocks d) && inClass s (oParam d) (len d) 1 && decide (oPool d + len d ≤ hbmLimit) &&
      spanUncovered s (oPool d) (len d) && inClass s (oGrad d) (8192 * oBlocks d * w) 0 &&
      inClass s (oCoef d) 32 0 &&
      (if isTrust (oKind d) then inClass s (oNorm d) (64 * oBlocks d) 0 else oNorm d == 0) &&
      !meetsPartner s (oParam d) (len d) && !meetsPartner s (oPool d) (len d) &&
      ((List.range (sectionCount s 12 32)).all fun i =>
        let r := ringSpan (setDesc s i)
        !overlap (oPool d) (len d) r.1 r.2) &&
      ds.all fun q => !overlap (oPool d) (len d) (oParam q) (len q)) &&
    ds.zipIdx.all fun p => (ds.take p.2).all fun q =>
      !overlap (oParam p.1) (len p.1) (oParam q) (len q) && !overlap (oPool p.1) (len p.1) (oPool q) (len q)

/-- Initial data (R173, R174). -/
def initialOk (s : State) (len : Nat) : Bool :=
  (List.range (sectionCount s 15 24)).all fun i =>
    let e := sectionEntry s 15 24 i
    let a := numAt e 0 8
    let n := numAt e 8 8
    decide (a % 4096 = 0) && decide (n % 4096 = 0) && decide (numAt e 16 8 % 64 = 0) &&
      decide (numAt e 16 8 + n ≤ len) && decide (a + n ≤ hbmLimit) &&
      (List.range (n / 4096)).all fun k => classOf s (a + 4096 * k) == 1 || classOf s (a + 4096 * k) == 2

/-- Every condition on the image, read as loaded (R174). -/
def imageOk (s : State) (img : List Byte) : Bool :=
  let t := loadImage s img
  headerOk img s.eth.entry && directoryOk img && classesOk t && inClass t (loadOf t) img.length 2 &&
    topologyOk t (sectionEntry t 3 16 0) && commitOk t && feedOk t && monitoringOk t &&
    sequenceOk t && slotsOk t && stashOk t && collectivesOk t && meadowOk t && initialOk t img.length &&
    resilienceOk (placeInitial t img false)

end Sys2Proof.Machine
end

