-- ==== Sys2Proof/Machine/Recovery.lean ====
section
/-! DEFINITION. Recovery (R354 to R356, R366 to R376): candidates, the decide barrier, rewind, restore, restart and release;
and the start of a job (R321). -/

namespace Sys2Proof.Machine

/-! ### Candidates (R366) -/

/-- The partner can be reached: over the Twin port, or over the torus (R348, R376). -/
def partnerReach (s : State) : Bool := if partnerTorus s then reachable s s.rsl.pcoord else !twinDown s

/-- A layer holds the snapshot of slot n undamaged, and the device can reach it. -/
def layerUsable (s : State) (n : Nat) (l : Layer) : Bool :=
  let x := slotAt s n
  x.state == 2 && !x.bad.contains l && (match l with
    | .partner => x.partner && partnerReach s
    | .flash => x.flash
    | .store => x.store && s.eth.up)

/-- The first usable layer, in the order partner, flash, shared store (R369). -/
def firstUsable (s : State) (n : Nat) : Option Layer := [Layer.partner, .flash, .store].find? (layerUsable s n)

/-- The step-record ring holds record n: one of the last 256, written since the ring's contents were last lost (R282). -/
def ringHolds (s : State) (n : Nat) : Bool :=
  decide (s.rsl.ringLow < n) && decide (n ≤ s.rsl.recHigh) && decide (s.rsl.recHigh < n + 256)

/-- Record n exists in the ring or in the job directory (R366, R390); a spare has what it found in the directory (R375). -/
def recordExists (s : State) (n : Nat) : Bool :=
  ringHolds s n || (s.eth.up && (s.rsl.known.contains n ||
    (decide (1 ≤ n) && decide (n ≤ s.rsl.recHigh) && decide (s.rsl.recHigh < n + numAt s.eth.entry 48 4))))

/-- The snapshot of slot n is usable (R366), within the bound of R372. -/
def slotUsable (s : State) (n : Nat) : Bool :=
  let x := slotAt s n
  (firstUsable s n).isSome && (x.record.any fun r => r.jobtag == jobTag s) && recordExists s (x.c.toNat + 1) &&
    (match s.rsl.limit with
      | some l => decide (x.c.toNat < l.toNat)
      | none => true)

/-- No candidate. -/
def noTarget : DWord := 0xFFFFFFFFFFFFFFFF

/-- The newest usable snapshot's commit count. -/
def candidate (s : State) : DWord :=
  ((List.range 2).filter (slotUsable s)).foldl (fun t n =>
    if t = noTarget ∨ t.toNat < (slotAt s n).c.toNat then (slotAt s n).c else t) noTarget

/-! ### The decide barrier (R367, R368) -/

/-- What this device brings to the decide barrier. -/
def decidePayload (s : State) : RecoveryPayload :=
  let c := match s.rsl.rewind with
    | some r => r.c.setWidth 32
    | none => 0
  { need := s.rsl.need || s.eth.spare || s.rsl.rewind.isNone, mismatch := false, none := candidate s == noTarget
    target := candidate s, rmin := c, rmax := c }

/-! ### Rewind (R355) -/

/-- Steps 1 to 3 of R355: elastic work cancelled, STAGED cleared, the cores' stores and registers zero, every region
free; the step's flags, stash entries, link counts and PENDING are those of a quiet point (DEDUCED 34). -/
def clearStep (s : State) : State :=
  let s1 := cancelElastic s
  let s2 := (List.range (jobCores s1)).foldl zeroCore s1
  let s3 := resetCounts { s2 with
    cu := { s2.cu with nonfin := 0, satf := 0, fresh := [] }
    mem := { s2.mem with staged := [], ueReport := false, digest := 0, launched := [], nonfin := 0 }
    stash := { s2.stash with entries := [], plan := [], ops := [] }
    coll := { s2.coll with nonfin := false }
    seq := { s2.seq with microBatch := 0, current := none, hold := none, flowOps := 0, look := none } }
  loadScaleSlots s3

/-- Load a rewind point or state record (step 4 of R355, step 7 of R369); the feed forgets the units at or above the
cursor (R392). -/
def loadRecord (s : State) (r : StateRecord) : State :=
  let s1 := setLoops { s with seq := { s.seq with
    step := r.step, qreg := r.q, redirect := some r.bundle.toNat, current := none, fresh := true, loopBuf := none,
    bufFull := false, fetched := false } }
      r.loops true
  { s1 with
    eth := { s1.eth with
      cursor := r.cursor, stepCursor := r.cursor, nextUnit := r.cursor.toNat
      resident := s1.eth.resident.filter fun u => decide (u < r.cursor.toNat), arrived := []
      transfers := s1.eth.transfers.filter fun t => match t.use with
        | .unit n => decide (n < r.cursor.toNat)
        | _ => true }
    coll := { s1.coll with layout := r.layout, drained := [], told := false }
    commit := { s1.commit with skiprun := r.skiprun, phase := .idle }
    cu := { s1.cu with gen := r.gen, stream := r.streams, cursor := r.cursors } }

/-- The draw of a sequential-mode slot that its table entry gives for a cursor (R374). -/
def tableDraw (e : List Byte) (cursor : DWord) : DWord :=
  BitVec.ofNat 64 (numAt e 8 8 + numAt e 4 4 * cursor.toNat)

/-- The correction of one sequential stream at a restore (R374). -/
def correctDraw (cursor : DWord) (s : State) (e : List Byte) : State :=
  let k := numAt e 0 1 * 16 + numAt e 1 1
  let d := tableDraw e cursor
  if BitVec.ofNat 64 (fld (s.cu.gen.get k) 127 64) = d then s
  else
    report { s with
      cu := { s.cu with gen := s.cu.gen.modify k fun v => putFld v 127 64 d.toNat }
      rsl := { s.rsl with rngSkew := true } } 0x17 (numAt e 0 1 * 16 + numAt e 1 1)

/-- Load a rewind point or state record with its sequential streams corrected (step 4 of R355, step 7 of R369). -/
def loadCorrected (s : State) (r : StateRecord) : State :=
  ((List.range (seqCount s)).map (seqEntry s)).foldl (correctDraw r.cursor) (loadRecord s r)

/-- Rewind to the rewind point. -/
def rewindTo (s : State) (r : StateRecord) : State :=
  let s1 := loadCorrected (clearStep s) r
  { s1 with rsl := { s1.rsl with phase := .restart, last := 1, source := 4, record := some r } }

/-! ### Restore (R369) -/

/-- The next salt of the list is in force (R224). -/
def rekeySalt (s : State) : State :=
  let i := (s.mem.keyIndex.toNat + 1) % 16
  { s with mem := { s.mem with
      salt := s.mem.salts.getD i 0, keyIndex := BitVec.ofNat 4 i, keyPending := false } }

/-- Step 2 of R369 (R224): the partner area is read and written again under the new salt, which meets its uncorrectable words
(R226) and gives fresh check bits to the words written; other errors stay at their places. Whatever else memory held is
undefined until it is written (DESIGN CHOICE 5), the records of the ring among it. -/
def rekey (s : State) : State :=
  if s.mem.keyPending then
    let lo := 2097152 * areaFirst s
    let hi := lo + 2097152 * areaPages s
    let s1 := rekeySalt (readMeets s lo (hi - lo))
    let inArea := fun (w : Nat) => decide (lo ≤ localOf s1.mem.salt (8 * w)) && decide (localOf s1.mem.salt (8 * w) < hi)
    { s1 with mem := { s1.mem with
        stale := [(lo, hi, 0), (0, hbmLimit, s.mem.rekeys + 1)], rekeys := s.mem.rekeys + 1
        bad := s1.mem.bad.filter fun c => !inArea c.1 }
              rsl := { s1.rsl with ringLow := s1.rsl.recHigh } }
  else s

/-- The step record that the replay is compared with: from the ring, or asked of the directory (R371). -/
def fetchReplay (s : State) (n : Nat) : State :=
  if ringHolds s n then { s with rsl := { s.rsl with replay := memBytes s (ringPlace s n) 64 } }
  else startTransfer { s with rsl := { s.rsl with replay := [] } } 8 .stepRecord (recordPlace s n) []

/-- Begin the restore of snapshot `target`: the record of the replayed step, steps 1 and 2, and the request for the
image. -/
def startRestore (s : State) (target : DWord) : State :=
  let s1 := rekey (clearStep (discardFilling (fetchReplay s (target.toNat + 1))))
  startTransfer { s1 with rsl := { s1.rsl with
      phase := .image, target := target, record := none, reading := [], rewind := none, need := true } }
    (numAt s1.eth.entry 52 1) .restoreImage (numAt s1.eth.entry 60 8) []

/-- What the joined payload of the decide barrier chooses (R356, R368). -/
def decideWith (s : State) (q : RecoveryPayload) : State :=
  let s1 := { s with rsl := { s.rsl with
    runs := BitVec.ofNat 8 (satAdd 8 s.rsl.runs.toNat 1), count := BitVec.ofNat 8 (satAdd 8 s.rsl.count.toNat 1) } }
  let none' := report { s with rsl := { s.rsl with phase := .ended, last := 3, source := 0 } } 0x15 0
  if q.need ∨ q.rmin ≠ q.rmax then
    if q.target = noTarget then none' else startRestore s1 q.target
  else match s.rsl.rewind with
    | some r => rewindTo s1 r
    | none => none'

/-- Take part in a barrier of a recovery, or of a job's start, and act once the joined payload has come down (R321, R367). -/
def barrierStep (s : State) (phase : Nat) (own : RecoveryPayload) (act : State → List Byte → State) : Out :=
  let s1 := enterJoin s 1 (barrierBytes phase own)
  match s1.coll.barrier.down with
  | some bs => .next (act (leaveJoin s1 1) bs)
  | none => .next s1

/-- A spare still reads what its candidate rests on (R375). -/
def scanning (s : State) : Bool := s.eth.spare && s.eth.transfers.any fun t => match t.use with
  | .page n => decide (2 ^ 40 ≤ n)
  | .scanRecord _ => true
  | _ => false

/-- RECOVERY_DECIDE (R367, R368): the decide barrier, which a spare enters with its candidate known (R375). -/
def execRecoveryDecide (s : State) : Out :=
  if s.rsl.phase = .decide ∧ !scanning s then barrierStep s 1 (decidePayload s) fun t bs => decideWith t (barrierOf bs)
  else .next s

/-- The slot that holds the restored snapshot. -/
def restoreSlot (s : State) : Option Nat :=
  (List.range 2).find? fun n => (slotAt s n).state == 2 && (slotAt s n).c == s.rsl.target

/-- Code of a layer (RSL_RECOV SOURCE, DETAIL2 of audit event 0x0060). -/
def layerCode : Layer → Nat
  | .partner => 1
  | .flash => 2
  | .store => 3

/-- The copy of a slot on a layer is damaged; a slot without another copy is damaged. -/
def damageCopy (s : State) (n : Nat) (l : Layer) : State :=
  let s1 := setSlot s n fun x => { x with bad := x.bad ++ [l] }
  let left := [(Layer.partner, (slotAt s1 n).partner), (.flash, (slotAt s1 n).flash), (.store, (slotAt s1 n).store)]
  if left.any fun p => p.2 && !(slotAt s1 n).bad.contains p.1 then s1
  else tellHeader (setSlot s1 n fun x => { x with state := 3 }) n

/-- The CRC of a state record holds (R359). -/
def recordCrcOk (b : List Byte) : Bool := crc64 (bytesAt b 0 65528) == BitVec.ofNat 64 (numAt b 65528 8)

/-- A state record with a good CRC that fails R16 is logged with its slot and layer (R366). -/
def logRejected (s : State) (n : Nat) (l : Layer) (b : List Byte) : State :=
  if recordCrcOk b then audit s 0x60 .device .internal n (layerCode l) else s

/-- The state record in a slot's first page, as read: usable when its CRC and encodings hold and it is the target's;
a record that fails only R16 is logged (R366). -/
def checkRecord (s : State) (n : Nat) (l : Layer) (b : List Byte) : State × Option StateRecord :=
  match parseRecord b with
  | some r => (s, if r.c = s.rsl.target ∧ r.jobtag = jobTag s then some r else none)
  | none => (logRejected s n l b, none)

/-- The block of the store at which page n of a slot begins (R393). -/
def pagePlace (s : State) (slot page : Nat) : Nat := storeBase s slot + 512 * page

/-- Ask for a page of the slot being restored. -/
def askPage (s : State) (slot page : Nat) (l : Layer) : State :=
  match l with
  | .store => startTransfer s (numAt s.eth.entry 104 1) (.page page) (pagePlace s slot page) []
  | _ => askPartner s (.page page) (partnerAddr s slot page) 2097152

/-- Write page k of the slot to the kth committed page, at its home address (step 5 of R369). -/
def putHome (s : State) (k : Nat) (b : List Byte) : State :=
  let home := 2097152 * (committedPages s).getD k 0
  writePhys (freshen s home 2097152) home (bytesAt b 0 2097152)

/-- A spare takes up the partner relation of the snapshot (R376): the partner that PARTNER names, over the torus. Like a device
that lost its partner, it asks for the area there, for R351 to be applied anew. -/
def takeRelation (s : State) (r : StateRecord) : State :=
  if s.eth.spare ∨ s.rsl.gone then
    askPartner { s with rsl := { s.rsl with pcoord := r.partner, viaTorus := true } } .partner 0 64
  else s

/-- Steps 5 to 8 of R369, once every page is read: the home copies are current, the state record is loaded, slots newer
than TARGET are emptied, the damaged ones among them too. -/
def finishRestore (s : State) (r : StateRecord) : State :=
  let s1 := { s with mem := { s.mem with cur := [], staged := [], snapCur := [] } }
  let s2 := loadCorrected (loadScaleSlots s1) r
  let keep := fun (x : Slot) => if 2 ≤ x.state.toNat ∧ s.rsl.target.toNat < x.c.toNat then Slot.empty else x
  let s3 := { s2 with rsl := { s2.rsl with
      phase := .restart, commits := s.rsl.target, lastSnap := s.rsl.target, record := some r, last := 2
      source := BitVec.ofNat 4 (layerCode s.rsl.layer), slots := s2.rsl.slots.map keep } }
  takeRelation (tellHeader (tellHeader s3 0) 1) r

/-- The restore is finished when every page is read and the step record to replay against is there. -/
def tryFinish (s : State) : State :=
  if s.rsl.phase = .pages ∧ s.rsl.reading = [] ∧ s.rsl.replay ≠ [] then
    match s.rsl.record with
    | some r => finishRestore s r
    | none => s
  else s

/-- The state record of a slot on local flash (R359). -/
def flashRecord (s : State) (n : Nat) : List Byte := s.rsl.flash.span (flashAddr n 0) 65536

/-- Page k of the slot goes from local flash to the kth committed page, at its home address (step 5 of R369). -/
def pageFromFlash (s : State) (n k : Nat) : State :=
  let a := flashAddr n (1 + k)
  let home := 2097152 * (committedPages s).getD k 0
  let img := s.rsl.flash.filter fun x => decide (a ≤ x.1) && decide (x.1 < a + 2097152)
  let s1 := freshen s home 2097152
  { s1 with mem := { s1.mem with
      hbm := img.foldl (fun m x => m.set (home + (x.1 - a)) x.2) (s1.mem.hbm.clear home (home + 2097152))
      bad := s1.mem.bad.drop fun w =>
        decide (home ≤ localOf s1.mem.salt (8 * w)) && decide (localOf s1.mem.salt (8 * w) < home + 2097152) } }

/-- A snapshot read from local flash: its record, then its pages, up to one whose read met an uncorrectable error. -/
def readFlash (s : State) (n : Nat) (failed : List Nat) : State × Bool :=
  let c := checkRecord s n .flash (flashRecord s n)
  let most := (committedPages s).length
  match c.2 with
  | none => (damageCopy c.1 n .flash, false)
  | some r =>
    if failed.contains 0 then (damageCopy s n .flash, false)
    else
      let good := (List.range most).takeWhile fun k => !failed.contains (1 + k)
      let pages := good.foldl (fun s k => pageFromFlash s n k) c.1
      if good.length < most then (damageCopy pages n .flash, false)
      else ({ pages with rsl := { pages.rsl with record := some r, reading := [] } }, true)

/-- Read the target from the first layer that holds it usable; with none left the recovery starts again from the decide
barrier (DEDUCED 34). -/
def beginLayer (s : State) : State :=
  match restoreSlot s with
  | none => { s with rsl := { s.rsl with phase := .decide } }
  | some n =>
    match firstUsable s n with
    | none => { s with rsl := { s.rsl with phase := .decide } }
    | some l =>
      let s1 := { s with rsl := { s.rsl with phase := .pages, layer := l, record := none
                                             reading := List.range ((committedPages s).length + 1) } }
      if l = .flash then innerTransfer s1 10 .flash (flashAddr n 0) (2097152 * slotPages s) else askPage s1 n 0 l

/-- The image that a restore read again (step 3 of R369). -/
def imageRead (s : State) (img : List Byte) : State :=
  if s.rsl.phase ≠ .image then s
  else if hashBytes (Config.sha512 img) ≠ bytesAt s.eth.entry 128 64 then
    report { s with rsl := { s.rsl with phase := .ended } } 6 s.eth.entryNo
  else beginLayer (placeInitial (writeImage s img) img true)

/-- A slot page that a restore asked for; none where its read failed (steps 4 and 5 of R369). -/
def pageRead (s : State) (page : Nat) (b : Option (List Byte)) : State :=
  match s.rsl.reading, restoreSlot s with
  | p :: rest, some n =>
    if s.rsl.phase ≠ .pages ∨ p ≠ page then s
    else
      let l := s.rsl.layer
      let got := match b with
        | none => (s, false)
        | some bs =>
          if p = 0 then
            let c := checkRecord s n l bs
            ({ c.1 with rsl := { c.1.rsl with record := c.2 } }, c.2.isSome)
          else (putHome s (p - 1) bs, true)
      if !got.2 then beginLayer (damageCopy got.1 n l)
      else
        let s1 := { got.1 with rsl := { got.1.rsl with reading := rest } }
        match rest with
        | [] => tryFinish s1
        | q :: _ => askPage s1 n q l
  | _, _ => s

/-- The slot was read from local flash (step 4 of R369). -/
def flashArrived (s : State) (failed : List Nat) : State :=
  match restoreSlot s with
  | some n =>
    if s.rsl.phase ≠ .pages ∨ s.rsl.layer ≠ .flash then s
    else
      let r := readFlash s n failed
      if r.2 then tryFinish r.1 else beginLayer r.1
  | none => s

/-- The step record read from the directory for the replay. -/
def replayRead (s : State) (b : List Byte) : State :=
  tryFinish { s with rsl := { s.rsl with replay := bytesAt b 0 64 } }

/-! ### Restart and release (R370 to R372) -/

/-- A payload of a barrier with nothing to join but MISMATCH. -/
def plainPayload (mismatch : Bool) : RecoveryPayload :=
  { need := false, mismatch := mismatch, none := false, target := noTarget, rmin := 0, rmax := 0 }

/-- The root's origin is stored; issue resumes at the slot of the resumed quiet point, unless this was the fourth recovery without
a commit (R356, R370). -/
def restartWith (s : State) (r : StateRecord) (origin : DWord) : State :=
  let s1 := { s with
    time := { s.time with origin := origin }
    seq := { s.seq with running := !s.commit.limit, stopped := false, ended := false }
    rsl := { s.rsl with
      start := some (origin + 512 * r.slotq), phase := if s.rsl.last = 2 then .verify else .idle, mismatch := false
      record := none } }
  if 4 ≤ s.rsl.runs.toNat then
    report { s1 with rsl := { s1.rsl with phase := .ended }, seq := { s1.seq with running := false } } 0x14 0
  else s1

/-- The origin in the down phase of a barrier (R321, R370). -/
def originIn (bs : List Byte) : DWord := BitVec.ofNat 64 (numAt bs 24 8)

/-- RESTART_BARRIER (R370): once the rewind or restore is finished. -/
def execRestartBarrier (s : State) : Out :=
  match s.rsl.phase, s.rsl.record with
  | .restart, some r => barrierStep s 2 (plainPayload false) fun t bs => restartWith t r (originIn bs)
  | _, _ => .next s

/-- Without a mismatch the job is released; with one the recovery starts again, its candidates older than the failed target
(R372). -/
def releaseWith (s : State) (mismatch : Bool) : State :=
  if mismatch then
    let s1 := { s with rsl := { s.rsl with phase := .decide, limit := some s.rsl.target, need := true, mismatch := false } }
    if s.rsl.mismatch then report { s1 with rsl := { s1.rsl with verifyFail := true } } 0x16 0 else s1
  else { s with rsl := { s.rsl with phase := .idle, limit := none, need := false, replay := [] }
                eth := { s.eth with spare := false } }

/-- RELEASE_BARRIER (R372). -/
def execReleaseBarrier (s : State) : Out :=
  if s.rsl.phase = .release then
    barrierStep s 3 (plainPayload s.rsl.mismatch) fun t bs => releaseWith t (barrierOf bs).mismatch
  else .next s

/-! ### The start of a job (R321) -/

/-- The highest pace in force (R447, R466). -/
def pmaxNow (s : State) : Nat := if s.mon.monitorCap then min s.pwr.pmax.toNat 12 else s.pwr.pmax.toNat

/-- The pace at job start is PMAX (R447). -/
def startPace (s : State) : State :=
  { s with pwr := { s.pwr with
      pace := BitVec.ofNat 5 (pmaxNow s)
      state := if s.pwr.state.toNat ≤ 1 then (if pmaxNow s = 16 then 0 else 1) else s.pwr.state } }

/-- What is set at job start: regions free, scale and generator slots loaded, counters "since job start" zero, the fault
record and the Eyebright buffer cleared, the counters' selections taken from the monitoring section. -/
def startJob (s : State) : State :=
  let m := sectionEntry s 7 144 0
  let words := fun (o n : Nat) => (List.range n).map fun i => BitVec.ofNat 32 (numAt m (o + 4 * i) 4)
  let s1 := startPace ((List.range (jobCores s)).foldl loadGenerators (loadScaleSlots s))
  resetCounts { s1 with
    cu := { s1.cu with
      region := [], schedEnds := [], captured := [], inflight := [], inits := [], sweeps := []
      drains := [], rowFree := [], drawClk := [], nets := [], ports := [], lost := [], tileLog := [], accLog := []
      regionLog := [], streamLog := [], readyV := [], readyS := [], readyD := [], nonfin := 0, satf := 0
      slip := [], slipBeats := [], slipSeq := [] }
    seq := { s1.seq with
      running := true, stopped := false, ended := false, issued := 0, current := none, redirect := none, flowOps := 0
      loops := [], loopBuf := none, bufFull := false, ahead := 0, fetched := false,
      looked := false, fresh := true, look := none, hold := none, fault := FaultRec.none
      microBatch := 0, step := 0 }
    mem := { s1.mem with
      cur := [], staged := [], snapCur := [], ueReport := false, nonfin := 0, optBusy := 0, optPass := []
      optCount := [], launches := [], launched := [], digest := 0, tagPeak := [], tagWaits := [] }
    stash := { s1.stash with entries := [], plan := [], ops := [], drops := [], orphan := [], spills := [], peak := [] }
    coll := { Coll.reset with barrier := s1.coll.barrier }
    link := { s1.link with away := [] }
    commit := Commit.reset
    rsl := { s1.rsl with
      touches := 0, defers := 0, commits := 0, lastSnap := 0, snapNo := 0, rewind := none, last := 0, source := 0
      cause := 0, runs := 0, count := 0, phase := .idle, need := false, target := 0, limit := none, reading := []
      record := none, replay := [], mismatch := false, start := none, slots := [Slot.empty, Slot.empty]
      filling := none, left := [], ringLow := 0, recHigh := 0, known := [] }
    eth := { s1.eth with
      cursor := 0, stepCursor := 0, resident := [], arrived := [], nextUnit := 0, feedWaits := 0 }
    mon := { s1.mon with
      sel := (s1.mon.sel.clear 0 24).setList 0 (words 0 24)
      ranges := Sparse.setList [] 0 (words 96 8), clks := 0, heldBeats := 0, cleared := false, eyeCount := 0, eyeSeq := 0
      eyeHead := 0, wrapped := false, full := false, lost := 0, samples := [], eye := [] } }

/-- START_BARRIER (R321): with the lease confirmed and LOCKED set the device takes part; the root's origin is stored and the job
starts when it comes down. -/
def execStartBarrier (s : State) : Out :=
  if s.eth.phase = .confirmed ∧ s.time.locked ∧ s.time.origin = 0 ∧ s.seq.job.isSome ∧ !s.eth.spare then
    barrierStep s 0 (plainPayload false) fun t bs =>
      let t1 := tellHeader (tellHeader (startJob t) 0) 1
      { t1 with time := { t1.time with origin := originIn bs } }
  else .next s

end Sys2Proof.Machine
end

