-- ==== Sys2Proof/Machine/Identity.lean ====
section
/-! DEFINITION. The identity and capability record (R103, R418, R432), written at stage 5 and on every takeover. -/

namespace Sys2Proof.Machine

/-- The column-map entry of logical core c (R103). -/
def columnEntry (s : State) (c : Nat) : List Byte :=
  match (s.pwr.capable.getD c none) with
  | some p => leBytes 8 (positionAt s p).bad.toNat ++ leBytes 1 (positionAt s p).width ++ leBytes 1 p ++ List.replicate 6 0
  | none => List.replicate 16 0

/-- HALVES of the capability record. -/
def capHalves (s : State) : Nat :=
  (s.pwr.capable.zipIdx.filter fun x => x.1.any fun p => decide (10 ≤ p)).foldl (fun n x => n + 2 ^ x.2) 0

/-- The certificate, at most 2,048 bytes; it is issued in the Maker state (R418). -/
def shownCertificate (s : State) : List Byte := if s.sec.life = 0 then [] else Config.certificate.take 2048

/-- The part number in ASCII. -/
def partNumber : List Byte :=
  [0x45, 0x56, 0x58, 0x2D, 0x45, 0x33, 0x2D, 0x33, 0x30, 0x37, 0x32, 0, 0, 0, 0, 0]

/-- Bytes 0 to 0x15F of the identity block. -/
def capabilityBytes (s : State) : List Byte :=
  leBytes 16 Config.serial.toNat ++ partNumber ++
    [0xB0, 0x03, 0x07, BitVec.ofNat 8 (s.pwr.capable.filter (·.isSome)).length, 24, 7] ++ leBytes 2 (capHalves s) ++
    leBytes 4 3072 ++ leBytes 4 (firmwareRev s).toNat ++ List.replicate 16 0 ++
    (List.range 16).flatMap (columnEntry s) ++ List.replicate 16 0 ++ leBytes 2 (shownCertificate s).length ++
    List.replicate 14 0

/-- The identity public key; none before PERSONALISE. -/
def identityKey (s : State) : List Byte := match s.sec.idDraw with
  | some k => (Config.identityPublicKey k).take 132
  | none => []

/-- The identity block is written: record, public key and certificate. -/
def writeIdentity (s : State) : State :=
  { s with sec := { s.sec with capability := capabilityBytes s, idKey := identityKey s, cert := shownCertificate s } }

end Sys2Proof.Machine
end

