-- ==== Sys2Proof/Machine/Fences.lean ====
section
/-! DEFINITION. Core positions in operation (R133 to R136, R446): the fence by the maker, the loss of a clock, the takeover
by the row's spare; and the denial of an access (R416). -/

namespace Sys2Proof.Machine

/-! ### Rights -/

/-- The life-cycle state is Maker or Returned. -/
def makerState (s : State) : Bool := s.sec.life == 1 || s.sec.life == 4

/-- The open session is of a role that acts (R413): the maker only in the Maker and Returned states. -/
def sessionIs (s : State) (r : Role) : Bool := s.sec.role == some r && (r != .maker || makerState s)

/-- The role that an access over the chain is made in, for the audit log. -/
def sessionRole (s : State) : Role := s.sec.role.getD .device

/-- A chain access without the right is counted (R416). -/
def countDenied (s : State) : State :=
  { s with sec := { s.sec with denied := BitVec.ofNat 8 (satAdd 8 s.sec.denied.toNat 1) } }

/-- A chain write without the right: ignored, counted and logged with its offset and value. -/
def denyWrite (s : State) (offset value : Nat) : State :=
  audit (countDenied s) 0x41 (sessionRole s) .chain offset value

/-! ### Fences -/

/-- A write of CORE_FENCE by a maker session in the Maker or Returned state (R136). -/
def fenceWrite (s : State) (value : Word) : State :=
  let p := fld value 4 0
  let pos := positionAt s p
  if !flag value 5 ∨ 20 ≤ p ∨ pos.state = 3 ∨ pos.state = 4 then s
  else audit (fencePosition s p 6) 0x52 .maker .chain 0x10250 p

/-- CORE_FENCE (R136): any other write is denied. -/
def execCoreFence (value : Word) (s : State) : Out :=
  if sessionIs s .maker then .next (fenceWrite s value) else .next (denyWrite s 0x10250 value.toNat)

/-- CLOCK_LOCK_LOSS (R446): a core position is fenced; without the clock of a fabric island, the sequencer or the seam
the chip stops as for a SLIP fault. -/
def execClockLockLoss (domain : Fin 24) (s : State) : Out :=
  if domain.val < 20 then .next (fencePosition s domain 5)
  else if s.seq.job.isSome then
    .next (raiseFault s { clk := 8 * s.seq.issued, chip := true, core := 0, slot := 0, offset := 0, bundle := bundleNow s }
      { code := 7 })
  else .next s

/-- The Active positions, by position. -/
def activePositions (s : State) : List Nat := (List.range 20).filter fun p => (positionAt s p).state == 1

/-- The device's active core count (R132). -/
def activeCount (s : State) : Nat := (activePositions s).length

/-- The presented width of its narrowest core. -/
def narrowest (s : State) : Nat := (activePositions s).foldl (fun w p => min w (positionAt s p).width) 64

/-- The spare of a position's row may take over (R134). -/
def spareFits (s : State) (spare : Nat) : Bool :=
  (positionAt s spare).state == 2 && (s.seq.job.isNone || decide (jobWidth s ≤ (positionAt s spare).width))

/-- The spare becomes Active with the fenced position's logical number; its state is zero, its generators are loaded,
the capability record is rewritten. Its domain comes on in Active and Paced, never without the interlock (R28). -/
def takeOver (s : State) (spare core : Nat) : State :=
  let s1 := setPosition (zeroCore s core) spare fun q => { q with state := 1, logical := BitVec.ofNat 4 core }
  let may : Bool := s1.pwr.intlk && decide (s1.pwr.state.toNat ≤ 1) && !s1.pwr.busy
  let on : Bool := may || flag s1.pwr.domains spare
  let s2 := { s1 with pwr := { s1.pwr with
    capable := modifyAt s1.pwr.capable core fun _ => some spare
    domains := putFlag s1.pwr.domains spare on } }
  let s3 := writeIdentity s2
  if s3.seq.job.isSome then loadGenerators s3 core else s3

/-- SPARE_TAKEOVER (R134): after the fence of a position that bore a logical number. A device whose spare cannot take
over reports what it no longer meets and releases its lease, if it holds one. -/
def execSpareTakeover (position : Fin 20) (s : State) : Out :=
  let spare := 5 * (position.val / 5) + 4
  match s.pwr.capable.findIdx? (· == some position.val) with
  | none => .next s
  | some core =>
    if (positionAt s position).state ≠ 3 then .next s
    else if spareFits s spare then .next (takeOver s spare core)
    else
      let width : Bool := (positionAt s spare).state == 2
      let s1 := report s (if width = true then 2 else 3) (if width = true then (positionAt s spare).width else activeCount s)
      .next (releaseLease s1 false)

end Sys2Proof.Machine
end

