-- ==== Sys2Proof/Machine/Frames.lean ====
section
/-! DEFINITION. Frames of the Harebell chain (R426 to R430): their bytes and CRC, frames dropped, responses, the bypass. -/

namespace Sys2Proof.Machine

/-- The bytes of a frame that its CRC covers. -/
def frameBytes (f : Frame) : List Byte :=
  leBytes 2 f.dest.toNat ++ leBytes 2 f.src.toNat ++ [f.typ, f.tag, f.len, f.status] ++ leBytes 4 f.offset.toNat ++
    f.payload.flatMap fun w => leBytes 4 w.toNat

/-- The header is well formed, its length that of the payload, and the CRC right (R426). -/
def frameOk (f : Frame) : Bool :=
  decide (f.dest.toNat < 4096) && decide (f.src.toNat < 4096) && decide (1 ≤ f.typ.toNat) && decide (f.typ.toNat ≤ 5) &&
    decide (f.len.toNat ≤ 64) && f.payload.length == (if f.typ = 2 then 0 else f.len.toNat) && f.crc == crc32 (frameBytes f)

/-- A frame with its CRC. -/
def withCrc (f : Frame) : Frame := { f with crc := crc32 (frameBytes f) }

/-- Frames reach the device: the repeater is ready and not bypassed; otherwise the chain's input is joined to its output and every frame
passes by (R430). -/
def chainOpen (s : State) : Bool := decide (1 ≤ s.sec.stage) && !s.sec.bypass

/-- A dropped frame is counted; nothing is sent in its place (R426). -/
def dropFrame (s : State) : State :=
  { s with sec := { s.sec with crcErr := BitVec.ofNat 16 (satAdd 16 s.sec.crcErr.toNat 1) } }

/-- The frame carries the device's own address. -/
def forMe (s : State) (f : Frame) : Bool := s.sec.addr != 0 && f.dest == s.sec.addr.setWidth 16

/-- A RESPONSE to the head takes the frame's place (R427). -/
def respond (s : State) (f : Frame) (status : Nat) (words : List Word) : State :=
  send s [.chain (withCrc { f with
    dest := 0, src := s.sec.addr.setWidth 16, typ := 4, len := BitVec.ofNat 8 words.length, status := BitVec.ofNat 8 status
    payload := words, crc := 0 })]

/-- A frame passes on as it came. -/
def forwardFrame (s : State) (f : Frame) : State := send s [.chain f]

/-- CHAIN_FORWARD (R427, R428): a frame for another address passes through. -/
def execChainForward (f : Frame) (s : State) : Out :=
  if !chainOpen s then .next (forwardFrame s f)
  else if !frameOk f then .next (dropFrame s)
  else if forMe s f then .next s
  else .next (forwardFrame s f)

/-- ENUM (R428): count n below 4,094 gives address n + 1. -/
def execEnum (f : Frame) (s : State) : Out :=
  if !chainOpen s then .next (forwardFrame s f)
  else if !frameOk f ∨ f.typ ≠ 1 ∨ f.payload.length ≠ 1 then .next (dropFrame s)
  else
    let n := (f.payload.getD 0 0).toNat
    if n < 4094 then
      let g := withCrc { f with payload := [BitVec.ofNat 32 (n + 1)] }
      .next (send { s with sec := { s.sec with addr := BitVec.ofNat 12 (n + 1) } } [.chain g])
    else .next (send { s with sec := { s.sec with addr := 0, overflow := true } } [.chain f])

/-- CHAIN_BYPASS (R428, R430): a device in bypass has no address; the bypass opens once stage 1 has ended. -/
def execChainBypass (closed : Bool) (s : State) : Out :=
  if closed = true then .next { s with sec := { s.sec with bypass := true, addr := 0 } }
  else if 1 ≤ s.sec.stage then .next { s with sec := { s.sec with bypass := false } }
  else .next s

end Sys2Proof.Machine
end

