-- ==== Sys2Proof/Machine/TimeOps.lean ====
section
/-! DEFINITION. The time base (R314 to R320): the choice of the time parent, timestamp exchanges, the frequency correction,
the load of the epoch counter. -/

namespace Sys2Proof.Machine

/-! ### The time parent (R316) -/

/-- Edges from a rank to the root of the job tree; 192 steps pass any tree. -/
def treeDepth (t : List Byte) : Nat → Nat → Nat
  | 0, _ => 0
  | n + 1, r => match treeParent t 7 r with
    | some p => 1 + treeDepth t n p
    | none => 0

/-- The port may serve as a time parent: one that was DOWN only after 16 exchanges (R320). -/
def servesTime (s : State) (p : Nat) : Bool := !(portOf s p).wasDown || decide (16 ≤ (portOf s p).exchanges)

/-- The port of least key. -/
def leastPort (ps : List Nat) (key : Nat → Nat) : Option Nat :=
  ps.foldl (fun b p => match b with
    | some q => if key p < key q then some p else b
    | none => some p) none

/-- The port of the link to the job parent, when it is UP. -/
def jobParentPort (s : State) : Option Nat :=
  match treeParent (jobTopo s) 7 (myRank s) with
  | none => none
  | some r => (List.range 7).find? fun p =>
      (portOf s p).mode == .up && decide ((portOf s p).label.toNat < 6) && servesTime s p &&
        peerCoord s p == rankCoord s (jobTopo s) r

/-- The UP job neighbours. -/
def jobNeighbours (s : State) : List Nat :=
  (List.range 7).filter fun p =>
    (portOf s p).mode == .up && decide ((portOf s p).label.toNat < 6) && servesTime s p && portOwned s p

/-- The port R316 names, none for IEEE 1588 or no parent. -/
def parentPort (s : State) : Option Nat :=
  if leased s then
    if myRank s = 0 then none
    else match jobParentPort s with
      | some p => some p
      | none => leastPort (jobNeighbours s) fun p =>
          let r := rankOf s (jobTopo s) (peerCoord s p)
          treeDepth (jobTopo s) 192 r * 2 ^ 18 + r
  else if s.time.ptpSeen then none
  else leastPort ((openPorts s).filter (servesTime s)) fun p => (portOf s p).stratum.toNat * 2 ^ 18 + (peerCoord s p).toNat

/-- The device's parent is IEEE 1588 (R316). -/
def ptpParent (s : State) : Bool := s.time.ptpSeen && (!leased s || myRank s == 0)

/-- The parent is kept while its link trains or is identified (R320). -/
def parentHeld (s : State) : Bool :=
  decide (s.time.parent.toNat < 7) &&
    ((portOf s s.time.parent.toNat).mode == .train || (portOf s s.time.parent.toNat).mode == .ident ||
      (portOf s s.time.parent.toNat).mode == .check)

/-- Choose the time parent and the stratum (R316). -/
def chooseParent (s : State) : State :=
  if parentHeld s then s
  else
    let p : BitVec 3 := BitVec.ofNat 3 ((parentPort s).getD 7)
    let ptp := ptpParent s
    let above := match parentPort s with
      | some q => BitVec.ofNat 6 (satAdd 6 (portOf s q).stratum.toNat 1)
      | none => s.time.stratum
    { s with time := { s.time with
        parent := p, ptp := ptp, stratum := if ptp then 0 else above
        thetas := if p = s.time.parent ∧ ptp = s.time.ptp then s.time.thetas else [] } }

/-- The link of the time parent changes its state or a lane group: holdover (R320). -/
def parentDisturbed (s : State) (p : Nat) : State :=
  if s.time.parent.toNat = p ∧ p < 7 then { s with time := { s.time with holdover := true } } else s

/-! ### Exchanges and the correction (R317, R318) -/

/-- TIMESTAMP_EXCHANGE (R317): link delay and offset, doubled; only exchanges with the time parent steer. -/
def execTimestampExchange (port : Fin 7) (t1 t2 t3 t4 : Nat) (stratum : BitVec 6) (s : State) : Out :=
  let m := (portOf s port).mode
  if m = .check ∨ m = .up ∨ m = .mgmt then
    let out : Int := (t2 : Int) - t1
    let back : Int := (t4 : Int) - t3
    let s1 := setPort s port fun q => { q with delay := out + back, exchanges := q.exchanges + 1, stratum := stratum }
    if s1.time.parent.toNat = port.val then
      .next { s1 with time := { s1.time with thetas := s1.time.thetas ++ [out - back] } }
    else .next s1
  else .next s

/-- The mean of n doubled offsets lies within b ns. -/
def meanWithin (sum : Int) (n b : Nat) : Bool := decide (sum.natAbs ≤ 512 * n * b)

/-- OFFSET: the mean offset in 1/16 ns. -/
def offsetReading (sum : Int) (n : Nat) : BitVec 16 :=
  let d : Int := 32 * n
  let low := sum / d
  let v := if sum % d = 0 then low else low + (if (Config.offsetOpen sum n).getLsbD 0 then 1 else 0)
  if -32768 ≤ v ∧ v ≤ 32767 then BitVec.ofInt 16 v else Config.offsetOpen sum n

/-- The frequency correction in parts per 10⁹: at least the rate that removes the mean offset in 100 ms, within ±200,000. -/
def steerRate (sum : Int) (n : Nat) : Word :=
  let need := ceilDiv (10 * sum.natAbs) (512 * n)
  let r := min (need + Config.steerExtra sum n) 200000
  if sum = 0 then 0 else if 0 < sum then BitVec.ofNat 32 r else BitVec.ofInt 32 (-(r : Int))

/-- ALARM is set, and reported when it was clear. -/
def raiseAlarm (s : State) : State :=
  let s1 := { s with time := { s.time with alarm := true } }
  if s.time.alarm then s1 else report s1 0xB 0

/-- One interval's mean offset sets the correction, LOCKED and ALARM (R318). -/
def correct (s : State) : State :=
  let n := s.time.thetas.length
  let sum := s.time.thetas.foldl (· + ·) 0
  let inside := if meanWithin sum n 2 then s.time.inside + 1 else 0
  let outside := if meanWithin sum n 30 then 0 else s.time.outside + 1
  let s1 := { s with time := { s.time with
    offset := offsetReading sum n, rate := steerRate sum n, holdover := false, thetas := [], inside := inside
    outside := outside, lostFor := 0
    locked := (s.time.locked && meanWithin sum n 8) || decide (10 ≤ inside) } }
  if 10 ≤ outside then raiseAlarm s1 else s1

/-- A root without IEEE 1588, by the loss of its link or by an interval without a message (DEDUCED 54), holds over; ALARM is set
after 1 s (R320). -/
def rootHoldover (s : State) : State :=
  let s1 := { s with time := { s.time with holdover := true, lostFor := s.time.lostFor + 1 } }
  if 1000 ≤ s1.time.lostFor then raiseAlarm s1 else s1

/-- FREQUENCY_CORRECTION (R316, R318, R320): every 1 ms, once the counter is loaded. -/
def execFrequencyCorrection (s : State) : Out :=
  if s.time.loaded then
    let s1 := chooseParent s
    if parentHeld s1 ∧ (portOf s1 s1.time.parent.toNat).mode ≠ .check then .next (parentDisturbed s1 s1.time.parent.toNat)
    else if leased s1 ∧ myRank s1 = 0 ∧ (!s1.time.ptpSeen ∨ s1.time.thetas = []) then .next (rootHoldover s1)
    else if s1.time.thetas = [] then .next s1
    else .next (correct s1)
  else .next s

/-! ### The load (R315) -/

/-- The one load of the epoch counter. -/
def loadCounter (s : State) (v : DWord) : State :=
  releaseChecked { s with time := { s.time with epoch := v, loaded := true, loading := false } }

/-- The message is of the domain and the form of the network section (R384, R403). -/
def ptpMine (s : State) (m : PtpMessage) : Bool :=
  m.domain.toNat == numAt (network s) 11 1 && m.framed == (numAt (network s) 8 1).testBit 2

/-- A Sync of which both times are known is answered with a delay request. -/
def askDelay (s : State) (t1 t2 : Nat) : State :=
  send { s with time := { s.time with sync := some (some t1, t2) } } [.delayRequest]

/-- The delay response ends an exchange with IEEE 1588 (R315, R317, R384): while the boot waits for it the counter is loaded, in whole
ticks rounded down (DESIGN CHOICE 55); later it is an exchange with IEEE 1588 as the parent. -/
def ptpExchange (s : State) (theta : Int) : State :=
  if s.time.loading then chooseParent (loadCounter s (s.time.epoch + BitVec.ofInt 64 (theta / 512)))
  else if s.time.loaded then
    let s1 := chooseParent s
    if s1.time.ptp then { s1 with time := { s1.time with thetas := s1.time.thetas ++ [theta] } } else s1
  else s

/-- What a message of the device's domain brings: time stamps of the exchange, and its end. -/
def ptpArrives (s : State) (k : PtpKind) : State :=
  match k, s.time.sync with
  | .sync t1 t2, _ => askDelay s t1 t2
  | .syncTwoStep t2, _ => { s with time := { s.time with sync := some (none, t2) } }
  | .followUp t1, some (none, t2) => askDelay s t1 t2
  | .delayResponse t3 t4, some (some t1, t2) =>
    ptpExchange { s with time := { s.time with sync := none } } (((t4 : Int) - t3) - ((t2 : Int) - t1))
  | _, _ => s

/-- PTP_MESSAGE (R384): a message of another domain or form is not looked at. -/
def execPtpMessage (m : PtpMessage) (frame : EthFrame) (s : State) : Out :=
  if !s.eth.up then .next s
  else if badFrame frame then .next (countFrame s)
  else if ptpMine s m then .next (ptpArrives { s with time := { s.time with ptpSeen := true } } m.kind)
  else .next s

/-- A neighbour's counter corrected by the measured link delay, in whole ticks rounded down (R315, R317; DESIGN CHOICE 55). -/
def neighbourTime (s : State) (p : Nat) (v : DWord) : DWord := v + BitVec.ofInt 64 ((portOf s p).delay / 512)

/-- EPOCH_LOAD_WAIT_EXPIRY (R315): 1 s after boot without IEEE 1588 the counter is loaded from a neighbour in CHECK, else
with zero at stratum 63. -/
def execEpochLoadWaitExpiry (neighbour : Option (Fin 7 × DWord)) (s : State) : Out :=
  if s.time.loading then
    match neighbour with
    | some (p, v) =>
      if (portOf s p).mode = .check then .next (chooseParent (loadCounter s (neighbourTime s p v)))
      else .next { (loadCounter s 0) with time := { (loadCounter s 0).time with stratum := 63 } }
    | none => .next { (loadCounter s 0) with time := { (loadCounter s 0).time with stratum := 63 } }
  else .next s

end Sys2Proof.Machine
end

