-- ==== Sys2Proof/Machine/Domains.lean ====
section
/-! DEFINITION. Power domains (R434, R439), the wake record (R452), the start and the end of a wake
(R441, R443), domains switched off, and the stop of R29. -/

namespace Sys2Proof.Machine

/-! ### Domains and states -/

/-- Core positions that may be on: neither Fenced nor Retired. -/
def livePositions (s : State) : List Nat :=
  (List.range 20).filter fun p => (positionAt s p).state != 3 && (positionAt s p).state != 4

/-- The domains that are on in a power state (R435). -/
def stateDomains (s : State) (code : Nat) : BitVec 40 :=
  match code with
  | 0 => domainRange 20 39 ||| domainMask (livePositions s)
  | 1 => domainRange 20 39 ||| domainMask (livePositions s)
  | 2 => domainRange 20 39
  | 3 => domainRange 24 31 ||| domainRange 39 39
  | _ => 0

/-! ### The wake record -/

/-- Write a wake-record entry at HEAD (R452). -/
def wakeEntry (s : State) (source target detail : Nat) (latched failed : Bool) : State :=
  let e := leBytes 8 s.time.epoch.toNat ++ leBytes 4 (source + 256 * s.pwr.state.toNat + 65536 * target + 16777216 * detail) ++
    leBytes 4 (latched.toNat + 2 * failed.toNat)
  { s with pwr := { s.pwr with
      wakeRec := s.pwr.wakeRec.setList (16 * s.pwr.wakeHead.toNat) e, wakeHead := s.pwr.wakeHead + 1
      wakes := BitVec.ofNat 8 (satAdd 8 s.pwr.wakes.toNat 1)
      source := BitVec.ofNat 8 source
      lastWake := if source ≤ 7 then BitVec.ofNat 8 source else s.pwr.lastWake } }

/-! ### Domains switched off -/

/-- A switched-off link port is DOWN. -/
def portOff (s : State) (p : Nat) : State := if (portOf s p).mode = .down then s else portLost s p 1

/-- Transfers for some uses are given up. -/
def dropUses (s : State) (uses : List TransferUse) : State :=
  { s with eth := { s.eth with transfers := s.eth.transfers.filter fun t => !uses.contains t.use } }

/-- A claim that has not been made is given up, with the entries still to try (R387). -/
def endClaim (s : State) : State :=
  let s1 := dropUses s [.leaseSlot, .claimSwap]
  { s1 with eth := { s1.eth with
      phase := if s.eth.phase = .slotRead ∨ s.eth.phase = .swap then .none else s.eth.phase, polled := [] } }

/-- What the port cannot go on with without a link: claims, reads of the directory, a release, which is abandoned (R389), and renewals,
which have failed (R388). -/
def endServices (s : State) : State :=
  let lost := s.eth.transfers.any fun t => t.use == .renewal
  let s1 := dropUses (endClaim s) [.directory, .release, .renewal, .entryState]
  { s1 with eth := { s1.eth with
      phase := if s1.eth.phase = .releasing then .none else s1.eth.phase
      fails := if lost then BitVec.ofNat 8 (satAdd 8 s1.eth.fails.toNat 1) else s1.eth.fails } }

/-- The Ethernet port without its domain or its link (R377): connections and 1588 time end, transfers stop, and those that have not
completed run out of time (R383). -/
def ethernetOff (s : State) : State :=
  if s.eth.up then
    let t := endServices s
    { t with
      eth := { t.eth with
        up := false, mode := 0, conns := [], spaces := [], downs := BitVec.ofNat 8 (satAdd 8 s.eth.downs.toNat 1) }
      time := { s.time with ptpSeen := false, sync := none, thetas := if s.time.ptp then [] else s.time.thetas } }
  else s

/-- Switch domains off: what HBM held behind a bank die is lost (DESIGN CHOICE 5), ports go DOWN, the Ethernet link is
lost, no wake of them goes on. -/
def switchOff (s : State) (m : BitVec 40) : State :=
  let off := s.pwr.domains &&& m
  let lost := fun (a : Nat) => off.getLsbD (24 + dieOf s a)
  let s1 := if off &&& domainRange 24 31 = 0 then s
    else { s with mem := { s.mem with
      hbm := s.mem.hbm.filter fun c => !lost c.1
      bad := s.mem.bad.filter fun c => !off.getLsbD (24 + 8 * c.1 / 2 ^ 37 / 3) } }
  let s2 := ((List.range 7).filter fun p => off.getLsbD (32 + p)).foldl portOff s1
  let s3 := if off.getLsbD 39 then ethernetOff s2 else s2
  refreshRails { s3 with pwr := { s3.pwr with
    domains := s3.pwr.domains &&& ~~~m, waking := s3.pwr.waking.filter fun x => !m.getLsbD x.1 } }

/-! ### A claim that waits for its core positions (R387, R436) -/

/-- A claimed lease that has not been confirmed, whether or not it lapses. -/
def joining (s : State) : Bool :=
  s.eth.phase == .claimed || (s.eth.phase == .lapsing && !jobStarted s && s.rsl.phase == .idle)

/-- Ask for the job image of the entry (step 6). -/
def askImage (s : State) (use : TransferUse) : State :=
  startTransfer s (numAt s.eth.entry 52 1) use (numAt s.eth.entry 60 8) []

/-- The image is asked for once the core positions have woken (step 6 of R387, R436). -/
def claimWoken (s : State) : State :=
  if joining s ∧ s.pwr.waking = [] ∧ s.seq.job.isNone ∧ !(s.eth.transfers.any fun t => t.use == .image) then askImage s .image else s

/-! ### Wakes -/

/-- The wake step that a domain is in; one that does not wake yet begins with its regulator. -/
def wakeStepOf (s : State) (d : Nat) : WakeStep := ((s.pwr.waking.find? (·.1 == d)).map (·.2)).getD .regulator

/-- Begin to wake the domains of a mask that are not on, for a state; one that wakes already goes on, and what was woken for management
alone no longer is (R444). -/
def beginWake (s : State) (goal : Nat) (m : BitVec 40) : State :=
  refreshRails { s with pwr := { s.pwr with
    busy := true, goal := BitVec.ofNat 3 goal, mgmtOnly := false
    waking := ((List.range 40).filter fun d => m.getLsbD d && !s.pwr.domains.getLsbD d).map fun d => (d, wakeStepOf s d) } }

/-- The device leaves Standby: the power-off-ready output falls (R437), and no stop or trip is left to be ended (R441). Whether the
audit log ends in a seal decides on the stored test set (R465). -/
def leaveStandby (s : State) : State :=
  { s with pwr := { s.pwr with pwrok := false, tripped := false, intlkStop := false, orderly := s.sec.sealed } }

/-- A device whose boot a failed domain has ended in Standby (R440). -/
def bootStalled (s : State) : Bool := (s.sec.stage == 4 || s.sec.stage == 7) && s.pwr.domains == 0

/-- A wake source takes the device from Retention or Standby to Idle (R441); without the interlock no higher than
Standby (R444). From Standby the core positions wake too, for the tests of stage 4 (R465). A boot that a failed domain has ended in
Standby goes on with its stage (DESIGN CHOICE 37). -/
def wakeTo (s : State) (source detail : Nat) (latched : Bool) : State :=
  let from' := fun (t : State) => { t with pwr := { t.pwr with sources := [(source, detail)], wakeAt := s.time.epoch } }
  if !s.pwr.intlk ∨ (s.sec.stage ≠ 8 ∧ !bootStalled s) then s
  else if s.pwr.state = 3 then from' (beginWake (wakeEntry s source 2 detail latched false) 2 (stateDomains s 2))
  else if s.pwr.state = 4 then from' (beginWake (wakeEntry (leaveStandby s) source 2 detail latched false) 2 (stateDomains s 0))
  else s

/-- Put a latched source before the first one of a larger code. -/
def insertSource (x : Nat × Nat) : List (Nat × Nat) → List (Nat × Nat)
  | [] => [x]
  | y :: l => if x.1 < y.1 then x :: y :: l else y :: insertSource x l

/-- A source that arrives while an entry to a lower state is in progress is latched (R443). -/
def latchWake (s : State) (source detail : Nat) : State :=
  { s with pwr := { s.pwr with latched := insertSource (source, detail) s.pwr.latched } }

/-- An entry to a lower state is in progress. -/
def lowering (s : State) : Bool := s.pwr.busy && s.pwr.waking.isEmpty && decide (3 ≤ s.pwr.goal.toNat)

/-- A further source in the tick in which a wake began (R443): the sources are recorded in increasing code order, the first of them
the cause. -/
def againWake (s : State) (source detail : Nat) : State :=
  let l := insertSource (source, detail) s.pwr.sources
  let s1 := l.foldl (fun t x => wakeEntry t x.1 2 x.2 false false)
    { s with pwr := { s.pwr with wakeHead := s.pwr.wakeHead - BitVec.ofNat 3 s.pwr.sources.length } }
  { s1 with pwr := { s1.pwr with
      sources := l, wakes := BitVec.ofNat 8 (satAdd 8 s.pwr.wakes.toNat 1)
      source := BitVec.ofNat 8 ((l.head?.map (·.1)).getD 0), lastWake := BitVec.ofNat 8 ((l.head?.map (·.1)).getD 0) } }

/-- A wake source (R441), with whether it wakes from Retention and from Standby. While domains are awake for management alone it acts as
from Standby (R444). -/
def wakeSource (s : State) (source detail : Nat) (retention standby : Bool) : State :=
  let reaches := fun (c : BitVec 3) => (c == 3 && retention) || (c == 4 && standby)
  if lowering s then (if reaches s.pwr.goal then latchWake s source detail else s)
  else if !reaches s.pwr.state then s
  else if !s.pwr.busy ∨ s.pwr.mgmtOnly then wakeTo s source detail false
  else if s.pwr.sources ≠ [] ∧ s.pwr.wakeAt = s.time.epoch then againWake s source detail
  else s

/-- An entry to a lower state begins; it is complete at the next tick (DESIGN CHOICE 37). -/
def lower (s : State) (code : Nat) : State :=
  { s with pwr := { s.pwr with busy := true, goal := BitVec.ofNat 3 code, waking := [], mgmtOnly := false } }

/-- An entry to a lower state is complete: a latched source wakes the device at once; further ones are recorded (R443). -/
def entered (s : State) : State :=
  let s1 := { s with pwr := { s.pwr with state := s.pwr.goal, busy := false, result := 0, latched := [] } }
  match s.pwr.latched with
  | [] => s1
  | (source, detail) :: rest =>
    let s2 := wakeTo s1 source detail true
    let s3 := rest.foldl (fun t x => if t.pwr.busy then wakeEntry t x.1 2 x.2 true false else t) s2
    { s3 with pwr := { s3.pwr with lastWake := s2.pwr.lastWake, source := s2.pwr.source, sources := [] } }

/-- Link-port and Ethernet domains wake for management traffic while the interlock is not asserted (R444). -/
def mgmtWake (s : State) : State :=
  if !s.pwr.intlk ∧ s.pwr.state = 4 ∧ 3 ≤ s.sec.stage ∧ !s.pwr.busy ∧ !s.pwr.mgmtOnly then
    let s1 := beginWake s 4 (domainRange 32 39)
    { s1 with pwr := { s1.pwr with mgmtOnly := true, source := 0, sources := [] } }
  else s

/-- The next step of a domain's wake. -/
def nextWakeStep : WakeStep → Option WakeStep
  | .regulator => some .oscillator
  | .oscillator => some .memory
  | .memory => some .logic
  | .logic => none

/-- Generator, scale and stream slots of a core at their reset values. -/
def clearSlots (s : State) (core : Nat) : State :=
  let clr := fun {w : Nat} (m : Sparse w) => m.clear (core * 16) (core * 16 + 16)
  { s with cu := { s.cu with
      gen := clr s.cu.gen, gen0 := clr s.cu.gen0, scale := clr s.cu.scale, scaleMark := clr s.cu.scaleMark
      stream := clr s.cu.stream, cursor := clr s.cu.cursor } }

/-- Registers of a bank die at their reset values, its tags free; what counts since boot stays (DEDUCED 47). -/
def clearBank (s : State) (b : Nat) : State :=
  { s with mem := { s.mem with
      tags := s.mem.tags.filter fun t => t.die.val != b
      held := s.mem.held.filter fun m => dieOf s (512 * m.sector) != b
      tagPeak := s.mem.tagPeak.set b 0, tagWaits := s.mem.tagWaits.set b 0, ueAddr := s.mem.ueAddr.set b 0
      optDesc := s.mem.optDesc.set b 0, optPass := s.mem.optPass.set b 0, optBusy := putFlag s.mem.optBusy b false
      nonfin := putFlag s.mem.nonfin b false, optCount := s.mem.optCount.set b 0 } }

/-- A domain has woken: its SRAM is zero and its registers have their reset values, those that count since boot apart (DEDUCED 47). The
sequencer keeps the job of a lease that still holds, to be restored (R29). A link-port domain sends the wake pattern before it
trains (R442). -/
def domainUp (s : State) (d : Nat) : State :=
  let s1 := { s with pwr := { s.pwr with domains := putFlag s.pwr.domains d true } }
  if d < 20 then
    (if (positionAt s d).state = 1 then clearSlots (zeroCore s1 (positionAt s d).logical.toNat) (positionAt s d).logical.toNat else s1)
  else if d = 20 ∨ d = 21 then { s1 with coll := Coll.reset }
  else if d = 22 then
    { s1 with seq := { Seq.reset with job := s.seq.job, checked := s.seq.checked, clocked := s.seq.clocked } }
  else if 24 ≤ d ∧ d < 32 then clearBank s1 (d - 24)
  else if 32 ≤ d ∧ d < 39 then
    let p := d - 32
    let fresh : Port := { Port.reset with
      label := BitVec.ofNat 3 (mapLabel s.link.topo p), peer := (portOf s p).peer, downs := (portOf s p).downs
      badGroups := (portOf s p).badGroups, crcErr := (portOf s p).crcErr, replays := (portOf s p).replays, wakeSent := mapEnabled s.link.topo p }
    let s2 := setPort (endRemap s1 p) p fun _ => fresh
    if mapEnabled s.link.topo p then send s2 [.wakePattern p] else s2
  else if d = 39 then { s1 with eth := { s1.eth with mode := 0, reach := 0, feedWaits := 0 } }
  else s1

/-- What follows when every domain of a wake is on: Idle from Retention, Active for a lease; a wake from Standby waits for
the tests of stage 4, a boot for its stage's end, a management wake leaves POWER 4. -/
def wakeDone (s : State) : State :=
  if s.pwr.waking ≠ [] then s
  else if s.pwr.mgmtOnly ∨ s.sec.stage ≠ 8 then { s with pwr := { s.pwr with busy := false } }
  else if s.pwr.state = 4 ∧ s.pwr.goal = 2 then s
  else claimWoken { s with pwr := { s.pwr with
    state := if s.pwr.goal = 0 ∧ s.pwr.pace ≠ 16 then 1 else s.pwr.goal, busy := false } }

/-- DOMAIN_READY (R439): a ready signal of a domain whose group wakes; each step begins when the one before is ready. -/
def execDomainReady (domain : Fin 40) (step : WakeStep) (s : State) : Out :=
  if (wakingNow s.pwr.waking).contains (domain.val, step) then
    match nextWakeStep step with
    | some n =>
      let l := s.pwr.waking.map fun x => if x.1 = domain.val then (x.1, n) else x
      .next (refreshRails { s with pwr := { s.pwr with waking := l } })
    | none =>
      let s1 := { s with pwr := { s.pwr with waking := s.pwr.waking.filter fun x => x.1 != domain.val } }
      .next (wakeDone (refreshRails (domainUp s1 domain)))
  else .next s

/-! ### The stop of R29 -/

/-- Where a recovery goes on from when what it restored is lost: the decide barrier. -/
def RecoveryPhase.afterLoss : RecoveryPhase → RecoveryPhase
  | .idle => .idle
  | .ended => .ended
  | _ => .decide

/-- Rewind points, a snapshot in progress, the records of the ring and what a recovery has restored do not outlive the bank dies. A
claimed lease whose job has not started keeps its job as it was loaded, although memory no longer holds it (DESIGN CHOICE 57). -/
def loseCommitted (s : State) : State :=
  { s with rsl := { s.rsl with
      rewind := none, filling := none, left := [], reading := [], phase := s.rsl.phase.afterLoss, ringLow := s.rsl.recHigh
      slots := s.rsl.slots.map fun x => if x.state = 1 then Slot.empty else x } }

/-- The stop of R29: the step is abandoned, the chip stops, every domain goes off, the event is recorded; the entry to
Standby runs no test, appends the seal (R423, R437) and leaves no stored test set (R465). -/
def forcedStandby (s : State) (source : Nat) : State :=
  let s1 := stopChip s
  let s2 := if stepOpen s1 then applyWaiting (dropStep s1) else s1
  let s3 := wakeEntry (loseCommitted s2) source 4 0 false false
  let s4 := switchOff s3 (domainRange 0 39)
  lower (auditSeal { s4 with mon := { s4.mon with setValid := false } }) 4

end Sys2Proof.Machine
end

