-- ==== Sys2Proof/Machine/LinkOps.lean ====
section
/-! DEFINITION. Speedwell ports in operation: training and identity (R291 to R300), links that go down and notices (R306 to
R308), packets and their replay (R287, R288), lane groups (R289), topology updates (R310 to R313). -/

namespace Sys2Proof.Machine

/-! ### What a change of the links brings (R252, R306, R364) -/

/-- The routes are computed anew: spilled stash entries are lost with the Twin port, the partner with the way to it; a
member that no route reaches abandons the step. -/
def linksChanged (s : State) : State :=
  let s1 := if twinDown s then stashLost s else s
  let s2 := if !partnerReach s1 then partnerLost s1 else s1
  if memberLost s2 then abandonStep s2 0xE else s2

/-! ### Checks on the identity (R296, R297) -/

/-- The port trained at the speed of its version: it takes the state the checks decide. -/
def takeState (s : State) (p : Nat) : State := linksChanged (settlePort s p)

/-- A port enters MISWIRED, which is reported. -/
def miswire (s : State) (p : Nat) : State :=
  linksChanged (report (setPort (leaveLink s p) p fun q => { q with mode := .miswired, cause := 4, fast := false }) 0xA p)

/-- The checks behind check 2: the retrain for Speedwell 3 where it is due, then the state they decide (R292). -/
def passIdentity (s : State) (p : Nat) : State :=
  let q := portOf s p
  let v := (q.peer.bind (commonVersion p)).getD 0
  if v = 3 ∧ q.version ≠ 3 then
    setPort s p fun x => { x with fast := true, mode := if x.mode = .check then .check else .ident }
  else takeState s p

/-- A port that has received an identity block since it trained, and is not MISWIRED. -/
def identified (s : State) (p : Nat) : Bool :=
  let q := portOf s p
  q.heard && q.mode != .down && q.mode != .train && q.mode != .miswired

/-- The other port of a swapped pair (R297): what each of the two received is what the map expects on the other. -/
def swappedWith (s : State) (p : Nat) (b : IdBlock) : Option Nat :=
  if p = 6 ∨ (s.link.ports.any (·.remap)) then none
  else (List.range 6).find? fun o =>
    o != p && meetsEntry s o b && identified s o && (portOf s o).peer.any (meetsEntry s p)

/-- Another torus port that the map expects this block on is still to receive its own: a swapped pair is possible, and the port
waits for it in IDENT (DEDUCED 35). -/
def pairPossible (s : State) (p : Nat) (b : IdBlock) : Bool :=
  p != 6 && !(s.link.ports.any (·.remap)) && (List.range 6).any fun o =>
    o != p && meetsEntry s o b && !(portOf s o).heard && ((portOf s o).mode == .train || (portOf s o).mode == .ident)

/-- The labels of a swapped pair are exchanged (R297). -/
def exchangeLabels (s : State) (p o : Nat) : State :=
  let a := (portOf s p).label
  let b := (portOf s o).label
  let s1 := setPort s p fun q => { q with label := b, remap := true }
  let s2 := setPort s1 o fun q => { q with label := a, remap := true }
  sendIdentity (report s2 8 (p + 8 * o)) [p, o]

/-- Check 2 failed (R297): a swapped pair is remapped and both its ports pass on; a peer that may be remapping is awaited in CHECK;
else MISWIRED. A retrain for Speedwell 3 that runs does not take the port further. -/
def resolveMismatch (s : State) (p : Nat) (b : IdBlock) : State :=
  match swappedWith s p b with
  | some o => passIdentity (passIdentity (exchangeLabels s p o) p) o
  | none =>
    let j := labelEntry s p
    if pairPossible s p b then linksChanged (setPort (leaveLink s p) p fun q => { q with mode := .ident, fast := false })
    else if p ≠ 6 ∧ mapEnabled s.link.topo j ∧ b.coord = mapCoord s.link.topo j ∧ b.toposeq.toNat = topoSeq s then
      linksChanged (setPort (leaveLink s p) p fun q => { q with mode := .check, fast := false })
    else miswire s p

/-- A port that waits in IDENT for the other port of a pair is looked at again. -/
def settleWaiting (s : State) (p : Nat) : State :=
  let q := portOf s p
  match q.peer with
  | some b => if q.mode = .ident ∧ q.heard ∧ !q.fast ∧ !meetsEntry s (labelEntry s p) b then resolveMismatch s p b else s
  | none => s

/-- Every port that waits is looked at again. -/
def settlePairs (s : State) : State := (List.range 7).foldl settleWaiting s

/-! ### Ports that go DOWN and notices (R307, R308) -/

/-- A port goes DOWN: another time parent, other routes, and no pair for a port that waited. -/
def portFails (s : State) (p cause : Nat) : State := linksChanged (settlePairs (chooseParent (portLost s p cause)))

/-- LINK_DOWN (R307): no valid codeword for 1 µs. -/
def execLinkDown (port : Fin 7) (s : State) : Out :=
  if (portOf s port).mode = .down then .next s else .next (portFails s port 1)

/-- LINK_STATE_NOTICE (R307, R308): forwarded once; a notice that names the job abandons its step. -/
def execLinkStateNotice (port : Fin 7) (n : Notice) (s : State) : Out :=
  if !portOpen s port ∨ noticeSeen s n then .next s
  else
    let s1 := floodNotice s n
    let s2 := match n.link with
      | none => s1
      | some l =>
        let rest := s1.link.downLinks.filter fun x => x != l
        { s1 with link := { s1.link with downLinks := if n.up then rest else rest ++ [l] } }
    let named : Bool := n.tags.contains (jobTag s) && jobTag s != 0
    .next (linksChanged (if named = true then abandonStep s2 (if n.link.isNone then 0xD else 7) else s2))

/-! ### Training (R292, R441, R442) -/

/-- The port's map entry enables it and its domain is on. -/
def mayTrain (s : State) (p : Nat) : Bool := mapEnabled s.link.topo p && s.pwr.domains.getLsbD (32 + p)

/-- SIGNAL_DETECT (R292, R441, R466): an enabled port in DOWN enters TRAIN, unless the self-test left it no usable half; in
Retention it is a wake source. -/
def execSignalDetect (port : Fin 7) (s : State) : Out :=
  let q := portOf s port
  let s0 := wakeSource s 2 port true false
  if q.mode = .down ∧ mayTrain s port ∧ !q.retry then
    if tooFewGroups port q.badGroups then .next (setPort s0 port fun x => { x with cause := 7 })
    else .next (parentDisturbed (setPort (enterTrain s0 port) port fun x => { x with wakeSent := false }) port)
  else .next s0

/-- TRAINING_TIMEOUT (R292): TRAIN not complete within 100 ms. -/
def execTrainingTimeout (port : Fin 7) (s : State) : Out :=
  if (portOf s port).mode = .train then
    let s1 := portFails s port 2
    .next (setPort s1 port fun q => { q with retry := true })
  else .next s

/-- TRAINING_RETRY (R292): 1 s later the port trains again. -/
def execTrainingRetry (port : Fin 7) (s : State) : Out :=
  if (portOf s port).retry ∧ (portOf s port).mode = .down then
    let s1 := setPort s port fun q => { q with retry := false }
    if mayTrain s port then .next (enterTrain s1 port) else .next s1
  else .next s

/-- TRAINING_COMPLETE (R292): from TRAIN to IDENT, where identity blocks are exchanged; or the retrain for Speedwell 3
ends. LSEQ starts anew, and what the replay buffer still holds is not sent again (DESIGN CHOICE 35). -/
def execTrainingComplete (port : Fin 7) (s : State) : Out :=
  let q := portOf s port
  if q.mode = .train then
    .next (sendIdentity (setPort s port fun x => { x with mode := .ident, rxSeq := 0, txSeq := 0, unacked := [] }) [port.val])
  else if q.fast ∧ (q.mode = .ident ∨ q.mode = .check) then
    .next (takeState (setPort s port fun x => { x with fast := false, version := 3 }) port)
  else .next s

/-- The port trains again, its map entry permitting (R298). -/
def retrainPort (s : State) (p : Nat) : State :=
  if mayTrain s p then linksChanged (parentDisturbed (enterTrain s p) p) else s

/-- RETRAIN (R298): a write of LINK_CTRLp by an installer session. -/
def execRetrain (port : Fin 7) (s : State) : Out :=
  if sessionIs s .installer then .next (retrainPort s port) else .next (denyWrite s (0x30010 + 64 * port.val) 1)

/-! ### Identity blocks (R296, R300) -/

/-- A new serial at an unchanged coordinate (R300): the copies a lost partner held are gone. -/
def peerChanged (s : State) (p : Nat) (b : IdBlock) : State :=
  let s1 := report s 9 p
  if b.coord = s.rsl.pcoord ∧ leased s then
    partnerLost { s1 with rsl := { s1.rsl with slots := s1.rsl.slots.map fun x => { x with partner := false } } }
  else s1

/-- The checks of R296 on a block, in order. -/
def checkIdentity (s : State) (p : Nat) (b : IdBlock) : State :=
  if commonVersion p b = none then portFails s p 3
  else if meetsEntry s (labelEntry s p) b then passIdentity s p
  else resolveMismatch s p b

/-- IDENTITY_BLOCK (R296, R300): the peer is noted, then the checks in order. A port in MISWIRED stays there (R298). -/
def execIdentityBlock (port : Fin 7) (b : IdBlock) (s : State) : Out :=
  let q := portOf s port
  if q.mode = .down ∨ q.mode = .train then .next s
  else
    let changed : Bool := q.peer.any fun o => o.serial != b.serial && o.coord == b.coord
    let s1 := setPort s port fun x => { x with peer := some b, heard := true }
    let s2 := if changed = true then peerChanged s1 port b else s1
    .next (if q.mode = .miswired then s2 else settlePairs (checkIdentity s2 port b))

/-- IDENTITY_WAIT_TIMEOUT (R297): 10 ms in CHECK without a matching block. -/
def execIdentityWaitTimeout (port : Fin 7) (s : State) : Out :=
  let q := portOf s port
  if q.mode = .check ∧ !q.fast ∧ !(q.peer.any (meetsEntry s (labelEntry s port))) then .next (miswire s port)
  else .next s

/-! ### Lane groups (R289) -/

/-- LANE_GROUP_ERROR (R289): the group leaves use and the port goes on with half its lanes, or goes DOWN with cause
LANES. -/
def execLaneGroupError (port : Fin 7) (group : Fin 4) (s : State) : Out :=
  let q := portOf s port
  if q.mode = .down ∨ (laneGroups port).1 ≤ group.val then .next s
  else
    let out := putFlag q.groupsOut group true
    let s1 := setPort s port fun x => { x with groupsOut := out, half := true }
    if tooFewGroups port out then .next (portFails s1 port 7)
    else .next (parentDisturbed s1 port)

/-! ### Packets (R287, R288, R302, R304 to R306) -/

/-- A replay is requested from the first packet missing (R288). -/
def requestReplay (s : State) (p : Nat) (bad : Bool) : State :=
  let s1 := setPort s p fun q => { q with
    crcErr := if bad then BitVec.ofNat 16 (satAdd 16 q.crcErr.toNat 1) else q.crcErr
    replays := BitVec.ofNat 16 (satAdd 16 q.replays.toNat 1) }
  countEv (send s1 [.replay p (portOf s p).rxSeq]) { code := 0x32, port := some p, job := false }

/-- A packet that arrived whole and in order: counted, and forwarded unless it is for this chip (R279, R304, R306). A data
packet whose local address lies in the reserved range is dropped and counted (R215). A link packet count is compared with the
data packets received before it, when it came over the link that it counts. -/
def acceptPacket (s : State) (port : Nat) (p : Packet) : State :=
  let s0 := if carriesCount p ∧ p.src = (peerCoord s port).setWidth 24 ∧ addrCoord p.dest = myCoord s ∧
      p.jobtag = jobTag s ∧ stepOpen s then countExchange s port (fld p.aux 63 32) else s
  let s1 := send (setPort s0 port fun q => { q with
    rxSeq := q.rxSeq + 1, received := if isData p then q.received + 1 else q.received }) [.ack port p.lseq]
  if p.kind = 4 then s1
  else if addrCoord p.dest ≠ myCoord s then route s1 p
  else if p.kind = 1 ∧ hbmLimit ≤ fld p.dest 43 0 then
    { s1 with mem := { s1.mem with dropped := BitVec.ofNat 32 (satAdd 32 s1.mem.dropped.toNat 1) } }
  else s1

/-- A packet comes in: a bad CRC or a gap in LSEQ requests a replay; a packet received before is acknowledged again. -/
def packetArrives (s : State) (port : Nat) (p : Packet) : State :=
  let q := portOf s port
  let s0 := if p.kind = 3 then mgmtWake s else s
  if !carries q.mode p then s0
  else if p.crc ≠ packetCrc p then requestReplay s0 port true
  else if p.lseq = q.rxSeq then acceptPacket s0 port p
  else if (q.rxSeq - p.lseq).toNat < 2 ^ 31 then send s0 [.ack port (q.rxSeq - 1)]
  else requestReplay s0 port false

/-- SPEEDWELL_PACKET (R288): a packet, and a cumulative acknowledgement of this device's own. -/
def execSpeedwellPacket (port : Fin 7) (p : Option Packet) (ack : Option Word) (s : State) : Out :=
  let s1 := match ack with
    | some n => if carriesPackets (portOf s port).mode then takeAck s port n else s
    | none => s
  match p with
  | some x => .next (packetArrives s1 port x)
  | none => .next s1

/-- REPLAY_REQUEST (R288): packets before the first one missing are acknowledged, the others are sent again. After 16
failed replays of one packet the port goes DOWN with cause REPLAY. -/
def execReplayRequest (port : Fin 7) (lseq : Word) (s : State) : Out :=
  if !carriesPackets (portOf s port).mode then .next s
  else
    let s1 := takeAck s port (lseq - 1)
    let rest := (portOf s port).unacked.filter fun p => decide ((p.lseq - lseq).toNat < 2 ^ 31)
    let fails := (portOf s1 port).fails + 1
    if rest = [] then .next s1
    else if 17 ≤ fails then .next (portFails s1 port 6)
    else
      .next ((rest.filter (carries (portOf s port).mode)).foldl (fun t p => putOut t port p)
        (setPort s1 port fun x => { x with fails := fails }))

/-! ### Topology updates (R310 to R312) -/

/-- Bytes 0 to 59 of an update or of a record's topology section are well formed: no reserved field or encoding, labels
and extents as R294, R295, R309 and R311 ask. The labels and the coordinates are those of every entry, enabled or not. -/
def mapOk (b : List Byte) : Bool :=
  let ports := List.range 7
  let used := ports.filter fun p => flag (mapEntry b p) 21 && mapLabel b p != 7
  let ext := fun (a : Nat) => numAt b (28 + a) 1
  let inside := fun (c : BitVec 18) => (List.range 3).all fun a => decide (coordAxis c a < ext a)
  decide (numAt b 24 3 < 262144) && decide (numAt b 27 1 ≤ 16) &&
    ((List.range 3).all fun a => decide (1 ≤ ext a) && decide (ext a ≤ 64)) && numAt b 31 1 == 0 &&
    inside (BitVec.ofNat 18 (numAt b 24 3)) &&
    (ports.all fun p => fld (mapEntry b p) 31 22 == 0 && inside (mapCoord b p) &&
      (if p = 6 then mapLabel b p == 6 else mapLabel b p != 6)) &&
    used.all fun p =>
      (used.all fun o => o == p || mapLabel b o != mapLabel b p) && (mapLabel b p == 6 || decide (1 < ext (mapLabel b p / 2)))

/-- The installer's public key in force. -/
def installerKey (s : State) : List Byte := bytesAt (recordSection s.sec.record 2) 0 132

/-- R311 accepts an update. -/
def updateOk (s : State) (b : List Byte) : Bool :=
  b.length == 256 && Config.ecdsaVerify (installerKey s) (Config.sha512 (bytesAt b 0 124)) (bytesAt b 124 132) &&
    numAt b 8 16 == Config.serial.toNat && decide (topoSeq s < numAt b 0 8) && zeroAt b 60 123 && mapOk b

/-- Take an update (R311, R312): rejected with no effect but the audit log, or accepted, and applied at once without a
lease. Under a lease it waits for the step that is open to be abandoned, or the job stopped; where none is open any more, it is
applied at once (DESIGN CHOICE 55). -/
def takeUpdate (s : State) (path : Path) (bytes : List Byte) : State :=
  if s.sec.stage < 3 ∨ !updateOk s bytes then audit s 0x32 .device path 0 (numAt bytes 0 8)
  else
    let s1 := audit s 0x30 .installer path 0 (numAt bytes 0 8)
    let new := bytesAt bytes 0 60
    if leased s ∧ (stepOpen s && !s.commit.limit || !jobStarted s) then { s1 with link := { s1.link with waiting := some new } }
    else linksChanged (applyTopology s1 path new)

/-- The frame that brings an update over the chain: a WRITE to every device (R429), of which the command says nothing but the update
(DESIGN CHOICE 60). -/
def updateFrame (bytes : List Byte) : Frame :=
  withCrc { dest := 0xFFF, src := 0, typ := 3, tag := 0, len := 64, status := 0, offset := 0,
            payload := (List.range 64).map fun i => BitVec.ofNat 32 (numAt bytes (4 * i) 4), crc := 0 }

/-- TOPOLOGY_UPDATE (R310 to R312, R429): an update over the chain is applied and forwarded; where the chain passes the device by, only
forwarded (R430). -/
def execTopologyUpdate (path : Path) (bytes : List Byte) (s : State) : Out :=
  if path = .chain then
    .next (forwardFrame (if chainOpen s then takeUpdate s path bytes else s) (updateFrame bytes))
  else if s.sec.stage = 0 then .next s
  else .next (takeUpdate s path bytes)

/-- ATTESTATION_REQUEST (R420): served one at a time, in arrival order. -/
def execAttestationRequest (port : Fin 7) (nonce : BitVec 256) (s : State) : Out :=
  let m := (portOf s port).mode
  if m = .check ∨ m = .up ∨ m = .mgmt then
    if s.sec.attesting = none then .next { s with sec := { s.sec with attesting := some (some port, nonce) } }
    else .next { s with sec := { s.sec with attQueue := s.sec.attQueue ++ [(port, nonce)] } }
  else .next s

end Sys2Proof.Machine
end

