-- ==== Sys2Proof/Machine/Services.lean ====
section
/-! DEFINITION. The Ethernet port's services (R377 to R393): the job directory and the lease, transfers and their timeouts,
the dataset feed, answers on the network. -/

namespace Sys2Proof.Machine

/-! ### Directory entries (R385, R387) -/

/-- An entry without reserved field or encoding. -/
def entryOk (e : List Byte) : Bool :=
  let n := numAt e
  let within := fun (lo v hi : Nat) => decide (lo ≤ v) && decide (v ≤ hi)
  e.length == 256 && n 0 2 != 0 && decide (n 2 1 ≤ 2) && within 1 (n 3 1) 3 && within 1 (n 4 1) 64 &&
    within 1 (n 5 1) 16 && zeroAt e 6 7 && decide (n 8 3 < 262144) && decide (n 11 1 < 8) && zeroAt e 15 23 &&
    ((List.range 3).all fun a => within 1 (n (12 + a) 1) 64) && within 100 (n 24 4) 600000 &&
    decide (n 28 4 ≤ 600000) && decide (256 ≤ n 48 4) && (n 48 4).isPowerOfTwo && decide (n 52 1 ≤ 7) &&
    zeroAt e 53 55 && decide (n 76 1 ≤ 7) && zeroAt e 77 79 && decide (1 ≤ n 92 4 + 2 ^ 32 * n 96 4) &&
    decide (1 ≤ n 100 4) && decide (n 104 1 ≤ 7) && zeroAt e 105 107 && zeroAt e 192 255

/-- The reserved fields of an entry are zero (R385). -/
def reservedZero (e : List Byte) : Bool :=
  zeroAt e 6 7 && zeroAt e 15 23 && zeroAt e 53 55 && zeroAt e 77 79 && zeroAt e 105 107 && zeroAt e 192 255

/-- The device's MAC address (R403). -/
def macAddress (s : State) : Nat := numAt (recordSection s.sec.record 6) 0 6

/-- An open entry that the device could take (step 1 of R387), with what it reports where it could not. -/
def joinCheck (s : State) (e : List Byte) : Option (Nat × Nat) :=
  if narrowest s < numAt e 4 1 then some (2, narrowest s)
  else if activeCount s < numAt e 5 1 then some (3, activeCount s)
  else none

/-- An open entry of the directory whose slice holds this device. -/
def openHere (s : State) (e : List Byte) : Bool := numAt e 2 1 == 1 && inSlice s (bytesAt e 8 16) (myCoord s)

/-- Server address of this rank's lease slot. -/
def leaseSlotAddr (s : State) : Nat := numAt s.eth.entry 32 8 + 64 * s.eth.rank

/-- Read the lease slot of the first entry that the device could take (steps 1 and 2 of R387). -/
def tryEntries : List (Nat × List Byte) → State → State
  | [], s => { s with eth := { s.eth with phase := .none, polled := [], entry := [] } }
  | (k, e) :: rest, s =>
    if !openHere s e then tryEntries rest s
    else match joinCheck s e with
      | some (code, detail) => tryEntries rest (report s code detail)
      | none =>
        let s1 := { s with eth := { s.eth with
          phase := .slotRead, polled := rest, entry := e, entryNo := k, rank := rankOf s (bytesAt e 8 16) (myCoord s) } }
        startTransfer s1 8 .leaseSlot (leaseSlotAddr s1) []

/-- The device goes on with the next entry read. -/
def nextEntry (s : State) : State := tryEntries s.eth.polled s

/-- An entry to be ignored and reported (R385); of an empty one, whose other fields say nothing, the reserved fields are looked at
(DEDUCED 58). -/
def entryBad (e : List Byte) : Bool := if numAt e 2 1 = 0 then !reservedZero e else !entryOk e

/-- Entries with a non-zero reserved field or a reserved encoding are ignored and reported (R385). -/
def soundEntries (l : List (Nat × List Byte)) (s : State) : State :=
  (l.filter fun x => entryBad x.2).foldl (fun s x => report s 5 x.1) s

/-- Server address of the directory (R385, R403). -/
def directoryBase (s : State) : Nat := numAt (network s) 84 8

/-- DIRECTORY_POLL (R380, R387): a device in Field state without a lease reads the directory. -/
def execDirectoryPoll (s : State) : Out :=
  if s.sec.stage ≠ 8 ∨ s.sec.life ≠ 3 ∨ s.eth.phase ≠ .none ∨ !s.eth.up ∨ (s.eth.transfers.any fun t => t.use == .directory) then
    .next s
  else .next (startTransfer (keepAlive s) 8 .directory (directoryBase s) [])

/-- The directory was read (R387): in Idle the device tries its entries. In Retention, or as a lower state is entered, an entry that
it could take is a wake source (R441, R443). -/
def directoryArrived (s : State) (header : List Byte) (entries : List (List Byte)) : State :=
  if s.sec.life ≠ 3 ∨ s.eth.phase ≠ .none ∨ numAt header 0 4 ≠ 1 ∨ 4096 < numAt header 4 4 then s
  else
    let l := (entries.take (numAt header 4 4)).zipIdx.map fun x => (x.2, x.1)
    let good := l.filter fun x => numAt x.2 2 1 != 0 && entryOk x.2
    let s1 := soundEntries l s
    if s.pwr.state = 2 ∧ !s.pwr.busy then tryEntries good s1
    else if good.any fun x => openHere s x.2 && (joinCheck s x.2).isNone then wakeSource s1 5 0 true false
    else s1

/-! ### The claim (steps 3 to 7 of R387) -/

/-- Ticks of EXPIRY + GRACE of a slot. -/
def graceEnd (s : State) (expiry : DWord) : Nat := expiry.toNat + 1000000 * numAt s.eth.entry 28 4

/-- The OWNER value the device claims with. -/
def claimValue (s : State) (owner : DWord) : DWord :=
  BitVec.ofNat 64 (macAddress s + (fld owner 63 48 + 1) % 65536 * 2 ^ 48)

/-- The lease slot was read: takeable when free, or strictly past EXPIRY + GRACE; then the swap (steps 3 and 4). -/
def slotArrived (s : State) (owner expiry : DWord) : State :=
  if s.eth.phase ≠ .slotRead then s
  else if fld owner 47 0 = 0 ∨ graceEnd s expiry < s.time.epoch.toNat then
    startTransfer { s with eth := { s.eth with phase := .swap, owner := owner } } 8 .claimSwap (leaseSlotAddr s)
      (leBytes 8 owner.toNat ++ leBytes 8 (claimValue s owner).toNat)
  else nextEntry s

/-- EXPIRY from now: counter + 10⁶ × TERM. -/
def newExpiry (s : State) : DWord := s.time.epoch + BitVec.ofNat 64 (1000000 * numAt s.eth.entry 24 4)

/-- Write EXPIRY to the lease slot. -/
def writeExpiry (s : State) (serial : List Byte) : State :=
  startTransfer { s with eth := { s.eth with expiry := newExpiry s } } 8 .write (leaseSlotAddr s + 8)
    (leBytes 8 (newExpiry s).toNat ++ serial)

/-- The swap returned: the value read claims the lease (steps 4 and 5, R436): the core positions wake before the image is
read, never without the interlock (R28). A slot that was claimed before makes the device a hot spare of its place (DEDUCED 34). -/
def swapArrived (s : State) (returned : DWord) : State :=
  if s.eth.phase ≠ .swap ∨ s.sec.life ≠ 3 then s
  else if returned ≠ s.eth.owner then nextEntry s
  else
    let spare := fld returned 63 48 != 0
    let s1 := { s with
      eth := { s.eth with
        phase := .claimed, owner := claimValue s returned, spare := spare, fails := 0, stopping := false }
      rsl := { s.rsl with
        first := 2, pcoord := BitVec.ofNat 18 (numAt (hetinRsl s) 0 3), pfirst := 0, viaTorus := spare, gone := false, lent := none } }
    let s2 := writeExpiry s1 (leBytes 16 Config.serial.toNat)
    if s2.pwr.intlk then wakeDone (beginWake (wakeEntry s2 0x12 0 0 false false) 0 (domainMask (livePositions s2))) else claimWoken s2

/-- The condition of the lease failed: it is reported, the lease released (step 6 and 7 of R387). -/
def failClaim (s : State) (code detail : Nat) : State := releaseLease (report s code detail) false

/-- The halves of the job's logical cores agree with HALVES (R31, R171). -/
def halvesOk (s : State) (j : Job) : Bool :=
  (List.range j.cores).all fun c => (positionOf s c).any fun p => j.halves.getLsbD c == decide (10 ≤ p)

/-- The image was read: digest, every check that names it malformed, halves, store size; then it is in force (R173), the
new identity goes out, from which the 10 s of step 7 count, and the partner is asked for its area (R351). -/
def imageArrived (s : State) (img : List Byte) : State :=
  if !joining s ∨ s.seq.job.isSome then s
  else if hashBytes (Config.sha512 img) ≠ bytesAt s.eth.entry 128 64 then failClaim s 6 s.eth.entryNo
  else if !imageOk s img then failClaim s 5 s.eth.entryNo
  else
    let t := placeInitial (loadImage s img) img false
    if !halvesOk t (imageJob img) then failClaim s 3 (activeCount s)
    else if numAt (jobRsl t) 4 2 ≠ 0 ∧ numAt t.eth.entry 120 8 < 512 * slotPages t then failClaim s 0x10 0
    else
      let u := leaseIdentity t
      askPartner { u with eth := { u.eth with since := u.time.epoch } } .partner 0 64

/-- Flash holds the two slots (R352). -/
def flashFits (s : State) : Bool := decide (2 * slotPages s ≤ s.rsl.flashPages.toNat)

/-- The partner cannot be reached or reserves nothing (last row of R351). -/
def noPartner (s : State) : State :=
  let s1 := report { s with rsl := { s.rsl with first := 1, plost := true } } 0xD 0
  if flashFits s1 then s1 else failClaim s1 0xF 0

/-- What the partner reserves for this device here gives the layers their roles (R351); the spill area on the Twin is known with it
(R248). With the partner on the torus the Twin is taken to reserve no spill area for this device (DEDUCED 54). -/
def takeRoles (s : State) (coord : BitVec 18) (feed first pages spill : Word) : State :=
  let same := feed.toNat == numAt (hetinRsl s) 4 4
  let permissive := numAt (hetinRsl s) 8 1 == 1
  let area := if !partnerTorus s ∧ spill ≠ 0 then some (first.toNat + pages.toNat - spill.toNat, spill.toNat) else none
  { s with
    rsl := { s.rsl with
      first := if same && !permissive then 1 else 0, sameFeed := same, policy := permissive, pcoord := coord, pfirst := first.toNat }
    stash := { s.stash with area := area } }

/-- The partner answered at lease time: the roles of the layers, the sizes of R352, the spill area on the Twin (R248). Where several
conditions fail, the first in this order is reported (DESIGN CHOICE 57). A spare takes its roles from the snapshot's partner
relation (R376), so that its lease fails on none of the sizes. -/
def leaseRoles (s : State) (coord : BitVec 18) (feed first pages spill : Word) : State :=
  let s1 := takeRoles s coord feed first pages spill
  if s.eth.spare then s1
  else if s1.rsl.first = 0 ∧ pages.toNat < 1 + 2 * slotPages s1 + spill.toNat then failClaim s1 0xE 0
  else if (s1.rsl.first = 1 ∨ s1.rsl.sameFeed ∨ numAt (jobRsl s1) 2 2 ≠ 0) ∧ !flashFits s1 then failClaim s1 0xF 0
  else if !spillsFit s1 then failClaim s1 5 s1.eth.entryNo
  else s1

/-- The partner area that a spare reserves, of the lost device's size (R376): the firmware enters it as class 0b011 in place of its
own record's, and its header shows no snapshot. -/
def lendArea (s : State) (own : Nat) : State :=
  let s1 := { s with rsl := { s.rsl with lent := some own } }
  let s2 := { s1 with mem := { s1.mem with classes := (s1.mem.classes.filter fun c => c.cls != 3) ++ partnerClass s1 } }
  if own = 0 then s2 else writeMem s2 (2097152 * areaFirst s2) (List.replicate 64 0)

/-- The partner answered in a job: a spare applies R351 with its own FEED and reserves the area of the place it took; a device that
lost its partner leaves the roles of the last row of R351 once the new area is in place (R376). -/
def rejoinPartner (s : State) (coord : BitVec 18) (feed first pages spill own : Word) : State :=
  if s.eth.spare then takeRoles (lendArea s own.toNat) coord feed first pages spill
  else if s.rsl.gone then
    let t := takeRoles s coord feed first pages spill
    { t with rsl := { t.rsl with gone := false } }
  else s

/-- The partner answered; one that reserves nothing counts as unreachable (last row of R351). -/
def partnerArrived (s : State) (coord : BitVec 18) (feed first pages spill own : Word) : State :=
  if joining s then (if pages = 0 then noPartner s else leaseRoles s coord feed first pages spill)
  else if leased s ∧ pages ≠ 0 then rejoinPartner s coord feed first pages spill own
  else s

/-- A port that the slice uses is UP with the job's tag on both sides (step 7, R299). -/
def slicePortOk (s : State) (l : Nat) : Bool :=
  (labelPort s l).any fun p => (portOf s p).mode == .up && (portOf s p).peer.any fun b => b.jobtag == jobTag s

/-- The scan number of a slot page that a spare reads at lease time (R375): the slot, and the store (true) or the partner. -/
def scanPage (slot : Nat) (store : Bool) : Nat := 2 ^ 40 * (1 + slot + 2 * store.toNat)

/-- The scan number of the header of the partner's area. -/
def scanHeader : Nat := 2 ^ 43

/-- A spare asks for the slot states in the header of the partner's area, and for the state records of the slots on the store
where the job uses it (R375). -/
def scanSlots (s : State) : State :=
  let s1 := askPartner s (.page scanHeader) (2097152 * s.rsl.pfirst) 64
  if numAt (jobRsl s1) 4 2 = 0 then s1
  else [0, 1].foldl (fun s n =>
    startTransfer s (numAt s.eth.entry 104 1) (.page (scanPage n true)) (pagePlace s n 0) []) s1

/-- The slot states in the header of the partner's area: the state records of the complete slots are asked for (R349, R375). -/
def headerArrived (s : State) (b : List Byte) : State :=
  ([0, 1].filter fun n => numAt b (4 * n) 1 % 8 == 2).foldl
    (fun s n => askPartner s (.page (scanPage n false)) (partnerAddr s n 0) 65536) s

/-- A spare asks the directory for the step record that follows a snapshot (R366, R375). -/
def scanRecord (s : State) (n : Nat) : State :=
  if s.rsl.known.contains n ∨ (s.eth.transfers.any fun t => t.use == .scanRecord n) then s
  else startTransfer s 8 (.scanRecord n) (recordPlace s n) []

/-- Record n of the directory exists for a spare when it is one of a step that followed a snapshot it found: its OUTCOME is none
reserved, its STEP the snapshot's (DEDUCED 59). -/
def recordFound (s : State) (n : Nat) (b : List Byte) : State :=
  if (numAt b 12 1 = 1 ∨ numAt b 12 1 = 2) ∧
      s.rsl.slots.any (fun x => x.record.any fun r => r.c.toNat + 1 == n && r.step.toNat == numAt b 0 8) then
    { s with rsl := { s.rsl with known := s.rsl.known ++ [n] } }
  else s

/-- A spare's scan of a slot page: a record of this job makes the slot complete on that layer, and the step record that follows is
looked for; one that fails R16 makes it damaged there (R366). -/
def scanArrived (s : State) (page : Nat) (b : Option (List Byte)) : State :=
  let k := page / 2 ^ 40 - 1
  let layer := if k < 2 then Layer.partner else .store
  match b with
  | none => s
  | some bs =>
    match parseRecord bs with
    | some r =>
      if r.jobtag = jobTag s ∧ ((slotAt s (k % 2)).state ≠ 2 ∨ (slotAt s (k % 2)).c = r.c) then
        let s1 := setSlot s (k % 2) fun x => { x with
          state := 2, c := r.c, record := some r, partner := x.partner || decide (k < 2), store := x.store || decide (2 ≤ k) }
        scanRecord (setSlot s1 (k % 2) fun x => { x with secure := snapSecure s1 x }) (r.c.toNat + 1)
      else s
    | none => if recordCrcOk bs then damageCopy (logRejected s (k % 2) layer bs) (k % 2) layer else s

/-- 10 s have gone by since step 7 of R387 began: a port that is UP by the end of that tick is in time (R322). -/
def confirmExpired (s : State) : Bool := decide (s.eth.since.toNat + 10000000000 < s.time.epoch.toNat)

/-- LEASE_CONFIRM (step 7 of R387): the ports that the slice uses are UP, or 10 s later the lease is released. A spare joins its job's
recovery at the decide barrier (R375). -/
def execLeaseConfirm (s : State) : Out :=
  if s.eth.phase ≠ .claimed ∨ s.seq.job.isNone ∨ (s.eth.transfers.any fun t => t.use == .partner) then .next s
  else match (ringLabels s).find? (fun l => !slicePortOk s l) with
    | some l => if confirmExpired s then .next (failClaim s 4 ((labelPort s l).getD l)) else .next s
    | none =>
      let s1 := chooseParent { s with eth := { s.eth with phase := .confirmed, polled := [] } }
      if s.eth.spare then
        let s2 := startJob s1
        .next (scanSlots { s2 with
          seq := { s2.seq with running := false }, rsl := { s2.rsl with phase := .decide, need := true } })
      else .next s1

/-! ### Renewal, lapse, grace (R388) -/

/-- The device is in a barrier of a recovery (R367). -/
def inBarrier (s : State) : Bool := s.rsl.phase == .decide || s.rsl.phase == .restart || s.rsl.phase == .release

/-- A graceful stop (R417): at the next completion of STEP.COMMIT; at once for a device stopped on a fault or a limit, in a recovery
barrier, or whose recovery goes no further (R356, R368, R369). -/
def stopGracefully (s : State) : State :=
  if !leased s then s
  else if s.seq.stopped ∨ s.commit.limit ∨ inBarrier s ∨ s.rsl.phase = .ended then releaseLease s (s.eth.phase == .lapsing)
  else { s with eth := { s.eth with stopping := true } }

/-- A renewal failed: it is counted (R388). -/
def renewalFailed (s : State) : State := { s with eth := { s.eth with fails := BitVec.ofNat 8 (satAdd 8 s.eth.fails.toNat 1) } }

/-- LEASE_RENEWAL (R380, R388): a swap of OWNER from the holder's value to itself, and a read of STATE. Without a link it fails at
once. -/
def execLeaseRenewal (s : State) : Out :=
  if !leased s then .next s
  else if !s.eth.up then .next (renewalFailed s)
  else
    let own := leBytes 8 s.eth.owner.toNat
    let s1 := startTransfer (keepAlive s) 8 .renewal (leaseSlotAddr s) (own ++ own)
    .next (startTransfer s1 8 .entryState (directoryBase s + 64 + 256 * s.eth.entryNo + 2) [])

/-- The swap of a renewal returned: the holder's own value renews the lease and ends a lapse; another owner's loses it at once. -/
def renewalArrived (s : State) (v : DWord) : State :=
  if !leased s then s
  else if v ≠ s.eth.owner then releaseLease (abandonForRelease s) true
  else
    let back := if joining s then LeasePhase.claimed else .confirmed
    writeExpiry { s with eth := { s.eth with fails := 0, phase := if s.eth.phase = .lapsing then back else s.eth.phase } } []

/-- STATE of the entry was read: withdrawn acts as a graceful stop. -/
def stateArrived (s : State) (st : Byte) : State :=
  if leased s ∧ st = 2 then stopGracefully (audit s 0x50 .device .internal 0 0) else s

/-- LEASE_LAPSE (R388): the counter reached EXPIRY. -/
def execLeaseLapse (s : State) : Out :=
  if (s.eth.phase = .claimed ∨ s.eth.phase = .confirmed) ∧ s.eth.expiry.toNat ≤ s.time.epoch.toNat then
    .next { s with eth := { s.eth with phase := .lapsing } }
  else .next s

/-- LEASE_GRACE_EXPIRY (R388): tick EXPIRY + GRACE ends with no STEP.COMMIT completed. -/
def execLeaseGraceExpiry (s : State) : Out :=
  if s.eth.phase = .lapsing ∧ graceEnd s s.eth.expiry ≤ s.time.epoch.toNat then
    .next (releaseLease (abandonForRelease s) true)
  else .next s

/-! ### The dataset feed (R391, R392) -/

/-- The feed section's slots N. -/
def feedSlots (s : State) : Nat := numAt (sectionEntry s 6 16 0) 8 4

/-- Bytes of a dataset unit. -/
def unitBytes (s : State) : Nat := 4096 * numAt s.eth.entry 100 4

/-- k of R392: the cursor after the last completion, rewind or restore. -/
def feedBase (s : State) : Nat := if s.seq.fresh then s.eth.cursor.toNat else s.eth.stepCursor.toNat

/-- Units whose reads are in flight. -/
def unitsInFlight (s : State) : List Nat := s.eth.transfers.filterMap fun t => match t.use with
  | .unit n => some n
  | _ => none

/-- First block of unit u of this rank (R391). -/
def unitPlace (s : State) (u : Nat) : Nat :=
  let e := s.eth.entry
  numAt e 84 8 + ((u % max 1 (numAt e 92 8)) * sliceSize (jobTopo s) + s.eth.rank) * numAt e 100 4

/-- The next unit the feed reads, in increasing number. -/
def nextUnitOf (s : State) : Option Nat :=
  ((List.range (feedSlots s)).map (feedBase s + ·)).find? fun u =>
    !s.eth.resident.contains u && !(unitsInFlight s).contains u && !(s.eth.arrived.any fun x => x.1 == u)

/-- DATASET_FEED_READ (R391, R392): one read, with at most 64 in flight. -/
def execDatasetFeedRead (s : State) : Out :=
  if !leased s ∨ s.seq.job.isNone ∨ !s.eth.up ∨ 64 ≤ (unitsInFlight s).length then .next s
  else match nextUnitOf s with
    | some u =>
      let s1 := { s with eth := { s.eth with nextUnit := u + 1 } }
      .next (startTransfer s1 (numAt s.eth.entry 76 1) (.unit u) (unitPlace s u) [])
    | none => .next s

/-- Write a unit to its place in the ring; the unit whose place it takes is gone. -/
def writeUnit (s : State) (u : Nat) (b : List Byte) : State :=
  let ring := numAt (sectionEntry s 6 16 0) 0 8
  let s1 := writeMem s (ring + u % max 1 (feedSlots s) * unitBytes s) (bytesAt b 0 (unitBytes s))
  { s1 with eth := { s1.eth with
      resident := (s1.eth.resident.filter fun v => v + feedSlots s != u && v != u) ++ [u]
      arrived := s1.eth.arrived.filter fun x => x.1 != u } }

/-- Units are written in increasing number (R392): the first one that is not resident, if it has been read, and so on. -/
def writeUnits : Nat → State → State
  | 0, s => s
  | n + 1, s =>
    match ((List.range (feedSlots s)).map (feedBase s + ·)).find? (fun u => !s.eth.resident.contains u) with
    | none => s
    | some u => match s.eth.arrived.find? (fun x => x.1 == u) with
      | some x => writeUnits n (writeUnit s u x.2)
      | none => s

/-- A unit was read: it waits for the units before it. -/
def unitArrived (s : State) (u : Nat) (b : List Byte) : State :=
  if feedBase s + feedSlots s ≤ u ∨ u < feedBase s then s
  else
    let s1 := { s with eth := { s.eth with arrived := (s.eth.arrived.filter fun x => x.1 != u) ++ [(u, b)] } }
    writeUnits s1.eth.arrived.length s1

/-! ### Transfers (R380, R382, R383) -/

/-- A transfer leaves the list. -/
def dropTransfer (s : State) (id : Nat) : State :=
  { s with eth := { s.eth with transfers := s.eth.transfers.filter fun t => t.id != id } }

/-- What a completed transfer brings, by what it was for. -/
def transferArrived (s : State) (use : TransferUse) (t : Transfer) : State :=
  match use, t with
  | .directory, .directory h l => directoryArrived s h l
  | .image, .image b => imageArrived s b
  | .leaseSlot, .leaseSlot owner expiry => slotArrived s owner expiry
  | .claimSwap, .claimSwap v => swapArrived s v
  | .renewal, .claimSwap v => renewalArrived s v
  | .entryState, .entryState st => stateArrived s st
  | .unit n, .unit _ b => unitArrived s n b
  | .partner, .partnerArea coord feed first pages spill own => partnerArrived s coord feed first pages spill own
  | .partner, .partnerUnreachable => if joining s then noPartner s else s
  | .restoreImage, .restoreImage b => imageRead s b
  | .flash, .flashRead failed => flashArrived s failed
  | .page n, .snapshotPage _ b =>
    if n = scanHeader then headerArrived s (b.getD []) else if 2 ^ 40 ≤ n then scanArrived s n b else pageRead s n b
  | .store slot, .done => storeWritten s slot
  | .stepRecord, .stepRecord b => replayRead s b
  | .scanRecord n, .stepRecord b => recordFound s n b
  | .release, _ => if s.eth.phase = .releasing then nextEntry { s with eth := { s.eth with phase := .none } } else s
  | _, _ => s

/-- Send a transfer again, on a fresh connection: the request it was sent with. -/
def sendAgain (s : State) (p : Pending) (retried : Bool) : State :=
  let q := { p with retried := retried, parked := false, issued := s.time.epoch }
  let s1 := setTransfer s p.id fun _ => q
  if p.target = 9 then partnerRequest s1 q
  else if p.target = 10 then s1
  else issueTransfer (disconnect s1 (peerOf p.target)) q

/-- What a transfer brings whose target is unreachable (R383): what a claim or a release waited for is given up, a renewal has failed,
an image not read releases the lease, a page that a spare looks for is not found; anything else waits until the target is tried again. -/
def giveUp (s : State) (p : Pending) : State :=
  let s1 := park s p
  let gone := dropTransfer s1 p.id
  match p.use with
  | .directory => gone
  | .leaseSlot => if s.eth.phase = .slotRead then nextEntry gone else gone
  | .claimSwap => if s.eth.phase = .swap then nextEntry gone else gone
  | .renewal => renewalFailed gone
  | .entryState => gone
  | .release => if s.eth.phase = .releasing then nextEntry { gone with eth := { gone.eth with phase := .none } } else gone
  | .image => if joining s then releaseLease gone false else gone
  | .page n => if 2 ^ 40 ≤ n then gone else s1
  | .scanRecord _ => gone
  | _ => s1

/-- A second request of the partner had no answer either: the partner is unreachable, a page of its slots not read. -/
def partnerSilent (s : State) (p : Pending) : State :=
  let gone := dropTransfer s p.id
  match p.use with
  | .partner => if joining s then noPartner gone else gone
  | .page n => transferArrived gone p.use (.snapshotPage n none)
  | _ => gone

/-- TRANSFER_COMPLETE: the completion of a transfer in flight, while the port has its link; a congestion mark on it is answered
(R379). A frame that the port cannot take is counted instead (R377); a namespace of other blocks than 4,096 bytes makes the target
unreachable (R382). -/
def execTransferComplete (id : Nat) (t : Transfer) (frame : EthFrame) (s : State) : Out :=
  match s.eth.transfers.find? (·.id == id) with
  | some p =>
    if 9 ≤ p.target then .next (transferArrived (dropTransfer s id) p.use t)
    else if !s.eth.up ∨ p.parked then .next s
    else if badFrame frame then .next (countFrame s)
    else
      let s1 := answerMark s (some (peerOf p.target)) frame.marked
      if t = .badNamespace ∧ p.target < 8 then .next (giveUp s1 p)
      else .next (transferArrived (setReach (dropTransfer s1 id) p.target true) p.use t)
  | none => .next s

/-- TRANSFER_TIMEOUT (R383, R322): past the tick 2 s after its issue a transfer is retried once, then its
target is unreachable. -/
def execTransferTimeout (id : Nat) (s : State) : Out :=
  match s.eth.transfers.find? (·.id == id) with
  | some p =>
    if p.parked ∨ p.target = 10 ∨ s.time.epoch.toNat ≤ p.issued.toNat + 2000000000 then .next s
    else if p.retried then .next (if p.target = 9 then partnerSilent s p else giveUp s p)
    else
      let s1 := { s with eth := { s.eth with retries := BitVec.ofNat 8 (satAdd 8 s.eth.retries.toNat 1) } }
      .next (sendAgain s1 p true)
  | none => .next s

/-- STORE_RETRY (R383): the target is tried again, with the transfers that have waited for it for 10 s. -/
def execStoreRetry (target : Fin 9) (s : State) : Out :=
  if !s.eth.up then .next s
  else .next ((s.eth.transfers.filter fun t =>
    t.target == target.val && t.parked && decide (t.issued.toNat + 10000000000 ≤ s.time.epoch.toNat)).foldl
      (fun s t => sendAgain s t false) s)

/-! ### The link and the network (R377, R466) -/

/-- Lanes that a mode uses. -/
def modeLanes (eight : Bool) : BitVec 8 := if eight then 0xFF else 0x0F

/-- Transfers that have not run out of time go out on the link that came up; a transfer that waits for its target goes on waiting. -/
def sendWaiting (s : State) : State := (s.eth.transfers.filter fun t => t.target < 9 && !t.parked).foldl issueTransfer s

/-- ETHERNET_LINK_UP (R377, R466): in a mode that uses no lane the self-test found bad. -/
def execEthernetLinkUp (eight : Bool) (s : State) : Out :=
  if !s.pwr.domains.getLsbD 39 ∨ s.eth.up ∨ s.eth.badLanes &&& modeLanes eight ≠ 0 then .next s
  else .next (sendWaiting { s with eth := { s.eth with up := true, mode := if eight then 1 else 2 } })

/-- ETHERNET_LINK_DOWN (R377, R320): DOWNS counts; transfers, renewals and 1588 time stop; a claim not yet made is given
up, a release not delivered abandoned. -/
def execEthernetLinkDown (s : State) : Out :=
  if !s.eth.up then .next s
  else
    let s1 := ethernetOff s
    .next (if s.time.ptp then { s1 with time := { s1.time with holdover := true } } else s1)

/-- ARP_OR_ECHO_REQUEST (R377): a request for the device's static address is answered while the port has its link. -/
def execArpOrEchoRequest (r : NetRequest) (address : BitVec 128) (frame : EthFrame) (s : State) : Out :=
  if !s.eth.up then .next s
  else if badFrame frame then .next (countFrame s)
  else if address.toNat = numAt (network s) 16 16 then .next (send s [.answer r address])
  else .next s

end Sys2Proof.Machine
end

