-- ==== Sys2Proof/Machine/Window.lean ====
section
/-! DEFINITION. The management window as it is read (R8 to R13, R432, and the register tables): the value of every word,
and who may read it (R413, R415). -/

namespace Sys2Proof.Machine

/-! ### Fields to words -/

/-- A word of a byte string that stands at offset base of the window. -/
def wordIn (bs : List Byte) (base off : Nat) : Word := BitVec.ofNat 32 (numAt bs (off - base) 4)

/-- A word of a byte store that stands at offset base of the window. -/
def wordOf (m : Sparse 8) (base off : Nat) : Word := BitVec.ofNat 32 (m.num (off - base) 4)

/-- Bits [31:0] (false) or [63:32] of a value. -/
def half (v : DWord) (hi : Bool) : Word := BitVec.ofNat 32 (if hi then fld v 63 32 else fld v 31 0)

/-! ### Identity and capability record (R432) -/

/-- A word of the identity block, as it was last written. -/
def identityWord (s : State) (off : Nat) : Word :=
  if off < 0x160 then wordIn s.sec.capability 0 off
  else if 0x400 ≤ off ∧ off < 0x484 then wordIn s.sec.idKey 0x400 off
  else if 0x800 ≤ off ∧ off < 0x1000 then wordIn s.sec.cert 0x800 off
  else 0

/-! ### Power and clocks (15, 04) -/

/-- CORE_POSp. -/
def corePosWord (x : Position) : Word :=
  packed [(0, x.state.toNat), (4, x.logical.toNat), (8, x.width), (16, x.cause.toNat), (20, x.uncor.toNat)]

/-- A word of the power and clocks block. -/
def powerWord (s : State) (off : Nat) : Word :=
  let p := s.pwr
  match off with
  | 0x10000 => packed [(0, p.state.toNat), (3, p.busy.toNat), (4, p.intlk.toNat), (5, p.pwrok.toNat)]
  | 0x10004 => packed [(3, p.result.toNat)]
  | 0x10008 => packed [(0, p.pace.toNat), (5, p.pmax.toNat), (10, p.limiter.toNat)]
  | 0x1000C => packed [(0, p.plimit.toNat), (12, p.tthrot.toNat)]
  | 0x10010 => packed [(0, p.avg.toNat), (16, p.peak.toNat)]
  | 0x10014 => packed [(0, p.excurs.toNat), (16, p.longest.toNat)]
  | 0x10018 => BitVec.ofNat 32 (fld p.domains 31 0)
  | 0x1001C => BitVec.ofNat 32 (fld p.domains 39 32)
  | 0x10020 => packed [(0, p.tj.toNat), (8, p.tstack.toNat), (16, p.trips.toNat), (24, p.throt.toNat)]
  | 0x10028 => packed [(0, p.lastWake.toNat), (8, p.wakes.toNat), (16, p.wakeHead.toNat)]
  | _ =>
    if 0x10100 ≤ off ∧ off < 0x10180 then wordOf p.wakeRec 0x10100 off
    else if 0x10200 ≤ off ∧ off < 0x10250 then corePosWord (positionAt s ((off - 0x10200) / 4))
    else 0

/-! ### Counters (16, 05, 08, 09, 11) -/

/-- The fault record's first word. -/
def faultWord (f : FaultRec) : Word :=
  packed [(0, f.code % 256), (8, f.core), (12, f.chip.toNat), (13, f.slot), (16, f.offset), (19, f.more % 256)]

/-- SEQ_COMMIT. -/
def commitWord (s : State) : Word :=
  packed [(0, s.commit.last.toNat), (2, s.commit.sources.toNat), (7, s.commit.limit.toNat), (8, min s.commit.skiprun 255)]

/-- A word of a programmable counter's registers. -/
def counterWord (s : State) (off : Nat) : Word :=
  let n := (off - 0x20000) / 16
  match off % 16 with
  | 0 => s.mon.sel.get n
  | 4 => half (s.mon.val.get n) false
  | 8 => s.mon.valHi.get n
  | _ => 0

/-- A word of the stash counters. -/
def stashWord (s : State) (off : Nat) : Word :=
  let n := (off - 0x2A000) / 16
  match off % 16 with
  | 0 => packed [(0, (s.stash.drops.get n).toNat), (24, (s.stash.orphan.get n).toNat)]
  | 4 => s.stash.spills.get n
  | 8 => (s.stash.peak.get n).setWidth 32
  | _ => 0

/-- A word of the slip logs. -/
def slipWord (s : State) (off : Nat) : Word :=
  let d := off - 0x2C000
  BitVec.ofNat 32 (fld (s.cu.slip.get (d / 1024 * 64 + d % 1024 / 16)) (8 * (d % 16) + 31) (8 * (d % 16)))

/-- A word of the counters block. -/
def countersWord (s : State) (off : Nat) : Word :=
  let m := s.mon
  match off with
  | 0x21000 => half m.beats false
  | 0x21004 => m.beatsHi
  | 0x22000 => packed [(0, m.eyeHead.toNat), (15, m.wrapped.toNat), (16, m.full.toNat)]
  | 0x22004 => m.lost
  | 0x29000 => s.coll.miss
  | 0x29004 => packed [(0, s.coll.lastDesc.toNat), (16, s.coll.lastSlots.toNat)]
  | 0x29008 => packed [(0, s.coll.stale.toNat), (16, s.coll.fenced.toNat), (24, s.coll.mcast.toNat)]
  | 0x2B000 => packed [(0, s.seq.checked.toNat), (1, s.seq.clocked.toNat), (2, s.seq.running.toNat), (3, s.seq.stopped.toNat)]
  | 0x2B004 => faultWord s.seq.fault
  | 0x2B008 => BitVec.ofNat 32 s.seq.fault.bundle
  | 0x2B00C => packed [(0, s.seq.fault.info % 65536), (16, s.seq.fault.aux % 65536)]
  | 0x2B010 => BitVec.ofNat 32 s.seq.fault.other
  | 0x2B100 => half s.seq.step false
  | 0x2B104 => half s.seq.step true
  | 0x2B108 => commitWord s
  | 0x2B10C => s.commit.skips
  | _ =>
    if off < 0x20200 then counterWord s off
    else if off < 0x20220 then m.ranges.get ((off - 0x20200) / 4)
    else if 0x21010 ≤ off ∧ off < 0x21024 then m.holds.get ((off - 0x21010) / 4)
    else if 0x21040 ≤ off ∧ off < 0x21080 then m.coreHolds.get ((off - 0x21040) / 4)
    else if 0x2A000 ≤ off ∧ off < 0x2A400 then stashWord s off
    else if 0x2C000 ≤ off ∧ off < 0x30000 then slipWord s off
    else 0

/-! ### Links (10, 11) -/

/-- The code of a port state (R291). -/
def modeCode : PortMode → Nat
  | .down => 0
  | .train => 1
  | .ident => 2
  | .check => 3
  | .up => 4
  | .mgmt => 5
  | .miswired => 6

/-- The registers of port p. -/
def portWord (s : State) (p reg : Nat) : Word :=
  let q := portOf s p
  match reg with
  | 0x00 => packed [(0, modeCode q.mode), (3, q.version.toNat), (5, q.half.toNat), (6, q.label.toNat), (9, q.remap.toNat),
      (10, (q.mode == .up && portOwned s p).toNat), (16, q.cause.toNat), (20, q.downs.toNat)]
  | 0x04 => match q.peer with
    | some b => packed [(0, b.coord.toNat), (18, b.label.toNat), (21, b.gen.toNat % 4), (23, b.vers.toNat)]
    | none => 0
  | 0x08 => match q.peer with
    | some b => b.fwrev
    | none => 0
  | 0x0C => packed [(0, q.crcErr.toNat), (16, q.replays.toNat)]
  | 0x14 => q.missing.setWidth 32
  | _ => 0

/-- LINK_TIME. -/
def timeWord (s : State) : Word :=
  let t := s.time
  packed [(0, t.parent.toNat), (3, t.ptp.toNat), (4, t.loaded.toNat), (5, t.locked.toNat), (6, t.holdover.toNat),
    (7, t.alarm.toNat), (8, t.stratum.toNat), (16, t.offset.toNat)]

/-- A word of the links block. -/
def linksWord (s : State) (off : Nat) : Word :=
  let t := s.link.topo
  match off with
  | 0x30200 => BitVec.ofNat 32 (numAt t 0 4)
  | 0x30204 => BitVec.ofNat 32 (numAt t 4 4)
  | 0x30208 => packed [(0, topoShare s), (5, s.link.waiting.isSome.toNat), (8, extentOf s 0 - 1), (14, extentOf s 1 - 1),
      (20, extentOf s 2 - 1)]
  | 0x3020C => (myCoord s).setWidth 32
  | 0x30210 => s.link.unreach
  | 0x30300 => half s.time.epoch false
  | 0x30304 => s.time.epochHi
  | 0x30308 => timeWord s
  | 0x3030C => s.time.rate
  | 0x30310 => half s.time.origin false
  | 0x30314 => half s.time.origin true
  | 0x30318 => s.coll.layout
  | 0x3031C => packed [(0, (s.coll.launches.filter (·.registered)).length), (8, outstanding s)]
  | _ => if off < 0x301C0 then portWord s ((off - 0x30000) / 64) (off % 64) else 0

/-! ### Ethernet (13) -/

/-- ETH_LEASE STATE. -/
def leaseCode : LeasePhase → Nat
  | .claimed => 1
  | .confirmed => 2
  | .lapsing => 3
  | .releasing => 4
  | _ => 0

/-- A word of the Ethernet block. -/
def ethernetWord (s : State) (off : Nat) : Word :=
  let e := s.eth
  match off with
  | 0x40000 => packed [(0, e.up.toNat), (1, e.mode.toNat), (3, s.time.ptpSeen.toNat), (8, e.downs.toNat)]
  | 0x40004 => packed [(0, e.uncorr.toNat), (16, e.refused.toNat)]
  | 0x40008 => packed [(0, leaseCode e.phase), (8, if leased s then fld e.owner 63 48 else 0), (24, e.fails.toNat)]
  | 0x4000C => packed [(0, e.feedWaits.toNat),
      (16, min 65535 (e.resident.filter fun u => decide (e.cursor.toNat ≤ u)).length)]
  | 0x40010 => packed [(0, e.reach.toNat), (8, e.retries.toNat)]
  | _ => 0

/-! ### Bank dies (07, 09) and resilience (12) -/

/-- BANK_IMBAL. -/
def imbalWord (s : State) : Word :=
  packed [(0, s.mem.imbal.toNat), (1, s.mem.imbalStack.toNat), (8, s.mem.imbalRatio.toNat), (16, s.mem.imbalWindows.toNat)]

/-- A word of the bank-die block. -/
def bankWord (s : State) (off : Nat) : Word :=
  let m := s.mem
  let b := off % 0x100 / 16
  if off = 0x50000 then m.salt
  else if off = 0x50004 then packed [(0, m.keyIndex.toNat), (4, m.keyPending.toNat), (5, m.autokey.toNat)]
  else if off = 0x50008 then imbalWord s
  else if 0x50100 ≤ off ∧ off < 0x50180 then
    match off % 16 with
    | 0 => packed [(0, (m.ce.get b).toNat), (16, (m.ue.get b).toNat)]
    | 4 => packed [(0, tagsOut s b), (16, (m.tagPeak.get b).toNat)]
    | 8 => m.tagWaits.get b
    | _ => (m.ueAddr.get b).setWidth 32
  else if 0x50200 ≤ off ∧ off < 0x50280 then
    match off % 16 with
    | 0 => packed [(0, (m.optDesc.get b).toNat), (12, (m.optBusy.getLsbD b).toNat), (13, (m.nonfin.getLsbD b).toNat),
        (14, (m.optPass.get b).toNat)]
    | 4 => m.optCount.get b
    | _ => 0
  else 0

/-- A recovery is in progress. -/
def recovering (s : State) : Bool := s.rsl.phase != .idle && s.rsl.phase != .ended

/-- RSL_RECOV. -/
def recovWord (s : State) : Word :=
  packed [(0, s.rsl.last.toNat), (2, (recovering s).toNat), (4, s.rsl.source.toNat), (8, s.rsl.cause.toNat),
    (16, s.rsl.runs.toNat), (24, s.rsl.count.toNat)]

/-- A word of the resilience block. -/
def resilienceWord (s : State) (off : Nat) : Word :=
  let r := s.rsl
  match off with
  | 0x60000 => packed [(0, r.first.toNat), (2, r.sameFeed.toNat), (3, r.policy.toNat), (4, r.plost.toNat),
      (5, r.rngSkew.toNat), (6, r.verifyFail.toNat)]
  | 0x60010 => snapWord (slotAt s 0)
  | 0x60014 => half (slotAt s 0).c false
  | 0x60020 => snapWord (slotAt s 1)
  | 0x60024 => half (slotAt s 1).c false
  | 0x60040 => packed [(0, r.left.length), (21, r.filling.isSome.toNat), (22, (snapBusy s).toNat)]
  | 0x60044 => r.touches
  | 0x60048 => r.defers.setWidth 32
  | 0x6004C => r.flashPages.setWidth 32
  | 0x60050 => recovWord s
  | _ => 0

/-! ### Security (14) -/

/-- A word of the audit window: the entry whose SEQ is BASE + k (R424). -/
def auditWord (s : State) (off : Nat) : Word :=
  let n := s.sec.auditBase + BitVec.ofNat 32 ((off - 0x78000) / 64)
  match s.sec.audit.find? (fun e => half e.seq false == n) with
  | some e => BitVec.ofNat 32 (numAt (auditBytes e) (off % 64) 4)
  | none => 0

/-- A word of the security and life-cycle block. -/
def securityWord (s : State) (off : Nat) : Word :=
  let x := s.sec
  match off with
  | 0x70000 => packed [(0, x.life.toNat), (3, x.bootfail.toNat), (4, x.svn.toNat), (10, x.enrolled.length),
      (14, x.slot.toNat), (15, x.trial.toNat)]
  | 0x70004 => packed [(0, match x.role with | some r => roleCode r | none => 0), (2, x.key.toNat), (4, x.fails.toNat)]
  | 0x7000C => packed [(23, x.result.toNat)]
  | 0x70010 => packed [(1, x.ready.toNat)]
  | 0x70014 => x.auditBase
  | 0x70018 => half x.head false
  | 0x70F00 => packed [(0, x.addr.toNat), (12, x.overflow.toNat)]
  | 0x70F04 => packed [(0, x.align.toNat), (8, x.denied.toNat), (16, x.crcErr.toNat)]
  | _ =>
    if 0x70040 ≤ off ∧ off < 0x70080 then BitVec.ofNat 32 (fld x.nonce (8 * (off - 0x70040) + 31) (8 * (off - 0x70040)))
    else if 0x70080 ≤ off ∧ off < 0x700A0 then x.attNonce.get ((off - 0x70080) / 4)
    else if 0x71000 ≤ off ∧ off < 0x71400 then wordIn x.report 0x71000 off
    else if 0x74000 ≤ off ∧ off < 0x75000 then wordOf x.staging 0x74000 off
    else if 0x78000 ≤ off ∧ off < 0x80000 then auditWord s off
    else 0

/-! ### Self-test (16) -/

/-- The stored analogue set is valid (R465): written by the last entry to Standby, unused, the audit log ended in a seal at the wake, at
most 604,800 s old. -/
def setIsValid (s : State) : Bool :=
  s.mon.setValid && !s.mon.setUsed && (if s.pwr.busy ∧ s.pwr.goal = 2 then s.pwr.orderly else s.sec.sealed) && decide (s.time.epoch.toNat ≤ s.mon.setTick.toNat + 604800 * 1000000000)

/-- Age of the stored set in seconds. -/
def setAge (s : State) : Nat :=
  if s.mon.setValid then satAdd 32 ((s.time.epoch.toNat - s.mon.setTick.toNat) / 1000000000) 0 else 0

/-- A word of the self-test block. -/
def selfTestWord (s : State) (off : Nat) : Word :=
  let m := s.mon
  match off with
  | 0x80000 => packed [(0, (setIsValid s).toNat), (1, m.running.toNat), (2, m.quick.toNat), (8, m.bistFails.toNat)]
  | 0x80004 => BitVec.ofNat 32 (setAge s)
  | 0x80008 => packed [(3, m.bistResult.toNat)]
  | _ =>
    if 0x80104 ≤ off ∧ off < 0x8012C then m.results.get ((off - 0x80100) / 4)
    else if 0x81000 ≤ off ∧ off < 0x82000 then wordOf m.failLog 0x81000 off
    else 0

/-! ### The whole window -/

/-- The word at an aligned offset (R13: what the map does not assign reads zero). -/
def windowWord (s : State) (off : Nat) : Word :=
  if off < 0x1000 then identityWord s off
  else if off < 0x1100 then wordIn s.eth.status 0x1000 off
  else if off < 0x10000 then 0
  else if off < 0x20000 then powerWord s off
  else if off < 0x30000 then countersWord s off
  else if off < 0x40000 then linksWord s off
  else if off < 0x50000 then ethernetWord s off
  else if off < 0x60000 then bankWord s off
  else if off < 0x70000 then resilienceWord s off
  else if off < 0x80000 then securityWord s off
  else if off < 0x90000 then selfTestWord s off
  else if 0x100000 ≤ off ∧ off < 0x200000 then wordOf s.mon.eye 0x100000 off
  else 0

/-- A role may read an offset (R413). The security block outside the audit log is read by every role (DEDUCED 38). -/
def roleReads (r : Role) (off : Nat) : Bool :=
  if off < 0x20000 then true
  else if off < 0x30000 then r != .installer
  else if off < 0x50000 then true
  else if off < 0x70000 then r != .installer
  else if 0x78000 ≤ off ∧ off < 0x80000 then r != .operator
  else if 0x100000 ≤ off ∧ off < 0x200000 then r != .installer
  else true

/-- A role that acts in the life-cycle state (R413). -/
def roleActs (s : State) (r : Role) : Bool := r != .device && (r != .maker || makerState s)

/-- A chain read of an offset is served (R413, R415). -/
def chainReads (s : State) (off : Nat) : Bool :=
  decide (off < 0x2000) || s.sec.life == 0 || s.sec.role.any fun r => roleActs s r && roleReads r off

/-- What a read changes: the words that latch (R314, R454, R457). -/
def latchRead (s : State) (off : Nat) : State :=
  if off = 0x30300 then { s with time := { s.time with epochHi := half s.time.epoch true } }
  else if off = 0x21000 then { s with mon := { s.mon with beatsHi := half s.mon.beats true } }
  else if 0x20000 ≤ off ∧ off < 0x20200 ∧ off % 16 = 4 then
    let n := (off - 0x20000) / 16
    { s with mon := { s.mon with valHi := s.mon.valHi.set n (half (s.mon.val.get n) true) } }
  else s

end Sys2Proof.Machine
end

