-- ==== Sys2Proof/Machine/Power.lean ====
section
/-! DEFINITION. Power states (R435 to R444), the interlock and losses of supply (R28, R29, R448, R450, R477, R478), pace
control (R447), and Cowslip (R464 to R467). -/

namespace Sys2Proof.Machine

/-! ### Cowslip -/

/-- BIST_RESULTt of a test that ran: its first failing unit and their number. -/
def testResult (units : List Nat) : Word :=
  match units with
  | [] => 1
  | u :: _ => packed [(0, 2), (2, u % 1024), (12, min units.eraseDups.length 255)]

/-- Failing units of test t. -/
def failingUnits (failed : List (Nat × Nat)) (t : Nat) : List Nat := (failed.filter fun x => x.1 == t).map (·.2)

/-- A result says fail. -/
def resultFails (w : Word) : Bool := fld w 1 0 == 2

/-- The shutdown tests (R464): one stored result each, and a stored set that has served nothing. -/
def shutdownTests (s : State) (failed : List (Nat × Nat)) : State :=
  let rs := (List.range 5).map fun i => testResult (failingUnits failed (i + 1))
  { s with mon := { s.mon with
      stored := Sparse.setList [] 1 rs, results := s.mon.results.setList 1 rs, setValid := true, setUsed := false
      setTick := s.time.epoch, bistFails := BitVec.ofNat 8 (rs.filter resultFails).length } }

/-- The result of analogue test t at stage 4 (R465): taken from a valid stored set that holds a pass, else run. -/
def stageResult (s : State) (failed : List (Nat × Nat)) (t : Nat) : Word :=
  if setIsValid s ∧ s.mon.stored.get t = 1 then 3 else testResult (failingUnits failed t)

/-- Failing units that stage 4 acts on: those of tests it ran. -/
def actedOn (s : State) (failed : List (Nat × Nat)) : List (Nat × Nat) :=
  failed.filter fun x => stageResult s failed x.1 != 3

/-- A wake that a domain fails (R440): the domain stays off and the failure is recorded, under the source of the wake (R452). A core
position is Fenced; another domain leaves the device in the state it was woken from, or in Standby if that state needs the domain;
that entry runs no test and leaves no stored set (R465). -/
def failDomain (s : State) (d : Nat) : State :=
  let keep := stateDomains s s.pwr.state.toNat
  let target := if d < 20 then s.pwr.goal.toNat else if keep.getLsbD d then 4 else s.pwr.state.toNat
  let s0 := wakeEntry s s.pwr.source.toNat target d false true
  let s1 := { s0 with pwr := { s0.pwr with lastWake := s.pwr.lastWake } }
  let s2 := switchOff s1 (domainMask [d])
  if d < 20 then
    let pos := positionAt s d
    let s3 := if pos.state = 1 ∨ pos.state = 2 then fencePosition s2 d 5
      else setPosition s2 d fun q => { q with state := 3, cause := 5 }
    wakeDone (refreshRails s3)
  else
    let s3 := { s2 with pwr := { s2.pwr with waking := [], busy := false, mgmtOnly := false } }
    if keep.getLsbD d then
      let s4 := switchOff (loseCommitted s3) (domainRange 0 39)
      lower (auditSeal { s4 with mon := { s4.mon with setValid := false } }) 4
    else switchOff s3 (~~~keep)

/-- What the failing analogue units of stage 4 bring (R466): lane groups and Ethernet lanes out of use, domains that fail to
wake, thermal sensors whose readings are replaced, PMAX held to 12 while a voltage monitor fails. -/
def analogueOutcome (s : State) (acted : List (Nat × Nat)) : State :=
  let lanes := failingUnits acted 1
  let groups := fun (p : Nat) => (lanes.filter fun u => u / 32 == p && decide (u < 224)).foldl
    (fun (m : BitVec 4) u => putFlag m (u % 32 / 8) true) 0
  let eth := (lanes.filter fun u => decide (224 ≤ u)).foldl (fun (m : BitVec 8) u => putFlag m (u - 224) true) 0
  let s1 := { s with
    link := { s.link with ports := s.link.ports.mapIdx fun p q => { q with badGroups := groups p } }
    eth := { s.eth with badLanes := eth }
    mon := { s.mon with monitorCap := !(failingUnits acted 4).isEmpty, badSensors := failingUnits acted 3 } }
  let off := failingUnits acted 2 ++ (failingUnits acted 5).map fun u => 24 + u / 32 / 3
  off.eraseDups.foldl failDomain s1

/-- Stage 4's tests (R465): each result, the digital tests among them, whether the stored set served, then the outcomes. -/
def stageTests (s : State) (r : StageReport) : State :=
  let analogue := (List.range 5).map fun i => stageResult s r.failed (i + 1)
  let columns := (List.range 20).filter fun p => r.badCols.getD p 0 != 0
  let memories := (List.range 20).filter fun p => !r.memOk.getLsbD p
  let rs := analogue ++ [testResult columns, testResult memories]
  let served := analogue.any (· == 3)
  let s1 := { s with mon := { s.mon with
    results := s.mon.results.setList 1 rs, quick := analogue.all (· == 3), setUsed := s.mon.setUsed || served
    bistFails := BitVec.ofNat 8 (rs.filter resultFails).length } }
  analogueOutcome s1 (actedOn s r.failed)

/-- FULL (R467): a maker session in the Maker or Returned state starts the run; anything else is refused. -/
def fullWrite (s : State) : State := { s with mon := { s.mon with running := true, bistResult := 1 } }

/-- FULL. -/
def execFull (s : State) : Out :=
  if sessionIs s .maker then .next (fullWrite s)
  else
    let s1 := denyWrite s 0x80008 1
    .next { s1 with mon := { s1.mon with bistResult := 2 } }

/-- An entry of the failure log: test code, unit, margin step. -/
def failEntry (x : Nat × Nat × Nat) : List Byte := leBytes 2 x.1 ++ leBytes 2 x.2.1 ++ leBytes 4 x.2.2

/-- The last test that a full run reaches: the run stops at 512 entries. -/
def lastReached (failed : List (Nat × Nat × Nat)) : Nat :=
  if 512 ≤ failed.length then (((failed.take 512).getLast?).map (·.1)).getD 10 else 10

/-- The results of a full run (R467): tests 0x1 to 0xA, those that it did not reach not run. -/
def fullResults (failed : List (Nat × Nat × Nat)) : List Word :=
  let l := (failed.take 512).map fun x => (x.1, x.2.1)
  (List.range 10).map fun i => if i + 1 ≤ lastReached failed then testResult (failingUnits l (i + 1)) else 0

/-- FULL_COMPLETE (R467): the results of tests 0x1 to 0xA and the failure log. -/
def execFullComplete (failed : List (Nat × Nat × Nat)) (s : State) : Out :=
  if s.mon.running then
    .next { s with mon := { s.mon with
      running := false, bistResult := 0, results := Sparse.setList [] 1 (fullResults failed)
      failLog := Sparse.setList [] 0 ((failed.take 512).flatMap failEntry)
      bistFails := BitVec.ofNat 8 ((fullResults failed).filter resultFails).length } }
  else .next s

/-- The stored set is invalidated (R465). -/
def invalidateWrite (s : State) : State := { s with mon := { s.mon with setValid := false, bistResult := 0 } }

/-- INVALIDATE: a maker session (R413). -/
def execInvalidate (s : State) : Out :=
  if sessionIs s .maker then .next (invalidateWrite s) else .next (denyWrite s 0x80008 2)

/-! ### Commands of PWR_CMD (R436, R437, R441) -/

/-- A session that writes the power and clocks block (R413). -/
def powerRight (s : State) : Bool := sessionIs s .installer || sessionIs s .maker

/-- RESULT of PWR_CMD. -/
def pwrResult (s : State) (r : Nat) : State := { s with pwr := { s.pwr with result := BitVec.ofNat 2 r } }

/-- Domains that Retention keeps. -/
def retentionDomains : BitVec 40 := domainRange 24 31 ||| domainRange 39 39

/-- Idle to Retention; a claim that has not been made is given up. -/
def enterRetention (s : State) : State := lower (switchOff (endClaim s) (~~~retentionDomains)) 3

/-- RETAIN: refused under a lease. -/
def retainWrite (s : State) : State :=
  if leased s then pwrResult s 2
  else if s.pwr.state = 2 ∧ !s.pwr.busy then pwrResult (enterRetention s) 1
  else s

/-- RETAIN (R436, R437). -/
def execRetain (s : State) : Out :=
  if powerRight s then .next (retainWrite s) else .next (denyWrite s 0x10004 1)

/-- STANDBY: the tests, the seal, every domain off (R437); refused under a lease. -/
def standbyWrite (s : State) (failed : List (Nat × Nat)) : State :=
  if leased s then pwrResult s 2
  else if (s.pwr.state = 2 ∨ s.pwr.state = 3) ∧ !s.pwr.busy then
    pwrResult (lower (switchOff (loseCommitted (auditSeal (shutdownTests (endClaim s) failed))) (domainRange 0 39)) 4) 1
  else s

/-- STANDBY (R437). -/
def execStandby (failed : List (Nat × Nat)) (s : State) : Out :=
  if powerRight s then .next (standbyWrite s failed) else .next (denyWrite s 0x10004 2)

/-- SHUTDOWN: as STANDBY, then the power-off-ready output. -/
def shutdownWrite (s : State) (failed : List (Nat × Nat)) : State :=
  let t := standbyWrite s failed
  if t.pwr.busy ∧ !s.pwr.busy then { t with pwr := { t.pwr with pwrok := true } } else t

/-- SHUTDOWN (R437). -/
def execShutdown (failed : List (Nat × Nat)) (s : State) : Out :=
  if powerRight s then .next (shutdownWrite s failed) else .next (denyWrite s 0x10004 3)

/-- WAKE (R441): an installer command. -/
def wakeWrite (s : State) : State := wakeSource s 6 0 true true

/-- WAKE. -/
def execWake (s : State) : Out :=
  if powerRight s then .next (wakeWrite s) else .next (denyWrite s 0x10004 4)

/-- The wake pattern is sent on the ports named that the map enables and whose domains are on (R294, R442). -/
def wakeSendWrite (s : State) (ports : BitVec 7) : State :=
  let sends := fun (p : Nat) => ports.getLsbD p && s.pwr.domains.getLsbD (32 + p) && mapEnabled s.link.topo p
  send s (((List.range 7).filter sends).map OutMsg.wakePattern)

/-- WAKE_SEND (R442): PWR_WAKESEND. -/
def execWakeSend (ports : BitVec 7) (s : State) : Out :=
  if powerRight s then .next (wakeSendWrite s ports) else .next (denyWrite s 0x10024 ports.toNat)

/-- SPEEDWELL_WAKE_PATTERN (R441, R442). -/
def execSpeedwellWakePattern (port : Fin 7) (s : State) : Out := .next (wakeSource s 1 port true true)

/-- ETHERNET_WAKE_PATTERN (R441, R442): from Standby. -/
def execEthernetWakePattern (s : State) : Out := .next (wakeSource s 3 0 false true)

/-- RETIDLE_EXPIRY (R436, R451): RETIDLE seconds in Idle without a lease. -/
def execRetidleExpiry (s : State) : Out :=
  if s.pwr.state = 2 ∧ !s.pwr.busy ∧ s.eth.phase = .none ∧ s.pwr.retidle ≠ 0 then .next (enterRetention s) else .next s

/-- DOMAIN_WAKE_FAIL (R440): a ready signal is missing past its bound. -/
def execDomainWakeFail (domain : Fin 40) (s : State) : Out :=
  if (wakingNow s.pwr.waking).any fun x => x.1 == domain.val then .next (failDomain s domain) else .next s

/-- MGMT_DOMAIN_IDLE_OFF (R444): 10 s without management traffic. -/
def execMgmtDomainIdleOff (s : State) : Out :=
  if s.pwr.mgmtOnly then
    let s1 := switchOff s (domainRange 32 39)
    .next { s1 with pwr := { s1.pwr with mgmtOnly := false, busy := false } }
  else .next s

/-! ### Interlock, trips and supplies -/

/-- A boot that has not reached stage 8 waits for the interlock again. -/
def backToInterlock (s : State) : State :=
  if 4 ≤ s.sec.stage ∧ s.sec.stage < 8 then { s with sec := { s.sec with stage := 3 } } else s

/-- Something is on, or wakes, besides the always-on domain. -/
def anythingOn (s : State) : Bool := s.pwr.domains != 0 || s.pwr.busy || s.pwr.state != 4

/-- The interlock stop (R29, R450): recorded in the wake record and the audit log. With nothing on, there is nothing to stop. -/
def interlockStop (s : State) : State :=
  let s1 := audit { s with pwr := { s.pwr with intlk := false } } 0x51 .device .internal s.pwr.state.toNat 0
  if anythingOn s then
    backToInterlock (forcedStandby { s1 with pwr := { s1.pwr with intlkStop := true } } 0x10)
  else s1

/-- INTERLOCK_LOSS (R450): low for 1 µs. -/
def execInterlockLoss (s : State) : Out := if s.pwr.intlk then .next (interlockStop s) else .next s

/-- POWER_GOOD_FALL (R477): treated as a loss of the interlock while a domain on the rail is on. -/
def execPowerGoodFall (rail : Rail) (s : State) : Out :=
  if s.pwr.domains &&& railDomains rail ≠ 0 then .next (interlockStop s) else .next s

/-- The junctions are cool enough for wake source 0x07 (R448). -/
def coolEnough (s : State) : Bool := !s.pwr.tripped || decide (s.pwr.tj.toNat + 10 < s.pwr.tthrot.toNat)

/-- Wake source 0x07 (R441): the interlock asserted after an interlock stop or a thermal trip. -/
def interlockWake (s : State) : State :=
  if (s.pwr.intlkStop ∨ s.pwr.tripped) ∧ s.pwr.intlk ∧ coolEnough s then wakeSource s 7 0 false true else s

/-- The core positions are untested again, and the compute domains begin to wake (stage 4 of R409). -/
def beginStageFour (s : State) : State :=
  let s0 := switchOff s (domainRange 0 39)
  let s1 := { s0 with
    sec := { s0.sec with stage := 4 }
    pwr := { s0.pwr with
      positions := List.replicate 20 Position.reset, capable := [], tripped := false, intlkStop := false, pwrok := false
      source := 0, sources := [] } }
  beginWake s1 4 (domainRange 0 31)

/-- Stage 3 ends with the interlock (R28, R409); a Returned device stays there (R412). -/
def continueBoot (s : State) : State :=
  if s.sec.stage = 3 ∧ s.sec.life ≠ 4 ∧ s.pwr.intlk ∧ coolEnough s ∧ !lowering s then beginStageFour s else s

/-- The die of a logic sensor, by the domain index that numbers it (R20, R464): the compute die, a bank die, a link die. -/
def sensorDie (u : Nat) : Nat := if u < 24 then 0 else if u < 32 then u - 23 else if u < 35 ∨ u = 39 then 9 else 10

/-- What logic sensor u is taken to read: a failed one, the hottest other sensor of its die plus 5 °C (R466). -/
def logicReading (s : State) (l : List (BitVec 8)) (u : Nat) : Nat :=
  if s.mon.badSensors.contains u then
    let others := (List.range l.length).filter fun v =>
      v != u && sensorDie v == sensorDie u && !s.mon.badSensors.contains v
    if others = [] then (Config.sensorOpen s.uptime u).toNat
    else min 255 (others.foldl (fun n v => max n (l.getD v 0).toNat) 0 + 5)
  else (l.getD u 0).toNat

/-- The hottest logic junction (R448). -/
def hottestLogic (s : State) (l : List (BitVec 8)) : BitVec 8 :=
  BitVec.ofNat 8 ((List.range l.length).foldl (fun n u => max n (logicReading s l u)) 0)

/-- The hottest HBM stack: the reading of a failed stack sensor is its bank die's plus 10 °C (R466). -/
def hottestStack (s : State) (l hbm : List (BitVec 8)) : BitVec 8 :=
  BitVec.ofNat 8 (hbm.zipIdx.foldl (fun n x =>
    max n (if s.mon.badSensors.contains (64 + x.2) then min 255 (logicReading s l (24 + x.2 / 3) + 10) else x.1.toNat)) 0)

/-- The device trips, or goes on from a trip that has cooled (R448). -/
def thermalEffect (s : State) : State :=
  if (105 ≤ s.pwr.tj.toNat ∨ 100 ≤ s.pwr.tstack.toNat) ∧ anythingOn s then
    let s1 := { s with pwr := { s.pwr with tripped := true, trips := BitVec.ofNat 8 (satAdd 8 s.pwr.trips.toNat 1) } }
    backToInterlock (forcedStandby s1 0x11)
  else if s.pwr.tripped then continueBoot (interlockWake s)
  else s

/-- THERMAL_READING (R448, R466): the logic sensors by domain index, the stack sensors by stack. A junction at 105 °C or a stack at
100 °C trips the device while its domains are on. -/
def execThermalReading (logic hbm : List (BitVec 8)) (s : State) : Out :=
  .next (thermalEffect { s with pwr := { s.pwr with tj := hottestLogic s logic, tstack := hottestStack s logic hbm } })

/-- Off: what the fuses, the boot flash and local flash hold is kept, and what the partner holds for this device; the rest
starts as at the supply's first rise. A supply lost while the power-off-ready output is low leaves the audit log unsealed (R478). -/
def powerOff (s : State) : State :=
  { State.reset with
    pending := s.pending, uptime := s.uptime, drawn := s.drawn, outbox := s.outbox
    sec := { Sec.reset with
      life := s.sec.life, svn := s.sec.svn, enrolled := s.sec.enrolled, nor := s.sec.nor, idDraw := s.sec.idDraw
      audit := s.sec.audit, head := s.sec.head, lastSeal := s.sec.lastSeal, sealed := s.sec.sealed && s.pwr.pwrok
      opsVoid := s.sec.opsVoid, slotBad := s.sec.slotBad }
    rsl := { Rsl.reset with flash := s.rsl.flash, remote := s.rsl.remote } }

/-- REFERENCE_LOSS (R438): as the loss of the always-on supply. -/
def execReferenceLoss (s : State) : Out := .next (powerOff s)

/-- ALWAYS_ON_LOSS (R478). -/
def execAlwaysOnLoss (s : State) : Out := .next (powerOff s)

/-! ### Pace control (R447) -/

/-- Set the pace with the rule that lowered it; a running device is Active at 16/16 and Paced below. -/
def setPace (s : State) (p : Nat) (rule : Nat) : State :=
  { s with pwr := { s.pwr with
      pace := BitVec.ofNat 5 p
      limiter := if p < s.pwr.pace.toNat then BitVec.ofNat 3 rule else s.pwr.limiter
      state := if s.pwr.state.toNat ≤ 1 then (if p = 16 then 0 else 1) else s.pwr.state } }

/-- The µs of the epoch counter. -/
def epochMicro (s : State) : DWord := BitVec.ofNat 64 (s.time.epoch.toNat / 1000)

/-- The pace that the other rule started from, where it has acted in the same µs: then both start from it, and the lowest pace they give
stands (R447). -/
def paceShared (s : State) (decision : Bool) : Option (BitVec 5) :=
  s.pwr.paceLast.bind fun x => if x.1 = epochMicro s ∧ x.2.1 ≠ decision then some x.2.2 else none

/-- A rule gives a pace, from the one it started from. -/
def givePace (s : State) (decision : Bool) (p rule : Nat) : State :=
  let other := paceShared s decision
  let s1 := setPace s (if other.isSome then min s.pwr.pace.toNat p else p) rule
  { s1 with pwr := { s1.pwr with paceLast := if other.isSome then none else some (epochMicro s, decision, s.pwr.pace) } }

/-- PACE_FAST_CHECK (R447): one 1-µs sample; the fast limit, then the excursion limit. -/
def execPaceFastCheck (watts : Nat) (s : State) : Out :=
  let p := ((paceShared s false).getD s.pwr.pace).toNat
  let halve : Bool := decide (2900 ≤ watts) && decide (100 ≤ s.pwr.sinceHalf)
  let p1 := if halve = true then max 1 (p / 2) else p
  let exc := if 2600 < watts then s.pwr.excursion + 1 else 0
  let p2 := if 8000 ≤ exc then min p1 8 else p1
  let s1 := { s with pwr := { s.pwr with
    sinceHalf := if halve = true then 1 else min 100 (s.pwr.sinceHalf + 1)
    excursion := exc
    excurs := if exc = 1 then BitVec.ofNat 16 (satAdd 16 s.pwr.excurs.toNat 1) else s.pwr.excurs
    longest := BitVec.ofNat 16 (max s.pwr.longest.toNat (min exc 65535))
    peak := BitVec.ofNat 16 (max s.pwr.peak.toNat (min watts 65535))
    sum := s.pwr.sum + watts, samples := s.pwr.samples + 1 } }
  .next (givePace s1 false p2 (if p2 < p1 then 2 else 1))

/-- PACE_DECISION (R447): the slow limit and the thermal throttle, or one step up; never above PMAX. -/
def execPaceDecision (s : State) : Out :=
  let x := s.pwr
  let n := max 1 x.samples
  let p := ((paceShared s true).getD x.pace).toNat
  let slow : Bool := decide (n * x.plimit.toNat < x.sum)
  let hot : Bool := decide (x.tthrot.toNat ≤ x.tj.toNat) || decide (90 ≤ x.tstack.toNat)
  let room : Bool := decide (x.sum + n * 100 ≤ n * x.plimit.toNat) && decide (x.tj.toNat + 2 < x.tthrot.toNat) &&
    decide (x.tstack.toNat < 88) && decide (p < pmaxNow s)
  let p1 := if (slow || hot) = true then max 1 (p - 1) else if room = true then p + 1 else p
  let p2 := min p1 (pmaxNow s)
  let rule := if p2 < p1 then 5 else if slow = true then 3 else 4
  let s1 := { s with pwr := { s.pwr with
    avg := BitVec.ofNat 16 (min (x.sum / n) 65535), sum := 0, samples := 0
    throt := hot && !slow && decide (p1 < p) } }
  .next (givePace s1 true (max 1 p2) rule)

end Sys2Proof.Machine
end

