-- ==== Sys2Proof/Machine/Boot.lean ====
section
/-! DEFINITION. The boot flash and the boot (R397 to R409): boot control, the checks of a Hetin record and its acceptance
(R404, R410, R411), slots and updates (R405 to R407), the stages up to Ready, the mapping of positions (R132). -/

namespace Sys2Proof.Machine

/-! ### Boot control (R397, R398) -/

/-- First byte of a slot (false A, true B). -/
def slotBase (b : Bool) : Nat := if b then 0x3800000 else 0

/-- Bytes of a slot. -/
def slotSize : Nat := 0x3800000

/-- A boot-control copy. -/
def controlCopy (s : State) (k : Nat) : List Byte := s.sec.nor.getList (0x7F00000 + 0x80000 * k) 64

/-- The copy's CRC matches. -/
def controlValid (c : List Byte) : Bool := numAt c 60 4 == (crc32 (bytesAt c 0 60)).toNat

/-- The governing copy: the valid one of the greater BCSEQ. -/
def governing (s : State) : Option Nat :=
  let a := controlCopy s 0
  let b := controlCopy s 1
  match controlValid a, controlValid b with
  | false, false => none
  | true, false => some 0
  | false, true => some 1
  | true, true => if numAt a 0 8 < numAt b 0 8 then some 1 else some 0

/-- A number of the governing block; zero where neither copy is valid. -/
def controlNum (s : State) (off n : Nat) : Nat := match governing s with
  | some k => numAt (controlCopy s k) off n
  | none => 0

/-- ACTIVE: true names slot B. -/
def bootActive (s : State) : Bool := controlNum s 8 1 == 1

/-- TRIAL. -/
def bootTrial (s : State) : Nat := controlNum s 9 1

/-- Write a change of boot control into the copy that does not govern. -/
def writeControl (s : State) (active : Bool) (trial : Nat) : State :=
  let k := match governing s with
    | some k => 1 - k
    | none => 0
  let body := leBytes 8 (controlNum s 0 8 + 1) ++ [BitVec.ofNat 8 active.toNat, BitVec.ofNat 8 trial] ++ List.replicate 50 0
  let block := body ++ leBytes 4 (crc32 body).toNat
  { s with sec := { s.sec with nor := s.sec.nor.setList (0x7F00000 + 0x80000 * k) block } }

/-! ### The checks of a record (R399 to R404, R451, R348, R220) -/

/-- The record that a slot holds: its first 320 bytes, and all of it where the header gives a length that fits. -/
def slotRecord (s : State) (b : Bool) : List Byte :=
  let h := s.sec.nor.getList (slotBase b) 320
  if numAt h 0 4 = 0x4E544548 ∧ numAt h 8 4 ≤ slotSize then s.sec.nor.getList (slotBase b) (numAt h 8 4) else h

/-- Directory entry e of a record: type, offset, size. -/
def dirEntry (r : List Byte) (e : Nat) : Nat × Nat × Nat :=
  (numAt r (64 + 16 * e) 2, numAt r (64 + 16 * e + 4) 4, numAt r (64 + 16 * e + 8) 4)

/-- The used directory entries. -/
def dirUsed (r : List Byte) : List (Nat × Nat × Nat) := ((List.range 16).map (dirEntry r)).filter fun e => e.1 != 0

/-- The section directory: each type of R400 once, sections aligned, between header and signature, apart from each
other; unused entries and reserved bytes zero. -/
def recordDirectoryOk (r : List Byte) : Bool :=
  let used := dirUsed r
  let len := numAt r 8 4
  ((List.range 16).all fun e =>
    zeroAt r (64 + 16 * e + 2) (64 + 16 * e + 3) && zeroAt r (64 + 16 * e + 12) (64 + 16 * e + 15) &&
      (numAt r (64 + 16 * e) 2 != 0 || zeroAt r (64 + 16 * e) (64 + 16 * e + 15))) &&
    used.length == 7 && ((List.range 7).all fun t => used.any fun e => e.1 == t + 1) &&
    used.all fun e =>
      e.2.1 % 64 == 0 && decide (320 ≤ e.2.1) && decide (e.2.1 + e.2.2 + 132 ≤ len) &&
        used.all fun o => o.1 == e.1 || decide (o.2.1 + o.2.2 ≤ e.2.1) || decide (e.2.1 + e.2.2 ≤ o.2.1)

/-- The firmware section (R401). -/
def firmwareOk (x : List Byte) : Bool := decide (numAt x 4 1 ≤ 63) && x.length == 196 + numAt x 8 4

/-- The keys section (R402). -/
def keysOk (x : List Byte) : Bool :=
  let n := numAt x 132 1
  x.length == 832 && decide (n ≤ 4) && zeroAt x 133 135 && allZero (bytesAt x (136 + 132 * n) (132 * (4 - n))) && zeroAt x 796 831

/-- The topology section (R400, R310, R311). -/
def recordTopologyOk (x r : List Byte) : Bool := x.length == 60 && bytesAt x 8 16 == bytesAt r 16 16 && mapOk x

/-- The resilience section (R348). -/
def recordResilienceOk (x : List Byte) : Bool :=
  x.length == 32 && decide (numAt x 0 3 < 262144) && decide (numAt x 3 1 ≤ 1) && decide (numAt x 8 1 ≤ 1) && zeroAt x 9 15 &&
    decide (numAt x 20 4 ≤ 524288) && zeroAt x 28 31

/-- The memory section: salts of R220 and AUTOKEY. -/
def memoryOk (x : List Byte) : Bool :=
  x.length == 128 && ((List.range 16).all fun i => decide (numAt x (4 * i) 4 < 2 ^ 23)) && decide (numAt x 64 1 ≤ 1) &&
    zeroAt x 65 127

/-- An address field: an IPv4 address leaves its last 12 bytes zero. -/
def addressOk (x : List Byte) (off : Nat) : Bool := (numAt x 8 1).testBit 0 || zeroAt x (off + 4) (off + 15)

/-- The network section (R403). -/
def networkOk (x : List Byte) : Bool :=
  let target := fun (i : Nat) =>
    let o := 96 + 256 * i
    addressOk x o && zeroAt x (o + 18) (o + 31) && (bytesAt x (o + 32) 224).contains 0
  let access := fun (i : Nat) =>
    let o := 2144 + 32 * i
    addressOk x o && decide (numAt x (o + 20) 1 ≤ 3) && zeroAt x (o + 21) (o + 31)
  x.length == 2656 && zeroAt x 6 7 && decide (numAt x 8 1 ≤ 7) && decide (numAt x 9 1 ≤ 7) && decide (numAt x 10 1 < 64) &&
    decide (numAt x 12 2 < 4096) && zeroAt x 14 15 && zeroAt x 33 47 && zeroAt x 92 95 && addressOk x 16 && addressOk x 48 &&
    addressOk x 64 && ((List.range 8).all target) && (List.range 16).all access

/-- The power section (R451). -/
def powerOk (x : List Byte) : Bool :=
  let within := fun (lo v hi : Nat) => decide (lo ≤ v) && decide (v ≤ hi)
  x.length == 32 && within 1000 (numAt x 0 2) 2600 && within 1 (numAt x 2 1) 16 && within 85 (numAt x 3 1) 100 && zeroAt x 8 31

/-- Check 1 of R404: the form of header, directory and sections. -/
def recordForm (r : List Byte) : Bool :=
  let sec := recordSection r
  numAt r 0 4 == 0x4E544548 && numAt r 4 2 == 1 && numAt r 6 2 == 7 && decide (numAt r 8 4 ≤ slotSize) &&
    decide (452 ≤ numAt r 8 4) && zeroAt r 12 15 && zeroAt r 40 63 && recordDirectoryOk r && firmwareOk (sec 1) && keysOk (sec 2) &&
    recordTopologyOk (sec 3) r && recordResilienceOk (sec 4) && memoryOk (sec 5) && networkOk (sec 6) && powerOk (sec 7)

/-- INSTKEY of a record. -/
def recordKey (r : List Byte) : List Byte := bytesAt (recordSection r 2) 0 132

/-- The enrolled installer key: the key of the record in force or of a slot whose hash is the newest enrolled. -/
def enrolledKey (s : State) : Option (List Byte) :=
  [recordKey s.sec.record, recordKey (slotRecord s false), recordKey (slotRecord s true)].find? fun k =>
    s.sec.enrolled.getLast? == some (Config.sha512 k)

/-- The record's key is the newest enrolled. -/
def keyEnrolled (s : State) (r : List Byte) : Bool := s.sec.enrolled.getLast? == some (Config.sha512 (recordKey r))

/-- Check 3 of R404: the installer key, by life-cycle state. -/
def recordKeyOk (s : State) (r : List Byte) : Bool :=
  match s.sec.life.toNat with
  | 2 => true
  | 3 =>
    keyEnrolled s r || (decide (s.sec.enrolled.length < 8) && match enrolledKey s with
      | some k => Config.ecdsaVerify k (Config.sha512 (recordKey r)) (bytesAt (recordSection r 2) 664 132)
      | none => false)
  | _ => Config.sha512 (recordKey r) == Config.sha512 Config.makerKey

/-- Check 4: the installer signature of R399. -/
def recordSigned (r : List Byte) : Bool :=
  let n := numAt r 8 4 - 132
  Config.ecdsaVerify (recordKey r) (Config.sha512 (bytesAt r 0 n)) (bytesAt r n 132)

/-- Check 5: the firmware signature of R401, and SVN at least the floor. -/
def firmwareSigned (s : State) (r : List Byte) : Bool :=
  let x := recordSection r 1
  let n := 64 + numAt x 8 4
  Config.ecdsaVerify Config.firmwareKey (Config.sha512 (bytesAt x 0 n)) (bytesAt x n 132) && decide (s.sec.svn.toNat ≤ numAt x 4 1)

/-- The first check of R404 that a record fails; zero where it passes. -/
def recordCheck (s : State) (r : List Byte) : Nat :=
  if !recordForm r then 1
  else if numAt r 16 16 ≠ Config.serial.toNat then 2
  else if !recordKeyOk s r then 3
  else if !recordSigned r then 4
  else if !firmwareSigned s r then 5
  else 0

/-- The validity mark of a slot (R16, R405). -/
def markSlot (s : State) (b bad : Bool) : State :=
  { s with sec := { s.sec with slotBad := putFlag s.sec.slotBad b.toNat bad } }

/-- What an accepted record does to the life cycle (R410, R411): the first one in Sealed enrols its key and enters Field; a
rotation burns the next entry. -/
def acceptRecord (s : State) (r : List Byte) (path : Path) : State :=
  let h := Config.sha512 (recordKey r)
  if s.sec.life = 2 then
    let s1 := { s with sec := { s.sec with enrolled := [h], life := 3 } }
    audit (audit s1 0x11 .installer path 0 0) 0x10 .installer path 0 3
  else if s.sec.life = 3 ∧ !keyEnrolled s r then
    audit { s with sec := { s.sec with enrolled := s.sec.enrolled ++ [h] } } 0x11 .installer path 0 s.sec.enrolled.length
  else s

/-! ### PROGRAM, COMMIT, REBOOT (R405, R406) -/

/-- A session that writes Hetin slots, commits and reboots (R413). -/
def updateRight (s : State) : Bool := sessionIs s .installer || sessionIs s .maker

/-- RESULT of SEC_UPDATE. -/
def updateResult (s : State) (n : Nat) : State := { s with sec := { s.sec with result := BitVec.ofNat 3 n } }

/-- A chunk of the staging window goes into the slot that ACTIVE does not name; a pending trial is cleared first. -/
def programWrite (s : State) (chunk : Nat) : State :=
  if 14335 < chunk then s
  else
    let s1 := if bootTrial s = 1 then writeControl s (bootActive s) 0 else s
    let other := !bootActive s1
    let s2 := { s1 with sec := { s1.sec with
      nor := s1.sec.nor.setList (slotBase other + 4096 * chunk) (s1.sec.staging.getList 0 4096) } }
    updateResult (markSlot s2 other false) 0

/-- PROGRAM (R405). -/
def execProgram (chunk : BitVec 14) (s : State) : Out :=
  if updateRight s then .next (programWrite s chunk.toNat) else .next (denyWrite s 0x7000C (1 + 256 * chunk.toNat))

/-- The slot that ACTIVE does not name is checked: a trial is pending, or the slot is invalid (R405). -/
def commitWrite (s : State) : State :=
  let other := !bootActive s
  let r := slotRecord s other
  let n := recordCheck s r
  let s1 := audit (updateResult (markSlot s other (n != 0)) n) 0x20 (sessionRole s) .chain n (numAt r 32 8)
  if n = 0 then acceptRecord (writeControl s1 (bootActive s1) 1) r .chain else s1

/-- COMMIT (R405). -/
def execCommitRecord (s : State) : Out :=
  if updateRight s then .next (commitWrite s) else .next (denyWrite s 0x7000C 2)

/-- The device before stage 2: what the always-on domain holds, the stored test results, local flash and what the partner
holds are kept; every switched domain is off. -/
def restart (s : State) : State :=
  let o := switchOff s (domainRange 0 39)
  { State.reset with
    pending := o.pending, uptime := o.uptime, drawn := o.drawn, outbox := o.outbox
    time := { Time.reset with epoch := o.time.epoch, epochHi := o.time.epochHi }
    eth := { Eth.reset with status := o.eth.status }
    sec := { o.sec with
      stage := 1, bootfail := false, slot := false, trial := false, record := [], result := 0, attesting := none, attQueue := []
      ready := false, align := 0, denied := 0, crcErr := 0, capability := [], idKey := [], cert := [] }
    pwr := { Pwr.reset with
      intlk := o.pwr.intlk, tripped := o.pwr.tripped, intlkStop := o.pwr.intlkStop, tj := o.pwr.tj, tstack := o.pwr.tstack
      wakeRec := o.pwr.wakeRec, wakeHead := o.pwr.wakeHead }
    mon := { Mon.reset with
      setValid := o.mon.setValid && o.sec.sealed, setUsed := o.mon.setUsed, setTick := o.mon.setTick, stored := o.mon.stored
      results := o.mon.results, failLog := o.mon.failLog, bistFails := o.mon.bistFails, bistResult := o.mon.bistResult }
    rsl := { Rsl.reset with flash := o.rsl.flash, remote := o.rsl.remote } }

/-- REBOOT: refused under a lease, and logged either way (R406). -/
def rebootWrite (s : State) : State :=
  if leased s then updateResult (audit s 0x23 (sessionRole s) .chain 0x7000C 6) 6
  else restart (audit s 0x23 (sessionRole s) .chain 0x7000C 0)

/-- REBOOT. -/
def execReboot (s : State) : Out :=
  if updateRight s then .next (rebootWrite s) else .next (denyWrite s 0x7000C 3)

/-! ### Stages 1 and 2 (R407 to R409, R423) -/

/-- A record passed: it governs until the next boot, and stage 3 begins. -/
def takeRecord (s : State) (b trial : Bool) (r : List Byte) : State :=
  let s1 := acceptRecord (markSlot s b false) r .internal
  let n := numAt (recordSection r 5)
  let p := numAt (recordSection r 7)
  let x := recordSection r 4
  let topo := recordSection r 3
  let salts := (List.range 16).map fun i => BitVec.ofNat 32 (n (4 * i) 4)
  let s2 := { s1 with
    sec := { s1.sec with stage := 3, slot := b, trial := trial, record := r }
    link := { s1.link with
      topo := topo, ports := s1.link.ports.mapIdx fun i q => { q with label := BitVec.ofNat 3 (mapLabel topo i) } }
    mem := { s1.mem with salts := salts, autokey := n 64 1 == 1 }
    pwr := { s1.pwr with
      plimit := BitVec.ofNat 12 (p 0 2), pmax := BitVec.ofNat 5 (p 2 1), tthrot := BitVec.ofNat 7 (p 3 1)
      retidle := BitVec.ofNat 32 (p 4 4) }
    rsl := { s1.rsl with
      policy := numAt x 8 1 == 1, pcoord := BitVec.ofNat 18 (numAt x 0 3), flashPages := Config.flashPages }
    time := { s1.time with loaded := false, loading := true } }
  continueBoot s2

/-- A record did not pass: RESULT, the slot's mark and the audit log say so (R16). -/
def rejectSlot (s : State) (b : Bool) (n : Nat) : State :=
  audit (updateResult (markSlot s b true) n) 0x20 .device .internal n b.toNat

/-- No slot passes (R408). -/
def bootFails (s : State) : State := { s with sec := { s.sec with stage := 2, bootfail := true } }

/-- Boot ACTIVE, and where it is rejected the other slot, unless that one is out or invalid. -/
def bootSlots (s : State) (tryOther : Bool) : State :=
  let a := bootActive s
  let n := recordCheck s (slotRecord s a)
  if n = 0 then takeRecord s a false (slotRecord s a)
  else
    let s1 := rejectSlot s a n
    if tryOther && !s1.sec.slotBad.getLsbD (!a).toNat then
      let m := recordCheck s1 (slotRecord s1 !a)
      if m = 0 then takeRecord s1 (!a) false (slotRecord s1 !a) else bootFails (rejectSlot s1 (!a) m)
    else bootFails s1

/-- The trial has failed: TRIAL is cleared, UPDATE_FAILED logged, ACTIVE boots (R407). -/
def trialFailed (s : State) : State :=
  bootSlots (audit (writeControl s (bootActive s) 0) 0x22 .device .internal 0 0) false

/-- Stage 2: the slot chosen under R407. -/
def bootStageTwo (s : State) : State :=
  if bootTrial s = 1 then
    let s1 := writeControl s (bootActive s) 2
    let b := !bootActive s1
    let n := recordCheck s1 (slotRecord s1 b)
    if n = 0 then takeRecord s1 b true (slotRecord s1 b) else trialFailed (rejectSlot s1 b n)
  else if bootTrial s = 2 then trialFailed s
  else bootSlots s true

/-- A log whose last entry is not the end of a seal takes UNSEALED and a seal (R423). -/
def unsealed (s : State) : State :=
  if s.sec.sealed then s else auditSeal (audit s 2 .device .internal 0 0)

/-- BOOT (R409): stage 1, in which the bypass is released, and stage 2; after REBOOT, stage 2. -/
def execBoot (s : State) : Out :=
  if 2 ≤ s.sec.stage then .next s
  else .next (bootStageTwo (unsealed { s with sec := { s.sec with stage := 2, bypass := false } }))

/-- INTERLOCK_ASSERTED (R450): boot goes on from stage 3, or wake source 0x07 acts. -/
def execInterlockAsserted (s : State) : Out :=
  .next (continueBoot (interlockWake { s with pwr := { s.pwr with intlk := true } }))

/-! ### Stages 4 to 8 (R132, R409, R465) -/

/-- What the self-test found of a position (R101, R132): bad columns, width, and whether it is Retired. -/
def testedPosition (r : StageReport) (p : Nat) (x : Position) : Position :=
  let bad := r.badCols.getD p 0
  let width := 64 - (bitsOf bad.toNat 64).length
  if x.state = 3 then { x with bad := bad, width := width }
  else if width < 60 then { x with bad := bad, width := width, state := 4, cause := 1 }
  else if !r.memOk.getLsbD p then { x with bad := bad, width := width, state := 4, cause := 2 }
  else { x with bad := bad, width := width }

/-- A position in service before its number is given. -/
def inService (s : State) (p : Nat) : Bool := (positionAt s p).state == 0

/-- The logical number of a position in its row: its own for the first four; the spare takes that of one out of service. -/
def rowNumber (s : State) (p : Nat) : Option Nat :=
  let r := p / 5
  if !inService s p then none
  else if p % 5 < 4 then some (4 * r + p % 5)
  else ((List.range 4).find? fun k => !inService s (5 * r + k)).map fun k => 4 * r + k

/-- Every row has four Active positions. -/
def rowsFull (s : State) : Bool :=
  (List.range 4).all fun r => decide (4 ≤ ((List.range 5).filter fun k => inService s (5 * r + k)).length)

/-- The logical number each position takes (R132): row by row, or contiguous where a row has fewer than four. -/
def logicalNumbers (s : State) : List (Option Nat) :=
  let own := (List.range 20).map (rowNumber s)
  if rowsFull s then own
  else own.mapIdx fun p x => x.map fun _ => ((own.take p).filter (·.isSome)).length

/-- Map the positions, and write the capability record (R132, R432). -/
def mapPositions (s : State) : State :=
  let l := logicalNumbers s
  let give := fun (p : Nat) (x : Position) =>
    if x.state ≠ 0 then x
    else match l.getD p none with
      | some n => { x with state := 1, logical := BitVec.ofNat 4 n }
      | none => { x with state := 2, logical := 0 }
  writeIdentity { s with pwr := { s.pwr with
      positions := s.pwr.positions.mapIdx give
      capable := (List.range 16).map fun c => l.findIdx? (· == some c) } }

/-- Stage 8: Ready, power state Idle; a trial is confirmed (R407). -/
def bootReady (s : State) : State :=
  let s1 := switchOff { s with sec := { s.sec with stage := 8 } } (domainRange 0 19)
  let s2 := { s1 with pwr := { s1.pwr with state := 2, busy := false } }
  if s2.sec.trial then
    let s3 := writeControl s2 s2.sec.slot 0
    let floor := max s3.sec.svn.toNat (min 63 (numAt (recordSection s3.sec.record 1) 4 1))
    audit { s3 with sec := { s3.sec with trial := false, svn := BitVec.ofNat 6 floor } } 0x21 .device .internal 0 floor
  else s2

/-- The fabric, the sequencer, the seam and the bank dies are on, and nothing wakes. -/
def computeOn (s : State) : Bool :=
  s.pwr.waking.isEmpty && s.pwr.domains &&& domainRange 20 31 == domainRange 20 31

/-- The end of a wake from Standby, whose stage 4 has run: Idle; where the device still holds a lease, its core positions wake as they did
for the claim (DESIGN CHOICE 47). -/
def wakeTested (s : State) (r : StageReport) : State :=
  let s1 := stageTests s r
  let s2 := { s1 with pwr := { s1.pwr with busy := false } }
  if !computeOn s1 then s1
  else
    let s3 := switchOff { s2 with pwr := { s2.pwr with state := 2 } } (domainRange 0 19)
    if leased s3 then wakeDone (beginWake (wakeEntry s3 0x12 0 0 false false) 0 (domainMask (livePositions s3))) else s3

/-- BOOT_STAGE_COMPLETE (R409): the work of the stage is complete and the next stage begins. -/
def execBootStageComplete (r : StageReport) (s : State) : Out :=
  match s.sec.stage with
  | 4 =>
    if computeOn s then
      let s1 := stageTests s r
      let s2 := { s1 with pwr := { s1.pwr with positions := s1.pwr.positions.mapIdx (testedPosition r) } }
      if computeOn s2 then .next { s2 with sec := { s2.sec with stage := 5 } } else .next s2
    else .next s
  | 5 =>
    let s1 := mapPositions s
    .next { s1 with sec := { s1.sec with stage := 6 }, mem := { s1.mem with classes := partnerClass s1 } }
  | 6 =>
    let s1 := { s with sec := { s.sec with stage := 7 }, mem := { s.mem with salt := s.mem.salts.getD 0 0, keyIndex := 0 } }
    .next (beginWake s1 4 (domainRange 32 39))
  | 7 => if computeOn s ∧ s.time.loaded then .next (bootReady s) else .next s
  | 8 =>
    if s.pwr.busy ∧ s.pwr.goal = 2 ∧ s.pwr.state = 4 ∧ s.pwr.waking.isEmpty then .next (wakeTested s r) else .next s
  | _ => .next s

end Sys2Proof.Machine
end

