-- ==== Sys2Proof/Machine/Security.lean ====
section
/-! DEFINITION. The life cycle (R410 to R412), sessions (R414), stops of a job (R417), attestation (R419, R420), suppressed
audit events (R424). -/

namespace Sys2Proof.Machine

/-! ### The life cycle -/

/-- Blank to Maker: the identity key pair is generated (R411). -/
def personaliseWrite (s : State) : State :=
  if s.sec.life = 0 then
    let s1 := { s with drawn := s.drawn + 1, sec := { s.sec with life := 1, idDraw := some s.drawn } }
    audit s1 0x10 .maker .chain 0x70000 1
  else s

/-- PERSONALISE (R410, R411, R415): in Blank it needs no session. -/
def execPersonalise (s : State) : Out :=
  if s.sec.life = 0 ∨ sessionIs s .maker then .next (personaliseWrite s) else .next (denyWrite s 0x70000 0x10000)

/-- Maker to Sealed. -/
def sealWrite (s : State) : State :=
  if s.sec.life = 1 then audit { s with sec := { s.sec with life := 2 } } 0x10 .maker .chain 0x70000 2 else s

/-- SEAL (R410, R413). -/
def execSeal (s : State) : Out :=
  if sessionIs s .maker then .next (sealWrite s) else .next (denyWrite s 0x70000 0x20000)

/-- The return token in the staging window: the maker key's signature over the hash of SERIAL and SEC_NONCE (R412). -/
def tokenOk (s : State) : Bool :=
  Config.ecdsaVerify Config.makerKey
    (Config.sha512 (leBytes 16 Config.serial.toNat ++ leBytes 64 s.sec.nonce.toNat)) (s.sec.staging.getList 0 132)

/-- Entry to Returned (R412): flash, both slots and HBM are erased, the operator keys void; no lease remains, nor a claim
of one (R410). -/
def returnWrite (s : State) : State :=
  if s.sec.life = 3 then
    let s1 := releaseLease (abandonForRelease (dropUses (endClaim s) [.directory])) false
    let slots := s1.rsl.slots.map fun x => { x with flash := false }
    let s2 := { s1 with
      rsl := { s1.rsl with flash := [], slots := slots }
      mem := { s1.mem with hbm := [], stale := [], bad := [] }
      sec := { s1.sec with life := 4, opsVoid := true, nor := s1.sec.nor.clear 0 0x7000000 } }
    audit s2 0x10 .installer .chain 0x70000 4
  else s

/-- RETURN (R412, R413): the right is an installer session's with a token. -/
def execReturnLife (s : State) : Out :=
  if sessionIs s .installer ∧ tokenOk s then .next (returnWrite s) else .next (denyWrite s 0x70000 0x30000)

/-! ### Sessions -/

/-- No session is open. -/
def closeSession (s : State) : State := { s with sec := { s.sec with role := none, key := 0 } }

/-- CLOSE in SEC_SESSION (R414): a write needs an open session. -/
def execClose (s : State) : Out :=
  if s.sec.role.any (roleActs s) then .next (closeSession s) else .next (denyWrite s 0x70004 0x100)

/-- The role that a SESSION frame or an access-list entry names (R403, R421). -/
def namedRole (b : Nat) : Option Role :=
  match b with
  | 1 => some .operator
  | 2 => some .installer
  | 3 => some .maker
  | _ => none

/-- The public key that a session of a role must verify under (R414); with no record in force the installer's is the enrolled one, which
a slot still holds (R408). -/
def sessionKey (s : State) (r : Role) (key : Byte) : Option (List Byte) :=
  let keys := recordSection s.sec.record 2
  match r with
  | .operator =>
    if !s.sec.opsVoid ∧ key.toNat < numAt keys 132 1 then some (bytesAt keys (136 + 132 * key.toNat) 132) else none
  | .installer => if s.sec.record = [] then enrolledKey s else some (installerKey s)
  | .maker => some Config.makerKey
  | .device => none

/-- What a session's signature covers (R414). -/
def sessionHash (s : State) (role key : Byte) : BitVec 512 :=
  Config.sha512 (leBytes 64 s.sec.nonce.toNat ++ leBytes 16 Config.serial.toNat ++ [role, key])

/-- SEC_NONCE is renewed from the entropy source. -/
def renewNonce (s : State) : State :=
  { s with drawn := s.drawn + 1, sec := { s.sec with nonce := Config.entropy s.drawn } }

/-- A session opens and replaces the one before. -/
def openSession (s : State) (r : Role) (key : Byte) : State :=
  let s1 := renewNonce { s with sec := { s.sec with role := some r, key := key.setWidth 2, fails := 0 } }
  audit s1 0x42 r .chain 0x70004 key.toNat

/-- An attempt fails; after eight in a row sessions are refused for 60 s. -/
def failSession (s : State) (role : Byte) : State :=
  let n := satAdd 4 s.sec.fails.toNat 1
  let s1 := renewNonce { s with sec := { s.sec with fails := BitVec.ofNat 4 n, lockout := decide (8 ≤ n) } }
  audit s1 0x43 .device .chain 0x70004 role.toNat

/-- The role that an attempt's signature opens. -/
def attemptRole (s : State) (role key : Byte) (signature : List Byte) : Option Role :=
  (namedRole role.toNat).bind fun r => (sessionKey s r key).bind fun k =>
    if Config.ecdsaVerify k (sessionHash s role key) signature then some r else none

/-- SESSION (R414, R426): LEN 0 closes the session; an attempt opens one or fails, which STATUS 0x04 tells. -/
def execSession (f : Frame) (role key : Byte) (signature : List Byte) (s : State) : Out :=
  if !chainOpen s then .next (forwardFrame s f)
  else if !frameOk f then .next (dropFrame s)
  else if !forMe s f then .next (forwardFrame s f)
  else if f.len = 0 then .next (respond (closeSession s) f 0 [])
  else if s.sec.lockout then .next (respond s f 4 [])
  else match attemptRole s role key signature with
    | some r => .next (respond (openSession s r key) f 0 [])
    | none => .next (respond (failSession s role) f 4 [])

/-- SESSION_TIMEOUT (R414): 60 s without an authenticated frame. -/
def execSessionTimeout (s : State) : Out := .next (closeSession s)

/-- SESSION_LOCKOUT_END (R414). -/
def execSessionLockoutEnd (s : State) : Out := .next { s with sec := { s.sec with lockout := false } }

/-! ### Stops (R417) -/

/-- A stop by the operator, which has an effect and is logged only under a lease. -/
def stopWrite (s : State) (immediate : Bool) : State :=
  if leased s then
    let s1 := audit s 0x50 .operator .chain 0x70008 immediate.toNat
    if immediate then releaseLease (abandonForRelease s1) false else stopGracefully s1
  else s

/-- JOB_STOP_GRACEFUL. -/
def execJobStopGraceful (s : State) : Out :=
  if sessionIs s .operator then .next (stopWrite s false) else .next (denyWrite s 0x70008 1)

/-- JOB_STOP_IMMEDIATE. -/
def execJobStopImmediate (s : State) : Out :=
  if sessionIs s .operator then .next (stopWrite s true) else .next (denyWrite s 0x70008 3)

/-! ### Attestation -/

/-- SEC_ATTEST_NONCE. -/
def attestNonce (s : State) : BitVec 256 :=
  BitVec.ofNat 256 ((List.range 8).foldl (fun n i => n + (s.sec.attNonce.get i).toNat * 2 ^ (32 * i)) 0)

/-- GO (R419): the report starts again with the nonce in force; a peer's request in service is started again after it. -/
def attestWrite (s : State) : State :=
  let back := match s.sec.attesting with
    | some (some p, n) => [(p, n)]
    | _ => []
  { s with sec := { s.sec with
      attesting := some (none, attestNonce s), ready := false, attQueue := back ++ s.sec.attQueue } }

/-- ATTEST_GO (R419): a write of an open session. -/
def execAttestGo (s : State) : Out :=
  if s.sec.role.any (roleActs s) then .next (attestWrite s) else .next (denyWrite s 0x70010 1)

/-- Bytes 0 to 391 of the attestation report. -/
def reportBody (s : State) (nonce : BitVec 256) : List Byte :=
  let r := s.sec.record
  let sec := recordSection r
  let cfg := bytesAt s.link.topo 0 60 ++ sec 4 ++ sec 5 ++ sec 6 ++ sec 2
  let dig := if leased s then bytesAt s.eth.entry 128 64 else List.replicate 64 0
  leBytes 4 1 ++ leBytes 1 s.sec.life.toNat ++ leBytes 1 (s.sec.slot.toNat + 2 * s.sec.trial.toNat) ++
    leBytes 1 s.sec.svn.toNat ++ [0] ++ leBytes 16 Config.serial.toNat ++ leBytes 32 nonce.toNat ++
    leBytes 8 s.time.epoch.toNat ++ hashBytes (Config.sha512 (sec 1)) ++
    hashBytes (Config.sha512 (bytesAt r 0 (numAt r 8 4 - 132))) ++ hashBytes (Config.sha512 cfg) ++ dig ++
    leBytes 2 (jobTag s).toNat ++ [0, 0] ++ leBytes 4 (firmwareRev s).toNat ++ hashBytes (Config.sha512 (installerKey s))

/-- The report, signed with the identity key; a device without one signs nothing. -/
def attestReport (s : State) (nonce : BitVec 256) : List Byte :=
  let body := reportBody s nonce
  let sig := match s.sec.idDraw with
    | some k => Config.ecdsaSign k (Config.sha512 body)
    | none => []
  body ++ bytesAt (sig ++ List.replicate 132 0) 0 132

/-- The next request in arrival order. -/
def nextAttest (s : State) : State :=
  match s.sec.attQueue with
  | (p, n) :: rest => { s with sec := { s.sec with attesting := some (some p, n), attQueue := rest } }
  | [] => { s with sec := { s.sec with attesting := none } }

/-- The report goes to the peer at a port in management packets (R420), in order (DESIGN CHOICE 55); a port whose state has ceased
to carry them, or that is disabled, sends nothing (R291, R294). -/
def sendReport (s : State) (p : Nat) (bs : List Byte) : State :=
  if mapEnabled s.link.topo p && carriesPackets (portOf s p).mode then
    (List.range (ceilDiv bs.length 4096)).foldl (fun t k =>
      transmit t p (newPacket s (peerCoord s p) 3 0 (padPayload (bytesAt bs (4096 * k) (min 4096 (bs.length - 4096 * k)))))) s
  else s

/-- ATTEST_REPORT_COMPLETE (R419, R420): the report stands in the window and READY is set, or it goes to the peer. -/
def execAttestReportComplete (s : State) : Out :=
  match s.sec.attesting with
  | some (none, n) =>
    .next (nextAttest { s with sec := { s.sec with report := attestReport s n, ready := true } })
  | some (some p, n) => .next (nextAttest (sendReport s p (attestReport s n)))
  | none => .next s

/-! ### Suppressed audit events -/

/-- AUDIT_SUPPRESSED_FLUSH (R424): in a later second than the one that counted them, one SUPPRESSED entry per code. -/
def execAuditSuppressedFlush (s : State) : Out := .next (newSecond s)

/-! ### The JTAG test access port (R481) -/

/-- The test access port of a device that has its supply: whether it answers and drives TDO, and whether it is held in reset, which
outside the Maker and Returned states it is whatever TRST_N does. -/
structure TestPort where
  answers : Bool
  drives  : Bool
  inReset : Bool
  deriving DecidableEq, Repr

/-- The test access port as the life cycle leaves it, for the level of TRST_N (R481). -/
def testPort (s : State) (trstN : Bool) : TestPort :=
  if makerState s then { answers := trstN, drives := trstN, inReset := !trstN }
  else { answers := false, drives := false, inReset := true }

end Sys2Proof.Machine
end

