-- ==== Sys2Proof/Machine/Chain.lean ====
section
/-! DEFINITION. Accesses to the management window (R8 to R13, R413 to R416, R427, R429, R433): writes of registers by their
access codes, chain READ and WRITE, RDMA Read, the latching reads, the rewrite of the status record (R394, R395). -/

namespace Sys2Proof.Machine

/-! ### Writes of plain registers (R10, R413) -/

/-- An open session of a role that acts. -/
def anySession (s : State) : Bool := s.sec.role.any (roleActs s)

/-- The open session may write an offset. -/
def mayWrite (s : State) (off : Nat) : Bool :=
  if 0x10000 ≤ off ∧ off < 0x20000 then powerRight s
  else if 0x20000 ≤ off ∧ off < 0x30000 then sessionIs s .operator || sessionIs s .maker
  else if 0x30000 ≤ off ∧ off < 0x40000 then sessionIs s .installer
  else if 0x50000 ≤ off ∧ off < 0x70000 then sessionIs s .operator || sessionIs s .maker
  else if off = 0x70014 ∨ (0x74000 ≤ off ∧ off < 0x75000) then updateRight s
  else if 0x80000 ≤ off ∧ off < 0x90000 then sessionIs s .maker
  else anySession s

/-- PWR_PACE: a PMAX outside 1 to 16 is ignored. -/
def writePmax (s : State) (v : Word) : State :=
  let p := fld v 9 5
  if 1 ≤ p ∧ p ≤ 16 then { s with pwr := { s.pwr with pmax := BitVec.ofNat 5 p } } else s

/-- PWR_LIMIT: each field outside its range is ignored. -/
def writeLimit (s : State) (v : Word) : State :=
  let p := fld v 11 0
  let t := fld v 18 12
  { s with pwr := { s.pwr with
      plimit := if 1000 ≤ p ∧ p ≤ 2600 then BitVec.ofNat 12 p else s.pwr.plimit
      tthrot := if 85 ≤ t ∧ t ≤ 100 then BitVec.ofNat 7 t else s.pwr.tthrot } }

/-- A write by the access codes of R10: RW fields are set, a 1 clears an RW1C bit, anything else is ignored. -/
def plainWrite (s : State) (off : Nat) (v : Word) : State :=
  match off with
  | 0x10008 => writePmax s v
  | 0x1000C => writeLimit s v
  | 0x30308 => if flag v 7 then { s with time := { s.time with alarm := false } } else s
  | 0x50008 => if flag v 0 then { s with mem := { s.mem with imbal := false } } else s
  | 0x60000 => { s with rsl := { s.rsl with
      plost := s.rsl.plost && !flag v 4, rngSkew := s.rsl.rngSkew && !flag v 5
      verifyFail := s.rsl.verifyFail && !flag v 6 } }
  | 0x70014 => { s with sec := { s.sec with auditBase := v } }
  | _ =>
    if 0x70080 ≤ off ∧ off < 0x700A0 then
      { s with sec := { s.sec with attNonce := s.sec.attNonce.set ((off - 0x70080) / 4) v } }
    else if 0x74000 ≤ off ∧ off < 0x75000 then
      { s with sec := { s.sec with staging := s.sec.staging.setList (off - 0x74000) (leBytes 4 v.toNat) } }
    else s

/-! ### Writes with an effect of their own -/

/-- A write that the right allows, or its denial: the state and whether it was denied. -/
def guarded (s : State) (right : Bool) (off : Nat) (v : Word) (t : State) : State × Bool :=
  if right then (t, false) else (denyWrite s off v.toNat, true)

/-- PWR_CMD; what the shutdown tests of STANDBY and SHUTDOWN find is open here. -/
def writePowerCommand (s : State) (v : Word) : State × Bool :=
  let drew := { s with drawn := s.drawn + 1 }
  let t := match fld v 2 0 with
    | 1 => retainWrite s
    | 2 => standbyWrite drew (Config.shutdownFailures s.drawn)
    | 3 => shutdownWrite drew (Config.shutdownFailures s.drawn)
    | 4 => wakeWrite s
    | _ => s
  guarded s (powerRight s) 0x10004 v t

/-- SEC_LIFE CMD. -/
def writeLife (s : State) (v : Word) : State × Bool :=
  match fld v 18 16 with
  | 1 => guarded s (s.sec.life == 0 || sessionIs s .maker) 0x70000 v (personaliseWrite s)
  | 2 => guarded s (sessionIs s .maker) 0x70000 v (sealWrite s)
  | 3 => guarded s (sessionIs s .installer && tokenOk s) 0x70000 v (returnWrite s)
  | _ => guarded s (sessionIs s .installer || sessionIs s .maker) 0x70000 v s

/-- SEC_JOB: STOP with MODE. -/
def writeJob (s : State) (v : Word) : State × Bool :=
  guarded s (sessionIs s .operator) 0x70008 v (if flag v 0 then stopWrite s (flag v 1) else s)

/-- SEC_UPDATE CMD. -/
def writeUpdate (s : State) (v : Word) : State × Bool :=
  let t := match fld v 2 0 with
    | 1 => programWrite s (fld v 21 8)
    | 2 => commitWrite s
    | 3 => rebootWrite s
    | _ => s
  guarded s (updateRight s) 0x7000C v t

/-- BIST_CMD: FULL outside a maker session, or in another life-cycle state, is refused in RESULT as well (R467). -/
def writeBist (s : State) (v : Word) : State × Bool :=
  if sessionIs s .maker then
    (match fld v 2 0 with
      | 1 => fullWrite s
      | 2 => invalidateWrite s
      | _ => s, false)
  else
    let s1 := denyWrite s 0x80008 v.toNat
    (if fld v 2 0 = 1 then { s1 with mon := { s1.mon with bistResult := 2 } } else s1, true)

/-- A word written to the window at an aligned offset, with whether the access was denied (R416). -/
def writeWord (s : State) (off : Nat) (v : Word) : State × Bool :=
  match off with
  | 0x10004 => writePowerCommand s v
  | 0x10024 => guarded s (powerRight s) off v (wakeSendWrite s (BitVec.ofNat 7 (fld v 6 0)))
  | 0x10250 => guarded s (sessionIs s .maker) off v (fenceWrite s v)
  | 0x70000 => writeLife s v
  | 0x70004 => guarded s (anySession s) off v (if flag v 8 then closeSession s else s)
  | 0x70008 => writeJob s v
  | 0x7000C => writeUpdate s v
  | 0x70010 => guarded s (anySession s) off v (if flag v 0 then attestWrite s else s)
  | 0x80008 => writeBist s v
  | _ =>
    if 0x30010 ≤ off ∧ off < 0x301D0 ∧ off % 64 = 16 then
      guarded s (sessionIs s .installer) off v (if flag v 0 then retrainPort s ((off - 0x30010) / 64) else s)
    else guarded s (mayWrite s off) off v (plainWrite s off v)

/-- An access that is misaligned or not 32 bits wide is counted (R9). -/
def countAlign (s : State) : State :=
  { s with sec := { s.sec with align := BitVec.ofNat 8 (satAdd 8 s.sec.align.toNat 1) } }

/-- REGISTER_WRITE (R10, R413, R416): a write in the open session. -/
def execRegisterWrite (offset : Nat) (value : Word) (s : State) : Out :=
  if s.sec.stage = 0 then .next s
  else if offset % 4 ≠ 0 then .next (countAlign s)
  else .next (writeWord s offset value).1

/-! ### Chain READ and WRITE (R415, R416, R427, R429) -/

/-- Read words in increasing address order: the state, the words, whether a word was denied. -/
def chainReadWords (s : State) (off : Nat) : Nat → State × List Word × Bool
  | 0 => (s, [], false)
  | n + 1 =>
    let served := chainReads s off
    let w := if served then windowWord s off else 0
    let (t, ws, denied) := chainReadWords (if served then latchRead s off else s) (off + 4) n
    (t, w :: ws, denied || !served)

/-- READ (R427): answered with the words, which read zero where the right is missing. -/
def execRead (f : Frame) (s : State) : Out :=
  if !chainOpen s then .next (forwardFrame s f)
  else if !frameOk f ∨ f.typ ≠ 2 then .next (dropFrame s)
  else if !forMe s f then .next (forwardFrame s f)
  else if f.offset.toNat % 4 ≠ 0 then .next (respond (countAlign s) f 3 (List.replicate f.len.toNat 0))
  else
    let (t, ws, denied) := chainReadWords s f.offset.toNat f.len.toNat
    .next (respond (if denied then countDenied t else t) f (if denied then 2 else 0) ws)

/-- Write words in increasing address order. -/
def chainWriteWords (s : State) (off : Nat) : List Word → State × Bool
  | [] => (s, false)
  | v :: vs =>
    let (t, d) := writeWord s off v
    let (u, e) := chainWriteWords t (off + 4) vs
    (u, d || e)

/-- A broadcast write: SEC_ATTEST_NONCE alone is taken, and a topology update, which is a payload of 256 bytes at any other offset
(R429; DESIGN CHOICE 60); a misaligned one is counted (R9). -/
def broadcastWrite (s : State) (off : Nat) (vs : List Word) : State :=
  if off % 4 ≠ 0 then countAlign s
  else if vs.length = 64 then takeUpdate s .chain (vs.flatMap fun w => leBytes 4 w.toNat)
  else if 0x70080 ≤ off ∧ off + 4 * vs.length ≤ 0x700A0 then (chainWriteWords s off vs).1
  else s

/-- WRITE (R427, R429): applied and answered; a broadcast is applied and forwarded. -/
def execWrite (f : Frame) (s : State) : Out :=
  if !chainOpen s then .next (forwardFrame s f)
  else if !frameOk f ∨ f.typ ≠ 3 then .next (dropFrame s)
  else if f.dest = 0xFFF then .next (forwardFrame (broadcastWrite s f.offset.toNat f.payload) f)
  else if !forMe s f then .next (forwardFrame s f)
  else if f.offset.toNat % 4 ≠ 0 then .next (respond (countAlign s) f 3 [])
  else
    let (t, denied) := chainWriteWords s f.offset.toNat f.payload
    .next (respond t f (if denied then 2 else 0) [])

/-! ### RDMA Read (R381, R441, R444) -/

/-- Access-list entry i of the network section (R403): source, key, role. -/
def accessEntry (s : State) (i : Nat) : Nat × Nat × Nat :=
  let x := recordSection s.sec.record 6
  let o := 2144 + 32 * i
  (numAt x o 16, numAt x (o + 16) 4, numAt x (o + 20) 1)

/-- Role of an access-list entry. -/
def accessRole (s : State) (i : Nat) : Option Role := namedRole (accessEntry s i).2.2

/-- A role's connection over Ethernet may read an offset (R413, R415). -/
def rdmaReads (s : State) (r : Role) (off : Nat) : Bool := roleActs s r && roleReads r off

/-- Ranges of the management window map. -/
def windowRanges : List (Nat × Nat) :=
  [(0, 0x1000), (0x1000, 0x10000), (0x10000, 0x20000), (0x20000, 0x30000), (0x30000, 0x40000), (0x40000, 0x50000),
   (0x50000, 0x60000), (0x60000, 0x70000), (0x70000, 0x80000), (0x80000, 0x100000), (0x100000, 0x200000)]

/-- A length of at most 4,096 bytes within one range. -/
def rdmaRange (off len : Nat) : Bool :=
  decide (len ≤ 4096) && windowRanges.any fun r => decide (r.1 ≤ off) && decide (off + len ≤ r.2)

/-- Bytes of n words read with a role's rights, in increasing address order. -/
def rdmaBytes (s : State) (r : Role) (off : Nat) : Nat → State × List Byte
  | 0 => (s, [])
  | n + 1 =>
    let ok := rdmaReads s r off
    let w := if ok then windowWord s off else 0
    let (t, bs) := rdmaBytes (if ok then latchRead s off else s) r (off + 4) n
    (t, leBytes 4 w.toNat ++ bs)

/-- A refused read is counted (ETH_ERR) and answered with a remote access error, on the connection of a host of the access
list. -/
def refuseRead (s : State) (p : Option Peer) : State :=
  send { s with eth := { s.eth with refused := BitVec.ofNat 16 (satAdd 16 s.eth.refused.toNat 1) } } [.refused (roceMark s p 0)]

/-- The access-list entry of a source and key. -/
def accessFind (s : State) (source : BitVec 128) (key : Word) : Option Nat :=
  (List.range 16).find? fun i =>
    (accessRole s i).isSome && (accessEntry s i).1 == source.toNat && (accessEntry s i).2.1 == key.toNat

/-- A request of a host that the access list admits: a read within the limits is served; a write, a Send, an atomic and a read outside
them are refused (R381). -/
def serveHost (s : State) (i : Nat) (offset length : Nat) (kind : RdmaKind) : State :=
  let p := some (Peer.host i)
  if kind ≠ .read ∨ !rdmaRange offset length then refuseRead s p
  else if offset % 4 ≠ 0 ∨ length % 4 ≠ 0 then
    send (countAlign s) [.rdma (roceMark s p length) i (List.replicate length 0)]
  else
    let r := rdmaBytes s ((accessRole s i).getD .operator) offset (length / 4)
    send r.1 [.rdma (roceMark s p length) i r.2]

/-- RDMA_READ (R377, R381): a request to the management window, served to a source and key of the access list. A RoCEv2 packet is a
wake source in Retention (R441), and wakes the ports alone while the interlock is not asserted (R444). The host's connection is held
from its first request, and a congestion mark on the request is answered (R379); a frame that the port cannot take is counted. -/
def execRdmaRead (source : BitVec 128) (key : Word) (offset length : Nat) (kind : RdmaKind) (frame : EthFrame) (s : State) : Out :=
  let s0 := wakeSource (mgmtWake s) 4 0 true false
  if !s0.eth.up then .next s0
  else if badFrame frame then .next (countFrame s0)
  else match accessFind s0 source key with
    | none => .next (refuseRead (answerMark s0 none frame.marked) none)
    | some i => .next (serveHost (answerMark (connect s0 (.host i)) (some (.host i)) frame.marked) i offset length kind)

/-! ### Latching reads (R314, R454, R457) -/

/-- A reader may read an offset. -/
def readerReads (s : State) (r : Reader) (off : Nat) : Bool :=
  match r with
  | .chain => decide (1 ≤ s.sec.stage) && chainReads s off
  | .rdma i => s.eth.up && (accessRole s i).any fun x => rdmaReads s x off

/-- A read of one word; over the chain a denied one is counted. -/
def readBy (s : State) (r : Reader) (off : Nat) : State :=
  if readerReads s r off then latchRead s off
  else if r = .chain ∧ 1 ≤ s.sec.stage then countDenied s
  else s

/-- LINK_EPOCH_LO_READ (R314): the high word latches. -/
def execLinkEpochLoRead (reader : Reader) (s : State) : Out := .next (readBy s reader 0x30300)

/-- CNT_VAL_LO_READ (R454). -/
def execCntValLoRead (reader : Reader) (n : Fin 32) (s : State) : Out := .next (readBy s reader (0x20004 + 16 * n.val))

/-- CNT_BEATS_LO_READ (R457). -/
def execCntBeatsLoRead (reader : Reader) (s : State) : Out := .next (readBy s reader 0x21000)

/-! ### The status record (R394, R395) -/

/-- JOB. -/
def jobCode (s : State) : Nat :=
  if !leased s then 0
  else if s.eth.phase = .lapsing then 6
  else if recovering s then 3
  else if s.rsl.phase = .ended then (if s.rsl.last = 3 then 4 else 5)
  else if s.commit.limit then 5
  else if s.seq.stopped then 4
  else if jobStarted s then 2
  else 1

/-- PORTS: STATE and HALF of each port. -/
def portNibbles (s : State) : Nat :=
  (s.link.ports.zipIdx.take 7).foldl (fun n x => n + (modeCode x.1.mode + 8 * x.1.half.toNat) * 16 ^ x.2) 0

/-- LOG: report n stands at place n mod 8. -/
def logBytes (s : State) : List Byte :=
  let n := s.eth.log.length
  (List.range 8).flatMap fun j =>
    match (List.range n).find? (fun i => (s.eth.reports.toNat + 2 ^ 32 - n + i) % 8 == j) with
    | some i => leBytes 8 (s.eth.log.getD i 0).toNat
    | none => List.replicate 8 0

/-- Bytes 4 to 251 of the status record. -/
def statusBody (s : State) : List Byte :=
  let p := s.pwr
  [1, p.state.setWidth 8, s.sec.life.setWidth 8, p.pace.setWidth 8] ++ leBytes 8 s.time.epoch.toNat ++
    leBytes 1 (jobCode s) ++ [0] ++ leBytes 2 (jobTag s).toNat ++ leBytes 4 (if leased s then s.eth.rank else 0) ++
    leBytes 8 s.seq.step.toNat ++ leBytes 8 s.eth.cursor.toNat ++ leBytes 8 s.rsl.commits.toNat ++
    leBytes 4 (commitWord s).toNat ++ leBytes 4 (faultWord s.seq.fault).toNat ++ leBytes 4 s.seq.fault.bundle ++
    leBytes 4 (timeWord s).toNat ++ leBytes 4 (recovWord s).toNat ++ leBytes 4 (imbalWord s).toNat ++
    leBytes 4 (portNibbles s) ++ leBytes 1 (snapWord (slotAt s 0)).toNat ++ leBytes 1 (snapWord (slotAt s 1)).toNat ++
    leBytes 2 p.avg.toNat ++ [p.tj, 0, 0, 0] ++ leBytes 4 s.eth.reports.toNat ++ logBytes s ++ List.replicate 100 0

/-- One of the writes of a rewrite (R395), in order: SEQEND, bytes 4 to 251, SEQ; `rewrite` names the next one. -/
def rewriteStep (s : State) : State :=
  let st := bytesAt (s.eth.status ++ List.replicate 256 0) 0 256
  let n := numAt st 0 4
  let put := fun (bs : List Byte) (k : Nat) => { s with eth := { s.eth with status := bs, rewrite := k } }
  match s.eth.rewrite with
  | 1 => put (bytesAt st 0 252 ++ leBytes 4 (n + 1)) 2
  | 2 => put (bytesAt st 0 4 ++ statusBody s ++ bytesAt st 252 4) 3
  | 3 => put (leBytes 4 (n + 2) ++ bytesAt st 4 252) 4
  | 4 => put (bytesAt st 0 252 ++ leBytes 4 n) 0
  | _ => s

/-- A rewrite that still runs is ended. -/
def endRewrite (s : State) : State := if s.eth.rewrite = 0 then s else rewriteStep (rewriteStep (rewriteStep s))

/-- STATUS_REWRITE (R394, R395): a rewrite begins; each tick brings its next write (DESIGN CHOICE 48). -/
def execStatusRewrite (s : State) : Out :=
  if s.sec.stage = 0 then .next s
  else
    let t := endRewrite s
    .next (rewriteStep { t with eth := { t.eth with rewrite := 1 } })

/-! ### Idle ticks -/

/-- An entry to a lower state that was in progress is complete (DESIGN CHOICE 37). -/
def lowerDone (s : State) : State := if lowering s then continueBoot (entered s) else s

/-- A seal that its second had no room for is tried again (R424). -/
def sealAgain (s : State) : State := if s.sec.sealDue then auditSeal s else s

/-- What goes on at every tick, whatever is commanded: operations that waited for a tag, packets that waited, rails, the rewrite of the
status record, an entry to a lower state (DESIGN CHOICE 1). -/
def tickWork (s : State) : State :=
  lowerDone (sealAgain (rewriteStep (railTick (drainPorts (expiryTick (if s.mem.held.isEmpty then s else serveHeld s))))))

/-- One tick of the epoch counter with no command (DESIGN CHOICE 1). -/
def idleTick (s : State) : State :=
  let s1 := tickWork s
  { s1 with uptime := s1.uptime + 1, time := { s1.time with epoch := if 1 ≤ s1.sec.stage then s1.time.epoch + 1 else s1.time.epoch } }

end Sys2Proof.Machine
end

