-- ==== Sys2Proof/Machine/RowOps.lean ====
section
/-! DEFINITION. The row unit and its statistics (R123 to R126, R196). -/

namespace Sys2Proof.Machine

/-- UNIT_BUSY while the row unit is occupied (R123). -/
def rowBusy (s : State) (op : CoreOp) : Option Flt :=
  if opClk s op < (s.cu.rowFree.get op.core).toNat then some { code := 4 } else none

/-- The row unit is occupied for n clk from issue. -/
def takeRow (s : State) (op : CoreOp) (n : Nat) : State :=
  { s with cu := { s.cu with rowFree := s.cu.rowFree.set op.core (BitVec.ofNat 64 (opClk s op + n)) } }

/-- A row-unit function over all lanes, latency 14, occupancy 4 (R65, R122, R123). -/
def rowFunction (op : CoreOp) (s : State) (fn : Nat) : Out :=
  let a := sourceA s op
  let r := a.map (rowFn (jobProfile s) fn)
  coreOp s op [encodingUnless (zeros op.word 63 37 && zeros op.word 35 24 && vaOk op), latA s op, rowBusy s op]
    (takeRow (pushResult s op 14 (.vector (fld op.word 17 12) 0 r) ((r ++ a).any nonfinite32) false) op 4)

/-- EXP. -/
def execExp (op : CoreOp) (s : State) : Out := rowFunction op s 0

/-- LOG. -/
def execLog (op : CoreOp) (s : State) : Out := rowFunction op s 1

/-- RCP. -/
def execRcp (op : CoreOp) (s : State) : Out := rowFunction op s 2

/-- RSQRT. -/
def execRsqrt (op : CoreOp) (s : State) : Out := rowFunction op s 3

/-! ### Statistics records (R124) -/

/-- A record of A, B and N. -/
def mkStat (a b : Word) (n : Nat) : BitVec 128 :=
  BitVec.ofNat 128 (a.toNat + b.toNat <<< 32 + (n % 2 ^ 32) <<< 64)

/-- The value a result gives a record, if it writes it. -/
def statIn (x : Result) (core rec : Nat) : Option (BitVec 128) :=
  match x.dest with
  | .stat rs => if x.core = core then (rs.find? fun r => r.1 == rec).map (·.2) else none
  | _ => none

/-- The record after the results that `keep` admits, the latest issued standing (R126). -/
def statWith (s : State) (core rec : Nat) (keep : Result → Bool) : BitVec 128 :=
  let best := s.cu.inflight.foldl (fun (b : Option (Nat × BitVec 128)) x =>
    match statIn x core rec with
    | some v => if keep x && (match b with | some p => decide (p.1 ≤ x.issue) | none => true) then some (x.issue, v)
        else b
    | none => b) none
  match best with
  | some p => p.2
  | none => s.cu.stat.get (core * 256 + rec)

/-- Every value of a soft-maximum update (R125): the new A, the new B, the values computed on the way. -/
def smaxUpdate (r : BitVec 128) (xs : List Word) : BitVec 128 × List Word :=
  let a : Word := BitVec.ofNat 32 (fld r 31 0)
  let b : Word := BitVec.ofNat 32 (fld r 63 32)
  let mb := xs.tail.foldl (fun m x => numMax m (dec32 x)) (dec32 (xs.headD 0))
  let mn := rne32 (numMax (dec32 a) mb)
  let ds := xs.map fun x => rne32 (Num.add (dec32 x) (Num.neg (dec32 mn)))
  let es := ds.map (rowFn 3 0)
  let da := rne32 (Num.add (dec32 a) (Num.neg (dec32 mn)))
  let ea := rowFn 3 0 da
  let ts := treeSum es
  let b' := rne32 (Num.add (Num.mul (dec32 b) (dec32 ea)) (dec32 ts))
  let carried := if a = 0xFF800000#32 then [] else [da, ea]
  (mkStat mn b' (fld r 95 64), [mn, ts, b'] ++ ds ++ es ++ carried)

/-- An unsigned integer converted to binary32. -/
def natTo32 (n : Nat) : Word := rne32 (.fin false n 0)

/-- Every value of a normalisation update (R125). -/
def normUpdate (r : BitVec 128) (xs : List Word) : BitVec 128 × List Word :=
  let a : Word := BitVec.ofNat 32 (fld r 31 0)
  let b : Word := BitVec.ofNat 32 (fld r 63 32)
  let n := fld r 95 64
  let nb := xs.length
  let add := fun (x y : Word) => rne32 (Num.add (dec32 x) (dec32 y))
  let sub := fun (x y : Word) => rne32 (Num.add (dec32 x) (Num.neg (dec32 y)))
  let mul := fun (x y : Word) => rne32 (Num.mul (dec32 x) (dec32 y))
  let sum := treeSum xs
  let mb := div32 false sum (natTo32 nb)
  let sq := xs.map fun x => mul (sub x mb) (sub x mb)
  let q2 := treeSum sq
  let nn := min (n + nb) (2 ^ 32 - 1)
  let f := div32 false (natTo32 nb) (natTo32 nn)
  let dl := sub mb a
  let a' := rne32 (Num.add (Num.mul (dec32 dl) (dec32 f)) (dec32 a))
  let b' := add (add b q2) (mul (mul dl dl) (mul (natTo32 n) f))
  (mkStat a' b' nn, [sum, mb, q2, dl, a', b', add b q2, mul dl dl] ++ sq)

/-- One quarter's update of a record: the record and whether it sets the non-finite flag. P1 and P2 give the E1 and E2
results (R66), which the spec leaves open. -/
def statUpdate (profile kind : Nat) (r : BitVec 128) (xs : List Word) : BitVec 128 × Bool :=
  if xs.isEmpty then (r, false)
  else if profile = 3 then
    let u := if kind = 0 then smaxUpdate r xs else normUpdate r xs
    (u.1, (xs ++ u.2).any nonfinite32)
  else
    let e := Config.earlierStatistics profile kind r xs
    let v := mkStat (canonical32 (BitVec.ofNat 32 (fld e 31 0))) (canonical32 (BitVec.ofNat 32 (fld e 63 32))) (fld e 95 64)
    (v, xs.any nonfinite32 || nonfinite32 (BitVec.ofNat 32 (fld v 31 0)) ||
      nonfinite32 (BitVec.ofNat 32 (fld v 63 32)))

/-- RSTAT.SMAX and RSTAT.NORM: quarter p of VA updates record 64p + ROW from its first LV lanes (R124, R125). -/
def rstatUpdate (op : CoreOp) (s : State) (kind : Nat) : Out :=
  let w := op.word
  let row := fld w 43 38
  let lv := fld w 50 44
  let a := sourceA s op
  let us := (List.range 4).map fun p =>
    let rec' := 64 * p + row
    (rec', statUpdate (jobProfile s) kind (statWith s op.core rec' fun _ => true) ((a.drop (64 * p)).take lv))
  let recs := if lv = 0 then [] else us.map fun u => (u.1, u.2.1)
  coreOp s op
    [encodingUnless (decide (lv ≤ 64) && zeros w 63 51 && zeros w 17 12 && zeros w 35 24 && !flag w 37 && vaOk op), latA s op,
      rowBusy s op]
    (takeRow (pushResult s op 16 (.stat recs) (us.any fun u => u.2.2) false) op 4)

/-- RSTAT.SMAX. -/
def execRstatSmax (op : CoreOp) (s : State) : Out := rstatUpdate op s 0

/-- RSTAT.NORM. -/
def execRstatNorm (op : CoreOp) (s : State) : Out := rstatUpdate op s 1

/-- RSTAT.CLEAR (R125): A = −infinity or +0 by kind, B = +0, N = 0. -/
def execRstatClear (op : CoreOp) (s : State) : Out :=
  let w := op.word
  let first := fld w 46 39
  let count := fld w 55 47
  let v := mkStat (if flag w 38 then 0#32 else 0xFF800000#32) 0#32 0
  coreOp s op
    [encodingUnless (decide (first + count ≤ 256) && zeros w 63 56 && zeros w 37 12), rowBusy s op]
    (takeRow (pushResult s op 2 (.stat ((List.range count).map fun i => (first + i, v))) false false) op 1)

/-- RSTAT.READ: field A, B or N of records 0 to 255 into the lanes of VD (R125). -/
def execRstatRead (op : CoreOp) (s : State) : Out :=
  let w := op.word
  let t := opClk s op
  let lanes := (List.range 256).map fun i =>
    let r := statWith s op.core i fun x => decide (x.due < t)
    match fld w 39 38 with
    | 0 => (BitVec.ofNat 32 (fld r 31 0) : Word)
    | 1 => BitVec.ofNat 32 (fld r 63 32)
    | _ => natTo32 (fld r 95 64)
  coreOp s op
    [encodingUnless (decide (fld w 39 38 ≤ 2) && zeros w 63 40 && zeros w 37 18), rowBusy s op]
    (takeRow (pushResult s op 2 (.vector (fld w 17 12) 0 lanes) false false) op 1)

end Sys2Proof.Machine
end

