-- ==== Sys2Proof/Machine/Dispatch.lean ====
section
/-! DEFINITION. What each command does to the state: one direct call of its meaning (the queue is the step's). -/

namespace Sys2Proof.Machine

/-- The effect of a command. -/
def exec (i : Instr) (s : State) : Host.Outcome State Fault Refusal :=
  match i with
  | .nop op => Sys2Proof.Machine.execNop op s
  | .smovi op => Sys2Proof.Machine.execSmovi op s
  | .salu op => Sys2Proof.Machine.execSalu op s
  | .saddi op => Sys2Proof.Machine.execSaddi op s
  | .bstat op => Sys2Proof.Machine.execBstat op s
  | .smovv op => Sys2Proof.Machine.execSmovv op s
  | .vmovs op => Sys2Proof.Machine.execVmovs op s
  | .flags op => Sys2Proof.Machine.execFlags op s
  | .sweep op ecc => Sys2Proof.Machine.execSweep op ecc s
  | .zero op => Sys2Proof.Machine.execZero op s
  | .preload op ecc => Sys2Proof.Machine.execPreload op ecc s
  | .drain op => Sys2Proof.Machine.execDrain op s
  | .drainx op => Sys2Proof.Machine.execDrainx op s
  | .vfma op => Sys2Proof.Machine.execVfma op s
  | .vmul op => Sys2Proof.Machine.execVmul op s
  | .vadd op => Sys2Proof.Machine.execVadd op s
  | .vsub op => Sys2Proof.Machine.execVsub op s
  | .vmin op => Sys2Proof.Machine.execVmin op s
  | .vmax op => Sys2Proof.Machine.execVmax op s
  | .vcmp op => Sys2Proof.Machine.execVcmp op s
  | .vand op => Sys2Proof.Machine.execVand op s
  | .vor op => Sys2Proof.Machine.execVor op s
  | .vxor op => Sys2Proof.Machine.execVxor op s
  | .vshl op => Sys2Proof.Machine.execVshl op s
  | .vshr op => Sys2Proof.Machine.execVshr op s
  | .vsel op => Sys2Proof.Machine.execVsel op s
  | .vmov op => Sys2Proof.Machine.execVmov op s
  | .vcvt op => Sys2Proof.Machine.execVcvt op s
  | .vdrop op => Sys2Proof.Machine.execVdrop op s
  | .vld op ecc => Sys2Proof.Machine.execVld op ecc s
  | .vst op => Sys2Proof.Machine.execVst op s
  | .exp op => Sys2Proof.Machine.execExp op s
  | .log op => Sys2Proof.Machine.execLog op s
  | .rcp op => Sys2Proof.Machine.execRcp op s
  | .rsqrt op => Sys2Proof.Machine.execRsqrt op s
  | .rstatClear op => Sys2Proof.Machine.execRstatClear op s
  | .rstatSmax op => Sys2Proof.Machine.execRstatSmax op s
  | .rstatNorm op => Sys2Proof.Machine.execRstatNorm op s
  | .rstatRead op => Sys2Proof.Machine.execRstatRead op s
  | .regionSet op => Sys2Proof.Machine.execRegionSet op s
  | .regionReopen op => Sys2Proof.Machine.execRegionReopen op s
  | .regionStatus op => Sys2Proof.Machine.execRegionStatus op s
  | .streamFill op => Sys2Proof.Machine.execStreamFill op s
  | .streamSpill op => Sys2Proof.Machine.execStreamSpill op s
  | .streamArm op => Sys2Proof.Machine.execStreamArm op s
  | .streamLoad op => Sys2Proof.Machine.execStreamLoad op s
  | .stashPush op => Sys2Proof.Machine.execStashPush op s
  | .stashPop op => Sys2Proof.Machine.execStashPop op s
  | .linkSend op => Sys2Proof.Machine.execLinkSend op s
  | .linkRecv op => Sys2Proof.Machine.execLinkRecv op s
  | .netSend op ecc => Sys2Proof.Machine.execNetSend op ecc s
  | .loop op => Sys2Proof.Machine.execLoop op s
  | .loopBreak op => Sys2Proof.Machine.execLoopBreak op s
  | .branch op => Sys2Proof.Machine.execBranch op s
  | .skipIf op => Sys2Proof.Machine.execSkipIf op s
  | .wait op => Sys2Proof.Machine.execWait op s
  | .qmovi op => Sys2Proof.Machine.execQmovi op s
  | .qaddi op => Sys2Proof.Machine.execQaddi op s
  | .qalu op => Sys2Proof.Machine.execQalu op s
  | .collLaunch op => Sys2Proof.Machine.execCollLaunch op s
  | .epochAdvance op => Sys2Proof.Machine.execEpochAdvance op s
  | .mbSet op => Sys2Proof.Machine.execMbSet op s
  | .optLaunch op => Sys2Proof.Machine.execOptLaunch op s
  | .stepCommit op => Sys2Proof.Machine.execStepCommit op s
  | .bundleIssue arrived ahead => Sys2Proof.Machine.execBundleIssue arrived ahead s
  | .streamEndRelease => Sys2Proof.Machine.execStreamEndRelease s
  | .holdTimeout => Sys2Proof.Machine.execHoldTimeout s
  | .slip crossing late position => Sys2Proof.Machine.execSlip crossing late position s
  | .groupSumWrite core => Sys2Proof.Machine.execGroupSumWrite core s
  | .drainFirstRead core => Sys2Proof.Machine.execDrainFirstRead core s
  | .drainRowArrival core ecc => Sys2Proof.Machine.execDrainRowArrival core ecc s
  | .shortResultWrite core => Sys2Proof.Machine.execShortResultWrite core s
  | .regionProducerComplete core region elastic => Sys2Proof.Machine.execRegionProducerComplete core region elastic s
  | .regionConsumerComplete core region elastic ecc => Sys2Proof.Machine.execRegionConsumerComplete core region elastic ecc s
  | .memoryOperation m => Sys2Proof.Machine.execMemoryOperation m s
  | .accumulateOnWrite core engine element => Sys2Proof.Machine.execAccumulateOnWrite core engine element s
  | .memoryOperationComplete die pool => Sys2Proof.Machine.execMemoryOperationComplete die pool s
  | .patrolScrub addr ecc => Sys2Proof.Machine.execPatrolScrub addr ecc s
  | .hbmMaintenance stack channel => Sys2Proof.Machine.execHbmMaintenance stack channel s
  | .imbalanceWindow means => Sys2Proof.Machine.execImbalanceWindow means s
  | .spareTakeover position => Sys2Proof.Machine.execSpareTakeover position s
  | .coreFence value => Sys2Proof.Machine.execCoreFence value s
  | .clockLockLoss domain => Sys2Proof.Machine.execClockLockLoss domain s
  | .meadowsweetLaunchStart desc => Sys2Proof.Machine.execMeadowsweetLaunchStart desc s
  | .trustRatioSum desc => Sys2Proof.Machine.execTrustRatioSum desc s
  | .meadowsweetLaunchComplete desc => Sys2Proof.Machine.execMeadowsweetLaunchComplete desc s
  | .commitReductionLaunch => Sys2Proof.Machine.execCommitReductionLaunch s
  | .commitInstant => Sys2Proof.Machine.execCommitInstant s
  | .stepCommitComplete => Sys2Proof.Machine.execStepCommitComplete s
  | .tricklerCopy => Sys2Proof.Machine.execTricklerCopy s
  | .lowerLayerCopy slot layer => Sys2Proof.Machine.execLowerLayerCopy slot layer s
  | .snapshotComplete slot layer => Sys2Proof.Machine.execSnapshotComplete slot layer s
  | .layerCopyFail slot layer => Sys2Proof.Machine.execLayerCopyFail slot layer s
  | .recoveryDecide => Sys2Proof.Machine.execRecoveryDecide s
  | .restartBarrier => Sys2Proof.Machine.execRestartBarrier s
  | .releaseBarrier => Sys2Proof.Machine.execReleaseBarrier s
  | .startBarrier => Sys2Proof.Machine.execStartBarrier s
  | .launchSlotTest desc ecc => Sys2Proof.Machine.execLaunchSlotTest desc ecc s
  | .collectivePacket port p ecc => Sys2Proof.Machine.execCollectivePacket port p ecc s
  | .epochDrained port src epoch => Sys2Proof.Machine.execEpochDrained port src epoch s
  | .fenceExchange port coord jobtag => Sys2Proof.Machine.execFenceExchange port coord jobtag s
  | .mcastTimeout desc port => Sys2Proof.Machine.execMcastTimeout desc port s
  | .collectiveComplete desc => Sys2Proof.Machine.execCollectiveComplete desc s
  | .timestampExchange port t1 t2 t3 t4 stratum => Sys2Proof.Machine.execTimestampExchange port t1 t2 t3 t4 stratum s
  | .frequencyCorrection => Sys2Proof.Machine.execFrequencyCorrection s
  | .ptpMessage m frame => Sys2Proof.Machine.execPtpMessage m frame s
  | .signalDetect port => Sys2Proof.Machine.execSignalDetect port s
  | .trainingTimeout port => Sys2Proof.Machine.execTrainingTimeout port s
  | .trainingRetry port => Sys2Proof.Machine.execTrainingRetry port s
  | .identityBlock port b => Sys2Proof.Machine.execIdentityBlock port b s
  | .identityWaitTimeout port => Sys2Proof.Machine.execIdentityWaitTimeout port s
  | .linkDown port => Sys2Proof.Machine.execLinkDown port s
  | .linkStateNotice port n => Sys2Proof.Machine.execLinkStateNotice port n s
  | .laneGroupError port group => Sys2Proof.Machine.execLaneGroupError port group s
  | .speedwellPacket port p ack => Sys2Proof.Machine.execSpeedwellPacket port p ack s
  | .replayRequest port lseq => Sys2Proof.Machine.execReplayRequest port lseq s
  | .topologyUpdate path bytes => Sys2Proof.Machine.execTopologyUpdate path bytes s
  | .retrain port => Sys2Proof.Machine.execRetrain port s
  | .attestationRequest port nonce => Sys2Proof.Machine.execAttestationRequest port nonce s
  | .rdmaRead source key offset length kind frame => Sys2Proof.Machine.execRdmaRead source key offset length kind frame s
  | .transferComplete id t frame => Sys2Proof.Machine.execTransferComplete id t frame s
  | .transferTimeout id => Sys2Proof.Machine.execTransferTimeout id s
  | .storeRetry target => Sys2Proof.Machine.execStoreRetry target s
  | .directoryPoll => Sys2Proof.Machine.execDirectoryPoll s
  | .leaseConfirm => Sys2Proof.Machine.execLeaseConfirm s
  | .leaseRenewal => Sys2Proof.Machine.execLeaseRenewal s
  | .leaseLapse => Sys2Proof.Machine.execLeaseLapse s
  | .leaseGraceExpiry => Sys2Proof.Machine.execLeaseGraceExpiry s
  | .datasetFeedRead => Sys2Proof.Machine.execDatasetFeedRead s
  | .statusRewrite => Sys2Proof.Machine.execStatusRewrite s
  | .boot => Sys2Proof.Machine.execBoot s
  | .interlockAsserted => Sys2Proof.Machine.execInterlockAsserted s
  | .interlockLoss => Sys2Proof.Machine.execInterlockLoss s
  | .program chunk => Sys2Proof.Machine.execProgram chunk s
  | .commitRecord => Sys2Proof.Machine.execCommitRecord s
  | .reboot => Sys2Proof.Machine.execReboot s
  | .personalise => Sys2Proof.Machine.execPersonalise s
  | .seal => Sys2Proof.Machine.execSeal s
  | .returnLife => Sys2Proof.Machine.execReturnLife s
  | .close => Sys2Proof.Machine.execClose s
  | .jobStopGraceful => Sys2Proof.Machine.execJobStopGraceful s
  | .jobStopImmediate => Sys2Proof.Machine.execJobStopImmediate s
  | .attestGo => Sys2Proof.Machine.execAttestGo s
  | .attestReportComplete => Sys2Proof.Machine.execAttestReportComplete s
  | .session f role key signature => Sys2Proof.Machine.execSession f role key signature s
  | .sessionTimeout => Sys2Proof.Machine.execSessionTimeout s
  | .sessionLockoutEnd => Sys2Proof.Machine.execSessionLockoutEnd s
  | .enum f => Sys2Proof.Machine.execEnum f s
  | .read f => Sys2Proof.Machine.execRead f s
  | .write f => Sys2Proof.Machine.execWrite f s
  | .chainForward f => Sys2Proof.Machine.execChainForward f s
  | .chainBypass closed => Sys2Proof.Machine.execChainBypass closed s
  | .registerWrite offset value => Sys2Proof.Machine.execRegisterWrite offset value s
  | .linkEpochLoRead reader => Sys2Proof.Machine.execLinkEpochLoRead reader s
  | .cntValLoRead reader n => Sys2Proof.Machine.execCntValLoRead reader n s
  | .cntBeatsLoRead reader => Sys2Proof.Machine.execCntBeatsLoRead reader s
  | .auditSuppressedFlush => Sys2Proof.Machine.execAuditSuppressedFlush s
  | .retain => Sys2Proof.Machine.execRetain s
  | .standby failed => Sys2Proof.Machine.execStandby failed s
  | .shutdown failed => Sys2Proof.Machine.execShutdown failed s
  | .wake => Sys2Proof.Machine.execWake s
  | .wakeSend ports => Sys2Proof.Machine.execWakeSend ports s
  | .speedwellWakePattern port => Sys2Proof.Machine.execSpeedwellWakePattern port s
  | .ethernetWakePattern => Sys2Proof.Machine.execEthernetWakePattern s
  | .retidleExpiry => Sys2Proof.Machine.execRetidleExpiry s
  | .domainReady domain step => Sys2Proof.Machine.execDomainReady domain step s
  | .domainWakeFail domain => Sys2Proof.Machine.execDomainWakeFail domain s
  | .mgmtDomainIdleOff => Sys2Proof.Machine.execMgmtDomainIdleOff s
  | .paceFastCheck watts => Sys2Proof.Machine.execPaceFastCheck watts s
  | .paceDecision => Sys2Proof.Machine.execPaceDecision s
  | .thermalReading logic hbm => Sys2Proof.Machine.execThermalReading logic hbm s
  | .powerGoodFall rail => Sys2Proof.Machine.execPowerGoodFall rail s
  | .referenceLoss => Sys2Proof.Machine.execReferenceLoss s
  | .alwaysOnLoss => Sys2Proof.Machine.execAlwaysOnLoss s
  | .full => Sys2Proof.Machine.execFull s
  | .fullComplete failed => Sys2Proof.Machine.execFullComplete failed s
  | .invalidate => Sys2Proof.Machine.execInvalidate s
  | .trainingComplete port => Sys2Proof.Machine.execTrainingComplete port s
  | .bootStageComplete r => Sys2Proof.Machine.execBootStageComplete r s
  | .epochLoadWaitExpiry neighbour => Sys2Proof.Machine.execEpochLoadWaitExpiry neighbour s
  | .ethernetLinkDown => Sys2Proof.Machine.execEthernetLinkDown s
  | .ethernetLinkUp eight => Sys2Proof.Machine.execEthernetLinkUp eight s
  | .arpOrEchoRequest r address frame => Sys2Proof.Machine.execArpOrEchoRequest r address frame s

end Sys2Proof.Machine
end

