-- ==== Sys2Proof/Safety.lean ====
section
/-! DEFINITION. What counts as a safe run: every step answers a next state; the fuses are one-way and agree with the
life-cycle state (R410, R411); the parts of the state that the spec counts keep their number. -/

namespace Sys2Proof.Machine

/-- An outcome is a next state. -/
def Answers (o : Host.Outcome State Fault Refusal) : Prop := ∃ t, o = .next t

/-- What the fuses and the identity key hold (R410, R411): no life-cycle code above Returned; an identity key from Maker
on; installer entries from Field on, at most eight. -/
def fuseForm (s : State) : Prop :=
  s.sec.life.toNat ≤ 4 ∧ (s.sec.idDraw.isSome = true ↔ s.sec.life ≠ 0) ∧
    (s.sec.enrolled ≠ [] ↔ 3 ≤ s.sec.life.toNat) ∧ s.sec.enrolled.length ≤ 8

/-- From s to t the fuses only advance: the life-cycle state and the SVN floor do not fall, enrolled hashes stay, an
identity key is kept (R410, R411, R407). -/
def fusesAdvance (s t : State) : Prop :=
  s.sec.life.toNat ≤ t.sec.life.toNat ∧ s.sec.svn.toNat ≤ t.sec.svn.toNat ∧ s.sec.enrolled <+: t.sec.enrolled ∧
    (s.sec.idDraw.isSome = true → t.sec.idDraw = s.sec.idDraw)

/-- The numbers the spec counts: seven ports (R284), twenty positions (R22), two snapshot slots (R352). -/
def shapeForm (s : State) : Prop :=
  s.link.ports.length = 7 ∧ s.pwr.positions.length = 20 ∧ s.rsl.slots.length = 2

/-- A state is safe: its fuses have their form and its parts their number. -/
def SafeState (s : State) : Prop := fuseForm s ∧ shapeForm s

/-! ### What the statements say of a command -/

/-- The parts of the state. -/
inductive Part where
  | pending | uptime | drawn | cu | seq | mem | stash | link | time | coll | commit | rsl | eth | sec | pwr | mon | outbox
  deriving DecidableEq, Repr

/-- A part is the same in two states. -/
def samePart (s t : State) : Part → Prop
  | .pending => t.pending = s.pending
  | .uptime => t.uptime = s.uptime
  | .drawn => t.drawn = s.drawn
  | .cu => t.cu = s.cu
  | .seq => t.seq = s.seq
  | .mem => t.mem = s.mem
  | .stash => t.stash = s.stash
  | .link => t.link = s.link
  | .time => t.time = s.time
  | .coll => t.coll = s.coll
  | .commit => t.commit = s.commit
  | .rsl => t.rsl = s.rsl
  | .eth => t.eth = s.eth
  | .sec => t.sec = s.sec
  | .pwr => t.pwr = s.pwr
  | .mon => t.mon = s.mon
  | .outbox => t.outbox = s.outbox

/-- From s to t no part changes but those listed: the frame. -/
def onlyParts (ps : List Part) (s t : State) : Prop := ∀ p, p ∉ ps → samePart s t p

/-- The command answers a next state, changes no part but those listed, and P holds of that state. -/
def Does (c : Instr) (s : State) (ps : List Part) (P : State → Prop) : Prop :=
  ∃ t, exec c s = .next t ∧ onlyParts ps s t ∧ P t

/-- Every child of this device in the job tree has sent its payload for an exchange (R341, R347, R367). -/
def kidsMet (s : State) (exchange : Nat) (own : List Byte) : Prop :=
  ∀ c ∈ treeChildren (jobTopo s) 7 (myRank s), ∃ k ∈ (joinOf s exchange).kids, k.1 = c ∧ kidMeets s exchange own k = true

/-- Nothing that goes on by itself is left to do, rails and power states apart: no operation waits for a tag, no beat is held, no packet
waits on a port, the status record is not being rewritten, no seal is due (log entry 1). -/
def quiet (s : State) : Prop :=
  s.mem.held = [] ∧ s.seq.hold = none ∧ (∀ q ∈ s.link.ports, q.waiting = []) ∧ s.eth.rewrite = 0 ∧ s.sec.sealDue = false

/-- The cores after an operation of latency `lat` has issued in clk c with result d: due at the end of clk c + lat − 1
(R146), its registers readable from clk c + lat (R148); nothing else of the cores changes. -/
def issued (s : State) (op : CoreOp) (lat : Nat) (d : Dest) (nonfin satf : Bool) : Cores :=
  { s.cu with
    inflight := insertDue
      { core := op.core, slot := op.slot, bundle := bundleNow s, issue := opClk s op, due := opClk s op + lat - 1,
        dest := d, nonfin := nonfin, satf := satf } s.cu.inflight
    readyV := match d with
      | .vector r _ _ => s.cu.readyV.set (op.core * 64 + r) (BitVec.ofNat 64 (opClk s op + lat))
      | _ => s.cu.readyV
    readyS := match d with
      | .scalar r vals =>
        s.cu.readyS.setList (op.core * 32 + r) (vals.map fun _ => BitVec.ofNat 64 (opClk s op + lat))
      | _ => s.cu.readyS }

/-- A scalar register may be read by an operation: R148 finds no early read. -/
def readsS (s : State) (op : CoreOp) (r : Nat) : Prop := latS s op.core r (opClk s op) = none

/-- A vector register may be read by an operation. -/
def readsV (s : State) (op : CoreOp) (r : Nat) : Prop := latV s op.core r (opClk s op) = none

end Sys2Proof.Machine
end

