-- ==== Sys2Proof/Certificates/Slice0/Obligations.lean ====
section
/-! DEFINITION. The statements for the provers, one definition each. `Does` (Safety.lean) says that a command answers a
next state, which parts of the state it may change, and what holds after it. -/

open Sys2Proof Sys2Proof.Machine

/-- With command c at the front of the queue, the step is the effect of c on the state whose queue is the rest (the queue
is the model's, log entry 2). With no command waiting one tick passes (log entry 1). Where nothing is left to do by
itself (no operation waiting for a tag, no held beat, no waiting packet, settled rails, no rewrite of the status
record, no seal due, no power transition), the epoch counter of a device out of reset counts one and nothing else
changes but the model's count of ticks. The tick that follows the command completes an entry to a lower power state
(log entry 37): the device is in that state and no longer busy; only the rails (log entry 61), the counter and the
count of ticks change besides.
(00_scope.md, R314, R443.) -/
def Obligations.StepRunsTheFrontCommand : Prop :=
  (∀ (c : Instr) (rest : List Instr) (s : State),
    step { s with pending := c :: rest } = exec c { s with pending := rest }) ∧
  ∀ s : State, s.pending = [] → quiet s →
    let ticked : Time := { s.time with epoch := if 1 ≤ s.sec.stage then s.time.epoch + 1 else s.time.epoch }
    (railTick s = s → s.pwr.busy = false → ∃ t, step s = .next t ∧ onlyParts [.uptime, .time] s t ∧
      t.uptime = s.uptime + 1 ∧ t.time = ticked) ∧
    (lowering s = true → s.pwr.latched = [] → s.sec.stage ≠ 3 ∨ s.pwr.intlk = false →
      ∃ t, step s = .next t ∧ onlyParts [.uptime, .time, .pwr] s t ∧ t.uptime = s.uptime + 1 ∧ t.time = ticked ∧
        t.pwr = { (railTick s).pwr with state := s.pwr.goal, busy := false, result := 0 })

/-- Every command answers a next state from every state (no fault, no refusal), and the queue of waiting commands is
unchanged by it. The queue is the model's own (log entry 2).
(00_scope.md.) -/
def Obligations.CommandsLeaveTheQueue : Prop :=
  ∀ (c : Instr) (s : State), ∃ t, exec c s = .next t ∧ t.pending = s.pending

/-- After reset the fuses are those of a Blank part with no identity key and no installer keys, and the device has seven
ports, twenty core positions and two snapshot slots. That a part at reset is Blank is the model's choice (log entry
6).
(R284, R22, R352, R410, R411.) -/
def Obligations.ResetIsSafe : Prop :=
  SafeState State.reset ∧ State.reset.mem.hbm.wf = true ∧ State.reset.pending = []

/-- From every state whose fuses have their form (a life-cycle code of at most 4, an identity key exactly from Maker on,
installer entries exactly from Field on and at most eight), whichever command stands in front: the next state's fuses
have that form too, the life-cycle state and the SVN floor have not fallen, no enrolled installer key is lost or
changed, and an identity key once generated is kept.
(R407, R410, R411.) -/
def Obligations.FusesOnlyAdvance : Prop :=
  ∀ s t : State, fuseForm s → step s = .next t → fuseForm t ∧ fusesAdvance s t

/-- Whichever command stands in front of the queue, and on the idle tick, a state with seven Speedwell ports, twenty core
positions and two snapshot slots goes to one with the same numbers.
(R22, R284, R352.) -/
def Obligations.PartsKeepTheirNumber : Prop :=
  ∀ s t : State, shapeForm s → step s = .next t → shapeForm t

/-- If HBM is in canonical form (addresses strictly rising, no byte listed that equals what an unlisted address reads as),
it is so after every step, whichever command stands in front. The form is the model's (log entry 5).
(R214, R226.) -/
def Obligations.MemoryStaysCanonical : Prop :=
  ∀ s t : State, s.mem.hbm.wf = true → step s = .next t → t.mem.hbm.wf = true

/-- A core operation of a logical core that the job image does not declare active, or one that comes while no bundle
issues, leaves the whole state as it is, whatever its class and opcode; the same of a chip operation while no bundle
issues. That a core of the job image that is not active issues nothing is R142's; that an operation which comes while
no bundle issues does nothing is the model's choice (log entry 2).
(R142, R143.) -/
def Obligations.IdleCoresActOnNothing : Prop :=
  (∀ (c : Instr) (s : State) (n k : Nat) (op : CoreOp), c.coreCode = some (n, k, op) → coreActive s op.core = false →
      exec c s = .next s) ∧
    (∀ (c : Instr) (s : State) (n : Nat) (op : ChipOp), c.chipCode = some (n, op) → s.seq.current = none →
      exec c s = .next s)

/-- The all-zero core operation is the M-class no-operation, and it leaves the state as it is; so does a NOP with an
OFFSET.
(R139.) -/
def Obligations.NoOperationIssuesNoAction : Prop :=
  ∀ (op : CoreOp) (s : State), (Instr.nop op).wellFormed = true → zeros op.word 63 12 = true →
    exec (.nop op) s = .next s ∧ (op.word = 0 → ∀ ecc, decodeCoreOp op ecc = some (.nop op))

/-- In an issuing bundle on an active core, with reserved bits zero and sources that may be read: SMOVI gives its register
IMM; SALU the function FN of its two registers; SADDI the sum with IMM modulo 2^32; BSTAT the bank status word; SMOVV
one lane; VMOVS the scalar in all 256 lanes; FLAGS the core's sticky flags, with those of the bank events before the
clk. Each result is due at the end of clk c + 1; nothing else of the device changes but the counters and samples that
observe operations.
(R146, R179, R197, R198, R58, R84.) -/
def Obligations.ScalarOperationsComplete : Prop :=
  ∀ (op : CoreOp) (s : State), coreActive s op.core = true →
    let t := opClk s op
    let sd := fld op.word 16 12
    let sa := fld op.word 21 17
    let sb := fld op.word 26 22
    (zeros op.word 31 17 = true →
      Does (.smovi op) s [.cu, .mon] fun u =>
        u.cu = issued s op 2 (.scalar sd [BitVec.ofNat 32 (fld op.word 63 32)]) false false) ∧
    (∀ v, zeros op.word 63 31 = true → readsS s op sa → readsS s op sb →
      aluFn (fld op.word 30 27) (sregAt s op.core sa t) (sregAt s op.core sb t) = some v →
      Does (.salu op) s [.cu, .mon] fun u => u.cu = issued s op 2 (.scalar sd [v]) false false) ∧
    (zeros op.word 31 22 = true → readsS s op sa →
      Does (.saddi op) s [.cu, .mon] fun u =>
        u.cu = issued s op 2 (.scalar sd [sregAt s op.core sa t + BitVec.ofNat 32 (fld op.word 63 32)]) false false) ∧
    (zeros op.word 63 21 = true →
      Does (.bstat op) s [.cu, .mon] fun u =>
        u.cu = issued s op 2
          (.scalar sd [bankStatusAt s op.core (fld op.word 18 17) (fld op.word 20 19) t]) false false) ∧
    (zeros op.word 63 31 = true → readsV s op (fld op.word 22 17) →
      Does (.smovv op) s [.cu, .mon] fun u =>
        u.cu = issued s op 2
          (.scalar sd [vlaneAt s op.core (fld op.word 22 17) t (fld op.word 30 23)]) false false) ∧
    (zeros op.word 63 23 = true → readsS s op (fld op.word 22 18) →
      Does (.vmovs op) s [.cu, .mon] fun u =>
        u.cu = issued s op 2 (.vector (fld op.word 17 12) 0
          (List.replicate 256 (sregAt s op.core (fld op.word 22 18) t))) false false) ∧
    (zeros op.word 63 17 = true →
      Does (.flags op) s [.cu, .mon] fun u => u.cu = issued s op 2 (.scalar sd [flagsAt (settle s op.core (t - 1)) op.core t]) false false)

/-- The ten functions of the SALU function field, shifts by bits [4:0] of the second operand, all results modulo 2^32; a
reserved code raises ENCODING. FLAGS leaves the flags themselves as they are, and the completion of STEP.COMMIT clears
them.
(R198.) -/
def Obligations.ScalarFunctions : Prop :=
  (∀ a b : Word,
    aluFn 0 a b = some (BitVec.ofNat 32 (a.toNat + b.toNat)) ∧
    aluFn 1 a b = some (BitVec.ofInt 32 ((a.toNat : Int) - b.toNat)) ∧
    aluFn 2 a b = some (a &&& b) ∧ aluFn 3 a b = some (a ||| b) ∧ aluFn 4 a b = some (a ^^^ b) ∧
    aluFn 5 a b = some (BitVec.ofNat 32 (a.toNat * 2 ^ (b.toNat % 32))) ∧
    aluFn 6 a b = some (BitVec.ofNat 32 (a.toNat / 2 ^ (b.toNat % 32))) ∧
    aluFn 7 a b = some (BitVec.ofNat 32 (min a.toNat b.toNat)) ∧
    aluFn 8 a b = some (BitVec.ofNat 32 (max a.toNat b.toNat)) ∧
    aluFn 9 a b = some (BitVec.ofNat 32 (a.toNat * b.toNat)) ∧
    ∀ n, 10 ≤ n → aluFn n a b = none) ∧
  (∀ (op : CoreOp) (s : State), coreActive s op.core = true → s.seq.stopped = false → 10 ≤ fld op.word 30 27 →
    ∃ t, exec (.salu op) s = .next t ∧ t.seq.stopped = true ∧ t.seq.fault.code = 1 ∧ t.seq.fault.slot = op.slot) ∧
  (∀ (op : CoreOp) (s t : State), zeros op.word 63 17 = true → exec (.flags op) s = .next t →
    t.cu.nonfin = s.cu.nonfin ∧ t.cu.satf = s.cu.satf) ∧
  (∀ s : State, s.commit.phase = .decided → unitsResident s = true →
    ∃ t, exec .stepCommitComplete s = .next t ∧ t.cu.nonfin = 0 ∧ t.cu.satf = 0)

/-- In an issuing bundle on an active core, with reserved bits zero (with DP set the VA field too, R191) and sources that
may be read, each writes the 256 lanes of VD: the function of its sources lane by lane (or BF16 element by element
with PK), rounded once. VFMA and VMUL have latency 6, the others 4. The non-finite flag is set with the result exactly
when an operand or a result is non-finite. Nothing else changes but counters and samples.
(R64, R58, R146, R191, R192.) -/
def Obligations.VectorArithmeticCompletes : Prop :=
  ∀ (op : CoreOp) (s : State), coreActive s op.core = true → zeros op.word 63 38 = true → latA s op = none →
    (flag op.word 36 = true → zeros op.word 23 18 = true) → readsV s op (fld op.word 29 24) →
    let pk := flag op.word 37
    let a := sourceA s op
    let b := vregAt s op.core (fld op.word 29 24) (opClk s op)
    let c := vregAt s op.core (fld op.word 35 30) (opClk s op)
    let does := fun (i : Instr) (lat : Nat) (f : LaneFn) (c : List Word) =>
      let r := mapLanes (laneFn pk (isP1 s) f) a b c
      Does i s [.cu, .mon] fun u =>
        u.cu = issued s op lat (.vector (fld op.word 17 12) 0 r) ((r ++ a ++ b ++ c).any (nonfiniteLane pk)) false
    (readsV s op (fld op.word 35 30) → does (.vfma op) 6 (fun x y z => Machine.Num.add (Machine.Num.mul x y) z) c) ∧
    (zeros op.word 35 30 = true →
      does (.vmul op) 6 (fun x y _ => Machine.Num.mul x y) b ∧
      does (.vadd op) 4 (fun x y _ => Machine.Num.add x y) b ∧
      does (.vsub op) 4 (fun x y _ => Machine.Num.add x (Machine.Num.neg y)) b ∧
      does (.vmin op) 4 (fun x y _ => numMin x y) b ∧
      does (.vmax op) 4 (fun x y _ => numMax x y) b)

/-- In an issuing bundle on an active core, with reserved bits zero (with DP set the VA field too, R191) and sources that
may be read: VCMP writes all ones where its predicate holds (latency 4, flagging non-finite operands); VAND, VOR,
VXOR, VSHL, VSHR the bit function of the lanes, shifts by bits [4:0], VSEL a or b as c is non-zero or zero, a minus
zero of c counting as non-zero (log entry 18), VMOV its source (latency 2, no flag). Nothing else changes but counters
and samples.
(R58, R146, R191, R192.) -/
def Obligations.VectorLogicCompletes : Prop :=
  ∀ (op : CoreOp) (s : State), coreActive s op.core = true → latA s op = none →
    (flag op.word 36 = true → zeros op.word 23 18 = true) →
    let pk := flag op.word 37
    let vd := fld op.word 17 12
    let a := sourceA s op
    let b := vregAt s op.core (fld op.word 29 24) (opClk s op)
    let c := vregAt s op.core (fld op.word 35 30) (opClk s op)
    let does := fun (i : Instr) (lat : Nat) (r : List Word) (bad : Bool) =>
      Does i s [.cu, .mon] fun u => u.cu = issued s op lat (.vector vd 0 r) bad false
    (zeros op.word 63 40 = true → zeros op.word 35 30 = true → readsV s op (fld op.word 29 24) →
      does (.vcmp op) 4 (mapLanes (fun x y _ => laneCmp pk (isP1 s) (fld op.word 39 38) x y) a b b)
        ((a ++ b).any (nonfiniteLane pk))) ∧
    (zeros op.word 63 37 = true → zeros op.word 35 30 = true → readsV s op (fld op.word 29 24) →
      does (.vand op) 2 (mapLanes (fun x y _ => x &&& y) a b b) false ∧
      does (.vor op) 2 (mapLanes (fun x y _ => x ||| y) a b b) false ∧
      does (.vxor op) 2 (mapLanes (fun x y _ => x ^^^ y) a b b) false ∧
      does (.vshl op) 2 (mapLanes (fun x y _ => x <<< fld y 4 0) a b b) false ∧
      does (.vshr op) 2 (mapLanes (fun x y _ => x >>> fld y 4 0) a b b) false) ∧
    (zeros op.word 63 38 = true → readsV s op (fld op.word 29 24) → readsV s op (fld op.word 35 30) →
      does (.vsel op) 2 (mapLanes (laneSel pk) a b c) false) ∧
    (zeros op.word 63 38 = true → zeros op.word 35 24 = true → does (.vmov op) 2 a false)

/-- In an issuing bundle on an active core with sources that may be read, the fields as R193 and R194 require them, and no
second drawing operation of the core in the clk (R130): VCVT to binary32 writes the 256 elements of part PART widened
and scaled by 2^−K; VCVT to a narrow format writes each lane scaled by 2^K and rounded once, packed at part PART,
raises PENDING of its scale slot to the greatest magnitude, and with stochastic rounding moves DRAW of a sequential
generator slot on by 32; VDROP writes zero where the element's draw is below the threshold and the rounded product
elsewhere, and moves DRAW of its slot on by one for every eight elements. Latency 10; the sticky flags are set with
the result. No other register, slot or part of the state changes but counters and samples.
(R47, R49, R58, R69, R129, R131, R193, R194.) -/
def Obligations.ConversionsAndDropoutComplete : Prop :=
  ∀ (op : CoreOp) (s : State), coreActive s op.core = true → latA s op = none →
    let w := op.word
    let a := sourceA s op
    let p1 := isP1 s
    let drawn := fun (t : State) (slot draws : Nat) =>
      let k := op.core.val * 16 + slot
      let g := s.cu.gen.get k
      (∀ j, j ≠ k → t.cu.gen.get j = s.cu.gen.get j) ∧
        t.cu.gen.get k = if flag g 32 = true then putFld g 127 64 ((fld g 127 64 + draws) % 2 ^ 64) else g
    (vcvtOk s op = true → fld w 45 42 = 0 →
      let xs := (List.range 256).map fun n =>
        elementNum (fld w 41 38) (packedElem a (fmtBits (fld w 41 38)) (256 * fld w 63 62 + n)) 0
      let cs := xs.map (convertTo 0 .rne false p1 (-(slotK s op.core (fld w 52 49))))
      Does (.vcvt op) s [.cu, .mon] fun t =>
        t.cu = issued s op 10 (.vector (fld w 17 12) 0 (cs.map fun c => BitVec.ofNat 32 c.bits))
          (cs.any (·.nonfin) || xs.any (fun x => !x.finite)) (cs.any (·.clamped))) ∧
    (vcvtOk s op = true → fld w 45 42 ≠ 0 →
      (fld w 47 46 = 1 → readsS s op (fld w 61 57) ∧ readsS s op (fld w 61 57 + 1) ∧ drawBusy s op true = none) →
      let dst := fld w 45 42
      let part := fld w 63 62
      let slot := fld w 52 49
      let k := op.core.val * 16 + slot
      let d := vectorDraws s op (fld w 56 53) (pairBase s op (fld w 61 57)) (256 * part)
      let xs := a.map (f32In p1)
      let cs := xs.mapIdx fun n x =>
        convertTo dst (roundingOf (fld w 47 46) d (256 * part + n)) (flag w 48) p1 (slotK s op.core slot) x
      let lanes := bytesWords (8 * fmtBits dst) (packBits (fmtBits dst) (cs.map (·.bits)) (32 * fmtBits dst))
      Does (.vcvt op) s [.cu, .mon] fun t =>
        t.cu = { issued s op 10 (.vector (fld w 17 12) (8 * fmtBits dst * part) lanes)
            (cs.any (·.nonfin) || xs.any (fun x => !x.finite)) (cs.any (·.clamped)) with
          scale := t.cu.scale, gen := t.cu.gen, drawClk := t.cu.drawClk } ∧
        (∀ j, j ≠ k → t.cu.scale.get j = s.cu.scale.get j) ∧
        t.cu.scale.get k = (if slot = 0 then s.cu.scale.get k
          else putFld (s.cu.scale.get k) 87 56 (max (fld (s.cu.scale.get k) 87 56) ((xs.map pendingMag).foldl max 0))) ∧
        (fld w 47 46 = 0 → t.cu.gen = s.cu.gen) ∧ (fld w 47 46 = 1 → drawn t (fld w 56 53) 32)) ∧
    (flag w 63 = false → zeros w 35 30 = true → fld w 62 58 % 2 = 0 →
      (flag w 36 = true → zeros w 23 18 = true) → readsV s op (fld w 29 24) →
      readsS s op (fld w 62 58) → readsS s op (fld w 62 58 + 1) → drawBusy s op true = none →
      let b := vregAt s op.core (fld w 29 24) (opClk s op)
      let d := vectorDraws s op (fld w 41 38) (pairBase s op (fld w 62 58)) 0
      let n := if flag w 37 then 512 else 256
      let bits := if flag w 37 then 16 else 32
      let ys := (List.range n).map fun i =>
        dropElem (flag w 37) p1 (fld w 57 42) (d.value i) (packedElem a bits i) (packedElem b bits i)
      Does (.vdrop op) s [.cu, .mon] fun t =>
        t.cu = { issued s op 10 (.vector (fld w 17 12) 0 (bytesWords 256 (packBits bits (ys.map (·.1)) 1024)))
            (ys.any (·.2)) false with gen := t.cu.gen, drawClk := t.cu.drawClk } ∧
        drawn t (fld w 41 38) (n / 8))

/-- In an issuing bundle on an active core whose access is legal, lies in its span, meets no port clash and (with RG set)
finds its region ready: a VLD whose read shows no uncorrectable error has its 256 loaded lanes written to VD with
latency 5 and becomes a consumer of its region, a corrected error being counted for the core's position (R115); a VST
has VA, or the drain port, written at its address at the end of clk c + 2 and becomes a producer. With RG clear no
region changes. No register, store or other part of the state changes but counters and samples.
(R115, R121, R122, R146, R149, R151, R195.) -/
def Obligations.LoadsAndStoresComplete : Prop :=
  ∀ (op : CoreOp) (s : State), coreActive s op.core = true → vaccessOk s op = true → vaccessFits s op = true →
    readsS s op (fld op.word 28 24) →
    let n := fld op.word 47 40
    (zeros op.word 23 18 = true → flag op.word 36 = false →
      (flag op.word 39 = true → canConsume (regionOf s op.core n) = true) →
      portClash s op (vaccessClaims s op (opClk s op) false) = none →
      ∀ ecc, ecc ≠ Ecc.uncorrectable →
      Does (.vld op ecc) s [.cu, .pwr, .mon] fun t => t.pwr = (sramError s op.core ecc).pwr ∧
        (ecc = Ecc.clean → t.pwr = s.pwr) ∧
        (∃ x ∈ t.cu.inflight, x.core = op.core ∧ x.due = opClk s op + 4 ∧
          x.dest = .vector (fld op.word 17 12) 0 (loadLanes s op)) ∧
        (∀ k, k ≠ op.core.val * 256 + n ∨ flag op.word 39 = false → t.cu.region.get k = s.cu.region.get k) ∧
        (flag op.word 39 = true → regionOf t op.core n = consumerIssued (regionOf s op.core n)) ∧
        t.cu.tile = s.cu.tile ∧ t.cu.acc = s.cu.acc ∧ t.cu.vreg = s.cu.vreg ∧ t.cu.sreg = s.cu.sreg) ∧
    (zeros op.word 17 12 = true → (flag op.word 36 = true → zeros op.word 23 18 = true) → latA s op = none →
      (flag op.word 39 = true → canProduce (regionOf s op.core n) = true) →
      portClash s op (vaccessClaims s op (opClk s op + 2) true) = none →
      Does (.vst op) s [.cu, .mon] fun t =>
        (∃ x ∈ t.cu.inflight, x.core = op.core ∧ x.due = opClk s op + 2 ∧
          x.dest = if flag op.word 38 then .acc (vaddr s op) (sourceA s op) else .tile (vaddr s op) (sourceA s op)) ∧
        (∀ k, k ≠ op.core.val * 256 + n ∨ flag op.word 39 = false → t.cu.region.get k = s.cu.region.get k) ∧
        (flag op.word 39 = true → regionOf t op.core n = producerIssued (regionOf s op.core n)) ∧
        t.cu.tile = s.cu.tile ∧ t.cu.acc = s.cu.acc ∧ t.cu.vreg = s.cu.vreg ∧ t.cu.sreg = s.cu.sreg)

/-- In an issuing bundle on an active core with a free row unit, reserved bits zero (with DP set the VA field too, R191)
and readable source: the four functions write VD with latency 14 and flag non-finite lanes; RSTAT.SMAX and RSTAT.NORM
write the records 64p + ROW of their quarters with latency 16; each occupies the unit for 4 clks. RSTAT.CLEAR sets
COUNT records from FIRST and RSTAT.READ writes one field of every record to VD, with latency 2 and occupancy 1.
Nothing else changes but counters and samples.
(R65, R122, R123, R124, R125, R126, R196.) -/
def Obligations.RowUnitOperationsComplete : Prop :=
  ∀ (op : CoreOp) (s : State), coreActive s op.core = true → rowBusy s op = none →
    let w := op.word
    let vd := fld w 17 12
    let a := sourceA s op
    let does := fun (i : Instr) (lat occ : Nat) (d : Dest) (bad : Bool) =>
      Does i s [.cu, .mon] fun t => t.cu = { issued s op lat d bad false with
        rowFree := s.cu.rowFree.set op.core (BitVec.ofNat 64 (opClk s op + occ)) }
    let fn := fun (i : Instr) (f : Nat) =>
      does i 14 4 (.vector vd 0 (a.map (rowFn (jobProfile s) f)))
        ((a.map (rowFn (jobProfile s) f) ++ a).any nonfinite32)
    let upd := fun (i : Instr) (kind : Nat) =>
      let u := fun p => statUpdate (jobProfile s) kind (statWith s op.core (64 * p + fld w 43 38) fun _ => true)
        ((a.drop (64 * p)).take (fld w 50 44))
      does i 16 4 (.stat (if fld w 50 44 = 0 then [] else (List.range 4).map fun p => (64 * p + fld w 43 38, (u p).1)))
        ((List.range 4).any fun p => (u p).2)
    (zeros w 63 37 = true → zeros w 35 24 = true → (flag w 36 = true → zeros w 23 18 = true) → latA s op = none →
      fn (.exp op) 0 ∧ fn (.log op) 1 ∧ fn (.rcp op) 2 ∧ fn (.rsqrt op) 3) ∧
    (fld w 50 44 ≤ 64 → zeros w 63 51 = true → zeros w 17 12 = true → zeros w 35 24 = true →
      flag w 37 = false → (flag w 36 = true → zeros w 23 18 = true) → latA s op = none → upd (.rstatSmax op) 0 ∧ upd (.rstatNorm op) 1) ∧
    (fld w 46 39 + fld w 55 47 ≤ 256 → zeros w 63 56 = true → zeros w 37 12 = true →
      does (.rstatClear op) 2 1 (.stat ((List.range (fld w 55 47)).map fun i =>
        (fld w 46 39 + i, mkStat (if flag w 38 then 0#32 else 0xFF800000#32) 0#32 0))) false) ∧
    (fld w 39 38 ≤ 2 → zeros w 63 40 = true → zeros w 37 18 = true →
      does (.rstatRead op) 2 1 (.vector vd 0 ((List.range 256).map fun i =>
        let r := statWith s op.core i fun x => decide (x.due < opClk s op)
        match fld w 39 38 with
        | 0 => BitVec.ofNat 32 (fld r 31 0)
        | 1 => BitVec.ofNat 32 (fld r 63 32)
        | _ => natTo32 (fld r 95 64))) false)

/-- In an issuing bundle on an active core, when none of the conditions for which R177 names a fault holds: a SWEEP whose
reads show no uncorrectable error joins the sweeps with its captured descriptors, becomes a consumer of each region it
names once and claims its reads; ZERO and PRELOAD join the initialisations of their banks, PRELOAD becoming a consumer
of its region and claiming its reads; DRAIN and DRAINX join the drains, becoming a producer of their region unless
they go to the vector drain port, and claim their destination's ports; a DRAINX captures its shadow. A corrected error
of a read is counted for the core's position (R115). No bank entry, status word, vector or scalar register, tile or
accumulator word changes at issue, nor any part of the state but the cores, that count, counters and samples.
(R73, R75, R80, R81, R88, R96, R115, R151, R177, R180, R185, R187.) -/
def Obligations.ArrayOperationsComplete : Prop :=
  ∀ (op : CoreOp) (s : State), coreActive s op.core = true →
    let w := op.word
    let core := op.core.val
    let same := fun (t : State) (ns : List Nat) =>
      (∀ k, (∀ n ∈ ns, k ≠ core * 256 + n) → t.cu.region.get k = s.cu.region.get k) ∧
        t.cu.bank = s.cu.bank ∧ t.cu.bstat = s.cu.bstat ∧ t.cu.vreg = s.cu.vreg ∧ t.cu.sreg = s.cu.sreg ∧
        t.cu.tile = s.cu.tile ∧ t.cu.acc = s.cu.acc
    let claimed := fun (t : State) (claims : List (Nat × Nat)) => t.cu.ports = (takePorts s op claims).cu.ports
    let counted := fun (t : State) (ecc : Ecc) =>
      t.pwr = (sramError s core ecc).pwr ∧ (ecc = Ecc.clean → t.pwr = s.pwr)
    (let v := sweepOf s op
     sweepEncoding s op = true → readsS s op (fld w 61 57) → readsS s op (fld w 61 57 + 1) → preloadLatency s v = none →
      drainLatencyFault s v = none → (∀ n ∈ sweepRegions op, canConsume (regionOf s core n) = true) →
      sweepBound s op v = none → sweepBusy s v = none → portClash s op (sweepClaims v) = none →
      ∀ ecc, ecc ≠ Ecc.uncorrectable →
      Does (.sweep op ecc) s [.cu, .pwr, .mon] fun t => t.cu.sweeps = s.cu.sweeps ++ [v] ∧
        same t (sweepRegions op) ∧ claimed t (sweepClaims v) ∧ counted t ecc ∧
        (∀ n ∈ sweepRegions op, n < 256 → regionOf t core n = consumerIssued (regionOf s core n))) ∧
    (fld w 15 12 ≠ 0 → zeros w 63 18 = true →
      Does (.zero op) s [.cu, .mon] fun t => t.cu = { s.cu with inits := s.cu.inits ++
        [{ core := core, mask := fld w 15 12, bank := fld w 17 16, clk := opClk s op, preload := false, base := 0,
           acc48 := false, width := 0, done := 0 }] }) ∧
    (let n := fld w 28 21
     let d := regionOf s core n
     let acc48 := rFmt d == 10
     let o := rBase d + fld w 42 29
     let claims := preloadClaims core (opClk s op) o (fld w 15 12) acc48
     fld w 15 12 ≠ 0 → zeros w 20 18 = true → zeros w 63 43 = true → rSpace d = 1 → (rFmt d = 0 ∨ rFmt d = 10 ∧ o % 2 = 0) →
      canConsume d = true → rowsFit d (fld w 42 29) (fld w 15 12) = true →
      (∀ x ∈ s.cu.inits, x.preload = true → x.core = core → x.mask &&& fld w 15 12 ≠ 0 → x.clk + 64 ≤ opClk s op) →
      portClash s op claims = none → ∀ ecc, ecc ≠ Ecc.uncorrectable →
      Does (.preload op ecc) s [.cu, .pwr, .mon] fun t => t.cu.inits = s.cu.inits ++
          [{ core := core, mask := fld w 15 12, bank := fld w 17 16, clk := opClk s op, preload := true, base := o,
             acc48 := acc48, width := jobWidth s, done := 0 }] ∧
        same t [n] ∧ claimed t claims ∧ counted t ecc ∧ regionOf t core n = consumerIssued d) ∧
    ∀ copy : Bool,
      let i : Instr := if copy = true then .drainx op else .drain op
      let n := fld w 28 21
      let v := drainOf s op copy
      fld w 15 12 ≠ 0 → zeros w 63 59 = true → (copy = true → flag w 18 = false) → drainDestOk s op v.regDesc = true →
      drainMaskOk s op v.regDesc = true → (∀ x ∈ drainRegLatency s op, x = none) →
      (fld w 20 19 ≠ 2 → canProduce v.regDesc = true) → drainFits op v.regDesc = true →
      (∀ x ∈ s.cu.drains, x.core = core → x.mask &&& v.mask ≠ 0 → v.first ≤ x.first + 63 → x.first + 63 < v.first) →
      portClash s op (drainClaims v) = none →
      Does i s [.cu, .mon] fun t =>
        t.cu.drains = s.cu.drains ++ [{ v with shadow := if copy = true then shadowOf s v else [] }] ∧
        same t [n] ∧ claimed t (drainClaims v) ∧
        regionOf t core n = if fld w 20 19 = 2 then regionOf s core n else producerIssued (regionOf s core n)

/-- In an issuing bundle on an active core, with no failing check and a step open: when the ECC of the tile-store or
buffer reads of a SWEEP, PRELOAD, VLD or NET.SEND shows an uncorrectable error, issue stops, the recovery waits for
its decide barrier with cause 0x03, and the elastic work and the launches are cancelled. The life-cycle state and the
time base keep their values.
(R115, R280, R367.) -/
def Obligations.UncorrectableReadsAbandonTheStep : Prop :=
  ∀ (op : CoreOp) (s : State), coreActive s op.core = true → stepOpen s = true →
    let w := op.word
    let d := regionOf s op.core (fld w 28 21)
    let o := rBase d + fld w 42 29
    let abandoned := fun (i : Instr) => ∃ t, exec i s = .next t ∧ t.rsl.phase = .decide ∧ t.rsl.cause = 3 ∧
      t.seq.running = false ∧ t.cu.captured = [] ∧ t.stash.ops = [] ∧ t.coll.launches = [] ∧ t.mem.launches = [] ∧
      t.sec.life = s.sec.life ∧ t.time = s.time
    (firstFault (sweepChecks s op) = none → abandoned (.sweep op .uncorrectable)) ∧
    (fld w 15 12 ≠ 0 → zeros w 20 18 = true → zeros w 63 43 = true → rSpace d = 1 → (rFmt d = 0 ∨ rFmt d = 10 ∧ o % 2 = 0) →
      canConsume d = true → rowsFit d (fld w 42 29) (fld w 15 12) = true →
      (∀ x ∈ s.cu.inits, x.preload = true → x.core = op.core.val → x.mask &&& fld w 15 12 ≠ 0 → x.clk + 64 ≤ opClk s op) →
      portClash s op (preloadClaims op.core (opClk s op) o (fld w 15 12) (rFmt d == 10)) = none →
      abandoned (.preload op .uncorrectable)) ∧
    (vaccessOk s op = true → vaccessFits s op = true → readsS s op (fld w 28 24) → zeros w 23 18 = true →
      flag w 36 = false → (flag w 39 = true → canConsume (regionOf s op.core (fld w 47 40)) = true) →
      portClash s op (vaccessClaims s op (opClk s op) false) = none → abandoned (.vld op .uncorrectable)) ∧
    (firstFault (netChecks s op) = none → abandoned (.netSend op .uncorrectable))

/-- For every descriptor: a load makes it filling with all producers and consumers to come, or ready where PCOUNT is 0 and
then free where CCOUNT is 0 as well; an issuing producer takes one from PTODO; an issuing consumer takes one from
CTODO and makes the region consuming; the last producer to complete makes it ready, or free where no consumer is left;
the last consumer makes it free; and none of these changes the placement, the format or the bound.
(R149, R151.) -/
def Obligations.RegionStatesFollowTheirCounts : Prop :=
  ∀ d : BitVec 128,
    rState (regionLoaded d) = (if rPcount d ≠ 0 then 1 else if rCcount d ≠ 0 then 2 else 0) ∧
    rPtodo (regionLoaded d) = rPcount d ∧ rCtodo (regionLoaded d) = rCcount d ∧
    (0 < rPtodo d → rPtodo (producerIssued d) = rPtodo d - 1 ∧ rState (producerIssued d) = rState d) ∧
    (0 < rCtodo d → rCtodo (consumerIssued d) = rCtodo d - 1 ∧ rState (consumerIssued d) = 3) ∧
    (0 < rPcount d → rPcount (producerDone d) = rPcount d - 1 ∧
      rState (producerDone d) =
        (if rPcount d ≠ 1 then rState d else if rCcount d = 0 then 0 else 2)) ∧
    (0 < rCcount d → rCcount (consumerDone d) = rCcount d - 1 ∧
      rState (consumerDone d) = (if rCcount d = 1 then 0 else rState d)) ∧
    (∀ f ∈ [regionLoaded, producerIssued, consumerIssued, producerDone, consumerDone],
      fld (f d) 63 0 = fld d 63 0 ∧ rStride (f d) = rStride d)

/-- In an issuing bundle on an active core: REGION.SET of a free region loads the legal descriptor of its four registers;
REGION.REOPEN of a ready region with no issued consumer gives it P new producers and clears ABSENT; REGION.STATUS
writes descriptor bits [95:64] and [103:96] as they stood before the clk to its register pair with latency 2; NET.SEND
between two regions of one space, layout and format, each in the state it needs and large enough, with no receive
window overlapping and no port clash, becomes a consumer of its region and a producer of the receiver's, and its words
are on their way. Only the cores, the count of a corrected error, counters and samples change; no register but the
named ones, and no word of a store.
(R115, R146, R149, R151, R152, R200, R201, R206.) -/
def Obligations.RegionOperationsComplete : Prop :=
  ∀ (op : CoreOp) (s : State), coreActive s op.core = true →
    let w := op.word
    let n := fld w 19 12
    let core := op.core.val
    let key := core * 256 + n
    let same := fun (t : State) => t.cu.vreg = s.cu.vreg ∧ t.cu.sreg = s.cu.sreg ∧ t.cu.tile = s.cu.tile ∧
      t.cu.acc = s.cu.acc ∧ t.cu.bank = s.cu.bank ∧ t.cu.inflight = s.cu.inflight
    (zeros w 63 25 = true → fld w 24 20 % 4 = 0 → regionLegal (regionArg s op) = true →
      (∀ k < 4, readsS s op (fld w 24 20 + k)) → rState (regionOf s core n) = 0 →
      Does (.regionSet op) s [.cu, .mon] fun t =>
        t.cu.region = s.cu.region.set key (regionLoaded (regionArg s op)) ∧ same t) ∧
    (zeros w 63 28 = true → rState (regionOf s core n) = 2 →
      rCtodo (regionOf s core n) = rCcount (regionOf s core n) →
      Does (.regionReopen op) s [.cu, .mon] fun t =>
        t.cu.region = s.cu.region.set key (regionReopened (regionOf s core n) (fld w 27 20)) ∧ same t) ∧
    (zeros w 63 25 = true → fld w 24 20 % 2 = 0 →
      let d := regionAt s core n (opClk s op)
      Does (.regionStatus op) s [.cu, .mon] fun t =>
        t.cu = issued s op 2 (.scalar (fld w 24 20) [BitVec.ofNat 32 (fld d 95 64), BitVec.ofNat 32 (fld d 103 96)])
          false false) ∧
    (let dst := fld w 15 12
     let d := regionOf s core (fld w 23 16)
     let e := netTarget s op
     let count := fld w 47 32
     zeros w 63 48 = true → dst < jobCores s → dst ≠ core → rSpace d = rSpace e → rLayout d = rLayout e → rFmt d = rFmt e →
      (rLayout d = 0 → rStride d = rStride e) → (rLayout d ≠ 0 → count % 4096 = 0) → rLayout d ≤ 1 →
      canConsume d = true → canProduce e = true → count ≤ rBound d → count ≤ rBound e →
      (∀ x ∈ s.cu.nets, netOverlap (netCopyOf s op) x = false) → portClash s op (netClaims s op) = none →
      ∀ ecc, ecc ≠ Ecc.uncorrectable →
      Does (.netSend op ecc) s [.cu, .pwr, .mon] fun t =>
        (∀ k, k ≠ core * 256 + fld w 23 16 → k ≠ dst * 256 + fld w 31 24 → t.cu.region.get k = s.cu.region.get k) ∧
        regionOf t core (fld w 23 16) = consumerIssued d ∧
        regionOf t dst (fld w 31 24) = producerIssued (regionOf s dst (fld w 31 24)) ∧
        t.cu.nets = s.cu.nets ++ [netCopyOf s op] ∧ same t ∧ t.pwr = (sramError s core ecc).pwr ∧
        (ecc = Ecc.clean → t.pwr = s.pwr))

/-- In an issuing bundle on an active core: STREAM.LOAD puts lanes 0 to 7 of its register into the engine's descriptor,
STREAM.ARM replaces the base address by its register pair, and each sets the cursor to 0; a FILL or SPILL with no
failing check, in a chip that has not stopped, captures the descriptor, the region and the count, moves the cursor
that it captured on by the count, and becomes a producer, or consumer, of its region; with a count of 0 it completes
at issue instead of being captured. Only the cores, counters and samples change; HBM is untouched.
(R151, R202, R203, R232, R235, R237.) -/
def Obligations.StreamOperationsComplete : Prop :=
  ∀ (op : CoreOp) (s : State), coreActive s op.core = true →
    let w := op.word
    let c0 := opClk s op
    let core := op.core.val
    let e := fld w 15 12
    let k := core * 16 + e
    let lo := sregAt s core (fld w 20 16) c0
    let hi := sregAt s core (fld w 20 16 + 1) c0
    let v := (List.range 8).foldl (fun v i => v + (vlaneAt s core (fld w 21 16) c0 i).toNat <<< (32 * i)) 0
    (zeros w 63 21 = true → fld w 20 16 % 2 = 0 → zeros hi 31 12 = true → readsS s op (fld w 20 16) →
      readsS s op (fld w 20 16 + 1) →
      Does (.streamArm op) s [.cu, .mon] fun t =>
        t.cu.stream = s.cu.stream.set k (putFld (s.cu.stream.get k) 43 0 (lo.toNat + fld hi 11 0 <<< 32)) ∧
        t.cu.cursor = s.cu.cursor.set k 0 ∧ t.cu.region = s.cu.region ∧ t.cu.captured = s.cu.captured ∧
        t.cu.sreg = s.cu.sreg ∧ t.cu.vreg = s.cu.vreg) ∧
    (zeros w 63 22 = true → readsV s op (fld w 21 16) →
      Does (.streamLoad op) s [.cu, .mon] fun t =>
        t.cu.stream = s.cu.stream.set k (BitVec.ofNat 256 v) ∧
        t.cu.cursor = s.cu.cursor.set k 0 ∧ t.cu.region = s.cu.region ∧ t.cu.captured = s.cu.captured ∧
        t.cu.sreg = s.cu.sreg ∧ t.cu.vreg = s.cu.vreg) ∧
    (∀ spill : Bool, s.seq.stopped = false →
      let i : Instr := if spill = true then .streamSpill op else .streamFill op
      let n := fld w 23 16
      let r := regionOf s core n
      let now := streamNow s core e c0
      let count := streamCount s op
      firstFault (streamChecks s op spill) = none →
      Does i s [.cu, .mon] fun t =>
        (∀ j, j ≠ core * 256 + n → t.cu.region.get j = s.cu.region.get j) ∧
        t.cu.sreg = s.cu.sreg ∧ t.cu.vreg = s.cu.vreg ∧ t.cu.tile = s.cu.tile ∧ t.cu.stream = s.cu.stream ∧
        streamNow t core e c0 = (now.1, now.2.1 + BitVec.ofNat 64 count, now.2.2 && decide (count = 0)) ∧
        (count ≠ 0 →
          regionOf t core n = (if spill = true then consumerIssued r else producerIssued r) ∧
          t.cu.captured = s.cu.captured ++
            [{ core := core, engine := e, slot := op.slot.val, bundle := bundleNow s, issue := c0,
               spill := spill, add := spill && flag w 29, desc := now.1, regDesc := r, region := n, count := count,
               start := now.2.1.toNat, fresh := now.2.2, moved := [], asked := [], part := [], freed := false }]) ∧
        (count = 0 → t.cu.captured = s.cu.captured ∧
          regionOf t core n =
            (if spill = true then consumerDone (consumerIssued r) else producerDone (producerIssued r))))

/-- In an issuing bundle on an active core, in a chip that has not stopped, with no failing check: STASH.POP takes the
entry it names out of its set and, where that entry holds what is asked for, starts to move it; otherwise the region
completes at once with ABSENT set, and ORPHAN counts where no entry of that count was there. STASH.PUSH, its group
decided with its first push, starts to move its elements where the group was placed or spilled, completes at once
where it was dropped, which DROPS counts, and abandons the step with cause 0x0B where the set stops. LINK.SEND and
LINK.RECV bind their region to a launch of a descriptor that declares their channel.
(R204, R205, R249, R250, R252, R280, R330.) -/
def Obligations.StashAndLinkOperationsComplete : Prop :=
  ∀ (op : CoreOp) (s : State), coreActive s op.core = true → s.seq.stopped = false →
    let w := op.word
    let core := op.core.val
    let n := fld w 25 18
    let r := regionOf s core n
    let c0 := opClk s op
    let set := fld w 17 12
    let others := fun (t : State) => ∀ j, j ≠ core * 256 + n → t.cu.region.get j = s.cu.region.get j
    (let count := (sregAt s core (fld w 35 31) c0).toNat
     let index := (sregAt s core (fld w 30 26) c0).toNat
     let done := producerDone (producerIssued r)
     firstFault (popChecks s op) = none →
      Does (.stashPop op) s [.cu, .stash, .mon] fun t =>
        t.stash.entries = s.stash.entries.filter (fun e => !(e.set == set && e.index == index)) ∧ others t ∧
        (∀ e, stashEntry s set index = some e → e.dropped = false → e.count = count →
          (count ≠ 0 → (∃ x, t.stash.ops = s.stash.ops ++ [x] ∧ x.core = core ∧ x.region = n ∧ x.push = false ∧
              x.count = count ∧ x.spilled = e.spilled ∧ x.grans = granuleAddrs (setDesc s set) e.spilled e.granules) ∧
            regionOf t core n = producerIssued r) ∧
          (count = 0 → t.stash.ops = s.stash.ops ∧ regionOf t core n = done)) ∧
        (∀ e, stashEntry s set index = some e → e.dropped = true → e.count = count →
          t.stash.ops = s.stash.ops ∧ regionOf t core n = putFlag done 66 true ∧ t.stash.orphan = s.stash.orphan) ∧
        ((∀ e, stashEntry s set index = some e → e.count ≠ count) → t.stash.ops = s.stash.ops ∧
          regionOf t core n = putFlag done 66 true ∧
          (t.stash.orphan.get set).toNat = satAdd 8 (s.stash.orphan.get set).toNat 1)) ∧
    (∀ p, planOf (plannedPush s op) op = some p → p.early = none → zeros w 63 36 = true → setDeclared s set = true →
      p.index < fld (setDesc s set) 95 76 → canConsume r = true → p.count ≤ rBound r →
      let entries := (plannedPush s op).stash.entries
      (p.outcome ≤ 1 → Does (.stashPush op) s [.cu, .stash, .mon] fun t => others t ∧ t.stash.entries = entries ∧
        (p.count ≠ 0 → (∃ x, t.stash.ops = s.stash.ops ++ [x] ∧ x.core = core ∧ x.region = n ∧ x.push = true ∧
            x.count = p.count ∧ x.grans = granuleAddrs (setDesc s p.set) (p.outcome == 1) p.granules) ∧
          regionOf t core n = consumerIssued r) ∧
        (p.count = 0 → t.stash.ops = s.stash.ops ∧ regionOf t core n = consumerDone (consumerIssued r))) ∧
      (p.outcome = 2 → Does (.stashPush op) s [.cu, .stash, .mon] fun t => others t ∧ t.stash.entries = entries ∧
        t.stash.ops = s.stash.ops ∧ regionOf t core n = consumerDone (consumerIssued r) ∧
        (t.stash.drops.get p.set).toNat = satAdd 24 (s.stash.drops.get p.set).toNat 1) ∧
      (p.outcome = 3 → stepOpen s = true → ∃ t, exec (.stashPush op) s = .next t ∧ t.rsl.phase = .decide ∧
        t.rsl.cause = 0x0B ∧ t.seq.running = false ∧ t.time = s.time ∧ t.pwr = s.pwr)) ∧
    (∀ send : Bool,
      let i : Instr := if send = true then .linkSend op else .linkRecv op
      firstFault (channelChecks s op send) = none →
      Does i s [.cu, .link, .coll, .mon, .outbox] fun t =>
        (∃ l ∈ t.coll.launches, (channelDescs s set send).contains l.desc = true ∧
          ∃ b ∈ (if send = true then l.sends else l.recvs), b.core = core ∧ b.region = n ∧
            b.count = (sregAt s core (fld w 30 26) c0).toNat ∧ b.freed = false) ∧
        others t ∧ regionOf t core n = (if send = true then consumerIssued r else producerIssued r) ∧
        t.coll.layout = s.coll.layout)

/-- Following the flow of issue from the first bundle of a loop body of b bundles with count C latched, no other loop
inside it and no break: after C × b − 1 bundles the last bundle of the body is due in the last iteration, and what
follows is what follows the last bundle of the body in the enclosing loops. A skipped span that reaches the end of the
body goes on the same way.
(R161, R162.) -/
def Obligations.LoopBodyRunsItsCount : Prop :=
  ∀ (rest : List Loop) (first last C : Nat), first ≤ last → 1 ≤ C →
    let l := fun (left : Nat) => ({ first := first, last := last, count := C, left := left, brk := false } : Loop)
    let path := fun (n : Nat) => Nat.repeat (fun (p : Nat × List Loop) => afterBundle p.2 p.1) n (first, l C :: rest)
    (∀ i j, i < C → j ≤ last - first → path (i * (last - first + 1) + j) = (first + j, l (C - i) :: rest)) ∧
      path (C * (last - first + 1)) = afterBundle rest last

/-- A LOOP.BREAK whose condition holds marks the innermost active loop and nothing else; one whose condition does not hold
marks nothing; one with no active loop raises ENCODING. The bundles of a marked loop issue on to the end of its body,
and then what follows its last iteration is due.
(R163.) -/
def Obligations.LoopBreakExitsAfterTheIteration : Prop :=
  (∀ (op : ChipOp) (s : State), s.seq.current.isSome = true → s.seq.flowOps = 0 → zeros op.word 63 14 = true →
    ∀ l rest, s.seq.loops = l :: rest →
    Does (.loopBreak op) s [.seq, .mon] fun t => t.seq = { s.seq with
      flowOps := 1
      loops := (if flag op.word 8 = false ∨ qregOf s (fld op.word 13 9) ≠ 0 then { l with brk := true } else l) :: rest }) ∧
  (∀ (op : ChipOp) (s : State), s.seq.current.isSome = true → s.seq.stopped = false → s.seq.loops = [] →
    ∃ t, exec (.loopBreak op) s = .next t ∧ t.seq.stopped = true ∧ t.seq.fault.code = 1 ∧ t.seq.fault.slot = op.slot) ∧
  (∀ (l : Loop) (rest : List Loop) (x : Nat), l.brk = true →
    (x ≠ l.last → afterBundle (l :: rest) x = (x + 1, l :: rest)) ∧
      afterBundle (l :: rest) l.last = afterBundle ({ l with left := 1, brk := false } :: rest) l.last)

/-- As the only operation of its issuing bundle that changes the flow, with reserved bits zero and targets within the
stream and the innermost loop: LOOP with a non-zero register value and fewer than eight active loops becomes the
innermost active loop, its count latched, and with zero skips its body; BRANCH not into a loop body, when its
condition holds, makes its target due and ends each loop it leaves, and otherwise changes nothing; SKIP.IF skips its
span when its condition held at the look clk; WAIT changes nothing. Beyond the sequencer only samples change.
(R141, R161, R162, R164, R165, R208, R209.) -/
def Obligations.ControlFlowOperationsComplete : Prop :=
  ∀ (op : ChipOp) (s : State), s.seq.current.isSome = true → s.seq.flowOps = 0 →
    let w := op.word
    let k := bundleNow s
    let b := fld w 37 13
    let count := (qregOf s (fld w 12 8)).toNat
    let target := fld w 63 32
    let within := fun (b : Nat × Nat) (x : Nat) => decide (b.1 ≤ x) && decide (x ≤ b.2)
    let skips := fun (i : Instr) (x : Nat) => Does i s [.seq, .mon] fun t =>
      t.seq.redirect = some (afterBundle s.seq.loops x).1 ∧ t.seq.loops = (afterBundle s.seq.loops x).2 ∧
        t.seq.flowOps = 1 ∧ t.seq.qreg = s.seq.qreg ∧ t.seq.current = s.seq.current ∧ t.seq.issued = s.seq.issued
    (zeros w 63 38 = true → 1 ≤ b → b ≤ 2 ^ 24 → k + b < bundleCount s → beyondLoop s (k + b) = false →
      (count = 0 → skips (.loop op) (k + b)) ∧
      (count ≠ 0 → s.seq.loops.length < 8 →
        Does (.loop op) s [.seq, .mon] fun t =>
          t.seq.loops = { first := k + 1, last := k + b, count := count, left := count, brk := false } :: s.seq.loops ∧
          t.seq.redirect = s.seq.redirect ∧ t.seq.flowOps = 1 ∧ t.seq.qreg = s.seq.qreg)) ∧
    (zeros w 31 15 = true → fld w 9 8 ≠ 3 → target < bundleCount s →
      (∀ b ∈ knownBodies s, within b target = true → within b k = true) →
      let taken := fld w 9 8 = 0 ∨ fld w 9 8 = 1 ∧ qregOf s (fld w 14 10) = 0 ∨ fld w 9 8 = 2 ∧ qregOf s (fld w 14 10) ≠ 0
      (taken → Does (.branch op) s [.seq, .mon] fun t => t.seq.redirect = some target ∧
        t.seq.loops = s.seq.loops.filter (fun l => within (l.first, l.last) target) ∧ t.seq.flowOps = 1 ∧
        t.seq.qreg = s.seq.qreg) ∧
      (¬taken → Does (.branch op) s [.seq, .mon] fun t => t.seq = { s.seq with flowOps := 1 })) ∧
    (∀ cond, s.seq.look = some (w, cond) → zeros w 63 57 = true → (∀ c ∈ skipCores w, c < jobCores s) →
      (fld w 56 33 = 0 ∨ k + fld w 56 33 < bundleCount s ∧ beyondLoop s (k + fld w 56 33) = false) →
      (cond = true → fld w 56 33 ≠ 0 → skips (.skipIf op) (k + fld w 56 33)) ∧
      (cond = false ∨ fld w 56 33 = 0 →
        Does (.skipIf op) s [.seq, .mon] fun t => t.seq = { s.seq with flowOps := 1 })) ∧
    (zeros w 63 27 = true → fld w 9 8 ≠ 3 → (fld w 9 8 = 0 → fld w 14 10 % 2 = 0) →
      Does (.wait op) s [.mon] fun _ => True)

/-- In an issuing bundle with reserved bits zero: QMOVI writes its constant, QADDI the sum with it modulo 2^32 and QALU
the function FN of two sequencer registers to the named register and to no other; MB.SET sets the micro-batch number
to the low half of its register, whose high half is zero. Nothing else changes but samples.
(R198, R207, R212.) -/
def Obligations.SequencerRegisterOperationsComplete : Prop :=
  ∀ (op : ChipOp) (s : State), s.seq.current.isSome = true →
    let w := op.word
    let writes := fun (i : Instr) (v : Word) =>
      Does i s [.seq, .mon] fun t => t.seq = { s.seq with qreg := s.seq.qreg.set (fld w 12 8) v } ∧
        qregOf t (fld w 12 8) = v ∧ ∀ r, r ≠ fld w 12 8 → qregOf t r = qregOf s r
    (zeros w 31 13 = true → writes (.qmovi op) (BitVec.ofNat 32 (fld w 63 32))) ∧
    (zeros w 31 18 = true → writes (.qaddi op) (qregOf s (fld w 17 13) + BitVec.ofNat 32 (fld w 63 32))) ∧
    (∀ v, zeros w 63 27 = true →
      aluFn (fld w 26 23) (qregOf s (fld w 17 13)) (qregOf s (fld w 22 18)) = some v → writes (.qalu op) v) ∧
    (zeros w 63 13 = true → zeros (qregOf s (fld w 12 8)) 31 16 = true →
      Does (.mbSet op) s [.seq, .mon] fun t =>
        t.seq = { s.seq with microBatch := BitVec.ofNat 16 (qregOf s (fld w 12 8)).toNat })

/-- In an issuing bundle of a chip that has not stopped, with reserved bits zero: COLL.LAUNCH of a declared descriptor,
fewer than 64 being registered, registers one more launch of it at the slot of its register pair; EPOCH.ADVANCE
advances the layout epoch, and keeps what peers told of the next one; OPT.LAUNCH of a declared descriptor not yet
launched in this step adds a waiting launch; STEP.COMMIT, with every region free, gathers the non-finite flag from its
sources and the PENDING values, and with a held region raises REGION_ORDER. Beside its own part and samples only a
COLL.LAUNCH changes more: what has arrived for its bindings is delivered and credit granted.
(R207, R210, R211, R212, R213, R275, R331.) -/
def Obligations.LaunchesAndStepCommitComplete : Prop :=
  ∀ (op : ChipOp) (s : State), s.seq.current.isSome = true → s.seq.stopped = false →
    let w := op.word
    let registered := fun (t : State) => (t.coll.launches.filter (·.registered)).length
    (zeros w 63 25 = true → fld w 24 20 % 2 = 0 → launchLegal s (fld w 19 8) = true → registered s < 64 →
      Does (.collLaunch op) s [.cu, .link, .coll, .mon, .outbox] fun t =>
        t.cu.region = s.cu.region ∧ t.cu.vreg = s.cu.vreg ∧ t.cu.sreg = s.cu.sreg ∧
        registered t = registered s + 1 ∧ t.coll.layout = s.coll.layout ∧
        ∃ l ∈ t.coll.launches, l.desc = fld w 19 8 ∧ l.slot = qpair s (fld w 24 20) ∧ l.registered = true ∧
          l.epoch = s.coll.layout) ∧
    (zeros w 63 8 = true →
      Does (.epochAdvance op) s [.coll, .mon] fun t =>
        t.coll = { s.coll with
          layout := s.coll.layout + 1, told := false
          drained := s.coll.drained.filter fun x => x.2 != BitVec.ofNat 16 s.coll.layout.toNat }) ∧
    (zeros w 63 20 = true → fld w 19 8 < sectionCount s 14 64 → fld w 19 8 ∉ s.mem.launched →
      Does (.optLaunch op) s [.mem, .mon] fun t => t.mem = { s.mem with
        launches := s.mem.launches ++
          [{ desc := fld w 19 8, issue := 8 * (s.seq.issued - 1), lane := op.slot, phase := .waiting, coef := [] }]
        launched := s.mem.launched ++ [fld w 19 8] }) ∧
    (zeros w 63 8 = true → s.mem.ueReport = false →
      ((∀ e ∈ s.cu.region, e.1 / 256 < jobCores s → rState e.2 = 0) →
        Does (.stepCommit op) s [.commit, .mon] fun t => t.commit = { s.commit with
          phase := .gathered, nf := nfSources s != 0, sources := nfSources s
          pend := (List.range (scaleCount s)).map (pendingOf s) }) ∧
      (∀ n, regionHeld s = some n →
        ∃ t, exec (.stepCommit op) s = .next t ∧ t.seq.stopped = true ∧ t.seq.fault.code = 9 ∧ t.seq.fault.info = n))

/-- With a bundle due: when the step is not committing, the bundle has arrived or lies in the run-ahead or the loop
buffer, all its opcodes are listed and none of its tests fails, BUNDLE_ISSUE makes it the issuing bundle of the next
schedule beat with the loops of the flow and at most 512 bundles fetched ahead, ends any run of hold beats, and a
step's first bundle moves the dataset cursor on; the ring peers have been told before where it holds an EPOCH.ADVANCE.
When tests fail that are no REGION_ORDER, or it has not arrived, or the step is committing, nothing issues, the beat
is counted as held and no register, region or memory changes; past the last bundle the stream ends, and with it a run
of hold beats.
(R137, R143, R144, R153, R154, R159, R160, R344, R457, R488.) -/
def Obligations.BundlesIssueOrHold : Prop :=
  ∀ (s : State) (arrived : Bool) (ahead : Nat), issueDue s = true →
    let k := (nextFlow s).1
    let kept := fun (t : State) => t.cu.vreg = s.cu.vreg ∧ t.cu.sreg = s.cu.sreg ∧ t.cu.tile = s.cu.tile ∧
      t.cu.acc = s.cu.acc ∧ t.cu.bank = s.cu.bank ∧ t.cu.region = s.cu.region ∧ t.cu.inflight = s.cu.inflight
    let held := fun (ps : List Part) => Does (.bundleIssue arrived ahead) s ([.cu, .seq, .mon] ++ ps) fun t =>
      t.cu = { s.cu with heldLog := [] } ∧ t.seq = { s.seq with hold := t.seq.hold } ∧
        (∃ h, t.seq.hold = some h ∧
          h.beats = (match s.seq.hold with
            | some o => o.beats
            | none => 0) + 1) ∧
        t.mon.heldBeats = (if s.mon.cleared = true then s.mon.heldBeats else 0) + 1
    let issues := fun (ps : List Part) =>
      (∀ c < 8, chipOpcodeOk (chipWord s k c) = true) →
      (∀ c < jobCores s, ∀ n < 4, coreOpcodeOk (coreWord s k c n) = true) →
      Does (.bundleIssue arrived ahead) s ([.cu, .seq, .stash, .eth, .mon] ++ ps) fun t =>
        t.seq.current = some k ∧ t.seq.issued = s.seq.issued + 1 ∧ t.seq.loops = (nextFlow s).2 ∧
        t.seq.redirect = none ∧ t.seq.flowOps = 0 ∧ t.seq.hold = none ∧ t.seq.ahead = min ahead 512 ∧
        t.seq.qreg = s.seq.qreg ∧ kept t ∧
        t.eth.cursor = s.eth.cursor + (if s.seq.fresh = true then BitVec.ofNat 64 (unitsPerStep s) else 0) ∧
        t.mon.beats = (if s.mon.cleared = true then s.mon.beats else 0) + 1
    (s.commit.phase ≠ .idle → held []) ∧
    (s.commit.phase = .idle → k < bundleCount s → arrived = true ∨ inRunAhead s k = true →
      let u := tellDrained (passBeat (firstBeat s))
      (hasAdvance s k = false → holdTests s k = [] → issues []) ∧
      (hasAdvance s k = true → holdTests u k = [] → issues [.link, .coll, .outbox]) ∧
      (hasAdvance s k = false → holdTests s k ≠ [] → (∀ x ∈ holdTests s k, x.order = false) → held []) ∧
      (hasAdvance s k = true → holdTests u k ≠ [] → (∀ x ∈ holdTests u k, x.order = false) → held [.link, .coll, .outbox])) ∧
    (s.commit.phase = .idle → k < bundleCount s → arrived = false → inRunAhead s k = false → held []) ∧
    (s.commit.phase = .idle → bundleCount s ≤ k →
      Does (.bundleIssue arrived ahead) s [.cu, .seq, .mon] fun t => t.seq.ended = true ∧ t.seq.running = false ∧
        t.seq.current = none ∧ t.seq.issued = s.seq.issued ∧ t.seq.hold = none ∧ kept t ∧
        (s.seq.hold = none → t.cu = s.cu))

/-- After the end of the stream, every elastic operation complete and the lease held, the lease is released: a swap of the
owner to no address is sent, the job's image and launches are discarded and the device is Idle with its core domains
off (that the swap goes out at once and the device stands in the phase releasing until it completes is the model's
choice, log entry 48). A run of hold beats past its limit raises HOLD_TIMEOUT naming its bundle, or, in the commit
reduction, abandons the step with cause 0x0A (log entry 27); one whose condition was met in the tick of expiry or
before does nothing. A SLIP during a job raises SLIP with its crossing and lateness, and fences the Active position it
names.
(R133, R156, R168, R171, R280, R322, R389, R488.) -/
def Obligations.StreamEndAndTimingFaultsComplete : Prop :=
  (∀ s : State, s.seq.ended = true → elasticDone s = true → leased s = true → s.eth.up = true →
    s.pwr.state.toNat ≤ 1 →
    Does .streamEndRelease s [.cu, .seq, .mem, .stash, .link, .coll, .commit, .rsl, .time, .eth, .pwr, .mon, .sec, .outbox]
      fun t => t.eth.phase = .releasing ∧ t.seq.job = none ∧ t.seq.running = false ∧ t.coll.launches = [] ∧
        t.pwr.state = 2 ∧ t.pwr.domains = s.pwr.domains &&& ~~~coreDomains ∧ t.time.origin = 0 ∧
        (∃ r p, OutMsg.transfer r p ∈ t.outbox ∧ p.target = 8 ∧ p.use = .release ∧
          p.addr = numAt s.eth.entry 32 8 + 64 * s.eth.rank ∧
          p.bytes = leBytes 8 s.eth.owner.toNat ++ leBytes 8 (s.eth.owner.toNat / 2 ^ 48 * 2 ^ 48))) ∧
  (∀ (s : State) (h : Hold), s.seq.hold = some h → s.seq.stopped = false → s.commit.phase ≠ .launched →
    h.met = false → h.start + holdLimit s < s.time.epoch.toNat →
    ∃ t, exec .holdTimeout s = .next t ∧ t.seq.stopped = true ∧ t.seq.running = false ∧ t.seq.fault.code = 0x0B ∧
      t.seq.fault.bundle = h.bundle ∧ (h.waits = true → t.seq.fault.info = 0xFFFF) ∧ t.time = s.time ∧ t.pwr = s.pwr) ∧
  (∀ (s : State) (h : Hold), s.seq.hold = some h → s.seq.stopped = false → s.commit.phase = .launched → stepOpen s = true →
    h.met = false → h.start + holdLimit s < s.time.epoch.toNat →
    ∃ t, exec .holdTimeout s = .next t ∧ t.seq.stopped = false ∧ t.seq.running = false ∧ t.rsl.phase = .decide ∧
      t.rsl.cause = 0x0A ∧ t.time = s.time ∧ t.pwr = s.pwr) ∧
  (∀ (s : State) (h : Hold), s.seq.hold = some h → (h.met = true ∨ s.time.epoch.toNat ≤ h.start + holdLimit s) →
    exec .holdTimeout s = .next s) ∧
  (∀ (s : State) (crossing late : BitVec 16), s.seq.job.isSome = true → s.seq.stopped = false →
    (∃ t, exec (.slip crossing late none) s = .next t ∧ t.seq.stopped = true ∧ t.seq.fault.code = 7 ∧
      t.seq.fault.info = crossing.toNat ∧ t.seq.fault.aux = late.toNat ∧ t.time = s.time ∧ t.pwr = s.pwr) ∧
    (∀ p : Fin 20, s.pwr.positions.length = 20 → (positionAt s p).state = 1 →
      ∃ t, exec (.slip crossing late (some p)) s = .next t ∧ t.seq.stopped = true ∧ t.seq.fault.code = 7 ∧
        (positionAt t p).state = 3 ∧ (positionAt t p).cause = 4 ∧ flag t.pwr.domains p = false ∧
        ∀ q, q ≠ p.val → positionAt t q = positionAt s q))

/-- When faults of one beat are raised one after another from a running state, the chip is stopped, the record holds one
of them, none of them comes before it in the order of schedule clk, chip lane before core lanes, logical core, slot,
and MORE is the number of the others, at most 255. A fault of another beat than the recorded one leaves the record as
it is. Taking a fault changes neither the time base nor power. At an issuing bundle, the checks before it passing: a
VLD whose region is not ready raises REGION_STATE, one outside its span BOUND and one whose claims meet an earlier
operation's PORT; a SWEEP whose arrays an earlier one still feeds raises ARRAY_BUSY with its mask; EXP with the row
unit occupied UNIT_BUSY; a ninth active LOOP LOOP_DEPTH. The record names code, INFO, core and slot, and no register,
store, region or sweep changes.
(R75, R114, R123, R152, R155, R162, R169, R170, R177.) -/
def Obligations.FirstFaultIsRecorded : Prop :=
  (∀ (s : State) (f : Origin × Flt) (fs : List (Origin × Flt)), s.seq.stopped = false → (∀ x ∈ f :: fs, x.2.code ≠ 0) →
    (∀ x ∈ fs, x.1.clk / 8 = f.1.clk / 8) →
    let t := (f :: fs).foldl (fun s x => raiseFault s x.1 x.2) s
    t.seq.stopped = true ∧ t.seq.running = false ∧ t.time = s.time ∧ t.pwr = s.pwr ∧
      t.seq.fault.more = min 255 fs.length ∧
      (∃ x ∈ f :: fs, t.seq.fault = faultRec x.1 x.2 t.seq.fault.more) ∧
      ∀ x ∈ f :: fs, faultBefore (faultRec x.1 x.2 0) t.seq.fault = false) ∧
  (∀ (s : State) (o : Origin) (f : Flt), s.seq.stopped = true → s.seq.fault.code ≠ 0 → o.clk / 8 ≠ s.seq.fault.clk / 8 →
    (raiseFault s o f).seq = s.seq) ∧
  (∀ (op : CoreOp) (s : State), coreActive s op.core = true → s.seq.stopped = false →
    let w := op.word
    let faults := fun (i : Instr) (code : Nat) (info : Nat → Prop) => ∃ t, exec i s = .next t ∧ t.seq.stopped = true ∧
      t.seq.fault.code = code ∧ info t.seq.fault.info ∧ t.seq.fault.chip = false ∧ t.seq.fault.core = op.core.val ∧
      t.seq.fault.slot = op.slot.val ∧ t.cu.vreg = s.cu.vreg ∧ t.cu.sreg = s.cu.sreg ∧ t.cu.tile = s.cu.tile ∧
      t.cu.acc = s.cu.acc ∧ t.cu.region = s.cu.region ∧ t.cu.sweeps = s.cu.sweeps
    (∀ ecc, vaccessOk s op = true → zeros w 23 18 = true → flag w 36 = false → readsS s op (fld w 28 24) →
      let ready := flag w 39 = true → canConsume (regionOf s op.core (fld w 47 40)) = true
      (¬ready → faults (.vld op ecc) 8 (· = fld w 47 40)) ∧
      (ready → vaccessFits s op = false → faults (.vld op ecc) 2 (· = fld w 47 40)) ∧
      (ready → vaccessFits s op = true →
        (∃ u ∈ s.cu.ports, ∃ k ∈ vaccessClaims s op (opClk s op) false, k ∈ u.claims) →
        faults (.vld op ecc) 6 fun _ => True)) ∧
    (let v := sweepOf s op
     ∀ ecc, sweepEncoding s op = true → readsS s op (fld w 61 57) → readsS s op (fld w 61 57 + 1) →
      preloadLatency s v = none → drainLatencyFault s v = none →
      (∀ n ∈ sweepRegions op, canConsume (regionOf s op.core n) = true) → sweepBound s op v = none → 0 < v.slices →
      (∃ x ∈ s.cu.sweeps, x.core = v.core ∧ x.mask &&& v.mask ≠ 0 ∧ 0 < x.slices ∧ v.first ≤ x.first + x.slices - 1) →
      faults (.sweep op ecc) 3 (· = v.mask)) ∧
    (zeros w 63 37 = true → zeros w 35 24 = true → (flag w 36 = true → zeros w 23 18 = true) → latA s op = none →
      opClk s op < (s.cu.rowFree.get op.core).toNat → faults (.exp op) 4 (· = 0))) ∧
  ∀ (op : ChipOp) (s : State), s.seq.current.isSome = true → s.seq.stopped = false → s.seq.flowOps = 0 →
    let b := fld op.word 37 13
    zeros op.word 63 38 = true → 1 ≤ b → b ≤ 2 ^ 24 → bundleNow s + b < bundleCount s →
    beyondLoop s (bundleNow s + b) = false → qregOf s (fld op.word 12 8) ≠ 0 → 8 ≤ s.seq.loops.length →
    ∃ t, exec (.loop op) s = .next t ∧ t.seq.stopped = true ∧ t.seq.fault.code = 0x0A ∧ t.seq.fault.info = 0 ∧
      t.seq.fault.chip = true ∧ t.seq.fault.slot = op.slot.val ∧ t.seq.loops = s.seq.loops

/-- When the clk of a core's earliest-due result is reached, SHORT_RESULT_WRITE takes it out, adds its flags to the core's
sticky flags, and writes its lanes, its registers, its row statistics, or, where no access has been lost to a PORT
fault, its tile-store bytes or buffer entries; every other register, byte and entry is as it was once the words that
copies write before the result's clk stood in the stores.
(R58, R114, R121, R125, R146, R147, R206.) -/
def Obligations.ShortResultsLand : Prop :=
  ∀ (core : Fin 16) (s : State) (x : Result), s.cu.inflight.find? (fun y => y.core == core.val) = some x →
    x.due < clkEnd s →
    let bit := fun (b : Bool) => if b = true then BitVec.ofNat 16 (2 ^ x.core) else 0#16
    let c := (landNets s x.due).cu
    let base : Cores := { c with
      inflight := c.inflight.erase x
      nonfin := c.nonfin ||| bit x.nonfin
      satf := c.satf ||| bit x.satf }
    (x.dest = .nowhere → Does (.shortResultWrite core) s [.cu, .mon] fun t => t.cu = base) ∧
    (∀ r l vals, x.dest = .vector r l vals → Does (.shortResultWrite core) s [.cu, .mon] fun t =>
      t.cu = { base with vreg := c.vreg.setList (x.core * 16384 + r * 256 + l) vals } ∧
        ∀ k, t.cu.vreg.get k = if x.core * 16384 + r * 256 + l ≤ k ∧ k < x.core * 16384 + r * 256 + l + vals.length
          then vals.getD (k - (x.core * 16384 + r * 256 + l)) 0#32 else c.vreg.get k) ∧
    (∀ r vals, x.dest = .scalar r vals → Does (.shortResultWrite core) s [.cu, .mon] fun t =>
      t.cu = { base with sreg := c.sreg.setList (x.core * 32 + r) vals } ∧
        ∀ k, t.cu.sreg.get k = if x.core * 32 + r ≤ k ∧ k < x.core * 32 + r + vals.length
          then vals.getD (k - (x.core * 32 + r)) 0#32 else c.sreg.get k) ∧
    (∀ recs, x.dest = .stat recs → Does (.shortResultWrite core) s [.cu, .mon] fun t =>
      t.cu = { base with
        stat := recs.foldl (fun m r => m.set (x.core * 256 + r.1) r.2) c.stat
        inflight := base.inflight.map (supersede x.core x.issue recs) }) ∧
    (∀ w vals, x.dest = .tile w vals → s.cu.lost = [] → vals.length = 256 →
      Does (.shortResultWrite core) s [.cu, .mon] fun t =>
        let k := x.core * 33554432 + 64 * w
        t.cu = { base with tile := t.cu.tile, tileLog := t.cu.tileLog } ∧
        ∀ a, t.cu.tile.get a = if k ≤ a ∧ a < k + 1024 then (wordBytes vals).getD (a - k) 0#8 else c.tile.get a) ∧
    (∀ r vals, x.dest = .acc r vals → s.cu.lost = [] → vals.length = 256 →
      Does (.shortResultWrite core) s [.cu, .mon] fun t =>
        let k := x.core * 1048576 + 64 * r
        t.cu = { base with acc := t.cu.acc, accLog := t.cu.accLog } ∧
        ∀ a, t.cu.acc.get a = if k ≤ a ∧ a < k + 256 then vals.getD (a - k) 0#32 else c.acc.get a)

/-- A scheduled producer of a filling region whose completion clk has been reached, and an elastic one whose data has all
moved, makes the region's descriptor what a completed producer leaves; the same of consumers of a consuming region. No
other region and no register changes; a scheduled completion changes the stores only by the words that copies write up
to its clk, an elastic one only as the move of its data does. A corrected error of the reads that a push to the Twin
makes then counts at the core's position (R115).
(R115, R151, R152, R206, R252.) -/
def Obligations.RegionCompletionsComplete : Prop :=
  ∀ (core : Fin 16) (region : BitVec 8) (s : State),
    let n := region.toNat
    let d := regionOf s core n
    let kept := fun (t : State) => (∀ k, k ≠ core.val * 256 + n → t.cu.region.get k = s.cu.region.get k) ∧
      t.cu.vreg = s.cu.vreg ∧ t.cu.sreg = s.cu.sreg ∧ t.cu.bank = s.cu.bank
    let scheduled := fun (i : Instr) (e : SchedEnd) (v : BitVec 128) => Does i s [.cu, .mon] fun t =>
      regionOf t core n = v ∧ kept t ∧ t.cu.tile = (landNets s (e.due + 1)).cu.tile ∧
        t.cu.acc = (landNets s (e.due + 1)).cu.acc
    let elastic := fun (i : Instr) (u : State) (v : BitVec 128) (p : Pwr) =>
      Does i s [.cu, .mem, .stash, .link, .coll, .pwr, .mon, .outbox] fun t =>
        regionOf t core n = v ∧ kept t ∧ t.cu.tile = u.cu.tile ∧ t.cu.acc = u.cu.acc ∧ t.mem = u.mem ∧ t.stash = u.stash ∧
          t.link = u.link ∧ t.coll = u.coll ∧ t.outbox = u.outbox ∧ t.pwr = p
    (rState d = 1 → rPtodo d < rPcount d →
      (∀ e, firstEnd (core.val * 256 + n) true s.cu.schedEnds = some e → e.due < clkEnd s →
        scheduled (.regionProducerComplete core region none) e (producerDone d)) ∧
      (∀ (o : Fin 8) (u : State), freeElastic s core n false = some u →
        elastic (.regionProducerComplete core region (some o)) u (producerDone d) s.pwr)) ∧
    (rState d = 3 → rCtodo d < rCcount d →
      (∀ e ecc, firstEnd (core.val * 256 + n) false s.cu.schedEnds = some e → e.due < clkEnd s →
        scheduled (.regionConsumerComplete core region none ecc) e (consumerDone d)) ∧
      (∀ (o : Fin 8) (u : State) (ecc : Ecc), freeElastic s core n true = some u →
        ecc ≠ Ecc.uncorrectable ∨ spillReads s core n = false →
        elastic (.regionConsumerComplete core region (some o) ecc) u (consumerDone d)
          (if spillReads s core n = true then (sramError s core ecc).pwr else s.pwr)))

/-- When the clk of a core's next group is reached, no initialisation, drain or copy from core to core being under way and
no access lost: every entry of the sweep's bank in every array of its mask becomes the old entry with the exact sum of
the group's unmasked products added under the profile's rules, and entries without such a product, of other banks,
arrays and cores are as before; the group counts as done. Only cores and counters change, and no register, region or
store of the cores.
(R56, R61, R76, R77, R85, R86, R455.) -/
def Obligations.GroupSumsAccumulate : Prop :=
  ∀ (core : Fin 16) (s : State) (k : Nat) (w : Sweep), nextSweep s core = some k → s.cu.sweeps[k]? = some w →
    groupClk w w.done < clkEnd s → s.cu.inits = [] → s.cu.drains = [] → s.cu.nets = [] → s.cu.lost = [] →
    w.g * w.done < w.k →
    w.rows ≤ 64 → w.cols ≤ 64 → w.bank < 4 →
    Does (.groupSumWrite core) s [.cu, .mon] fun t =>
      t.cu.sweeps[k]? = some { w with done := w.done + 1 } ∧
      (∀ n ∈ maskArrays w.mask, ∀ i < 64, ∀ c < 64,
        entryOf t w.core n w.bank i c =
          if i < groupRows w n ∧ c < sweepCols s w then
            groupEntry (jobProfile s) (flag (bankStatus s w.core n w.bank) 20) w.kscale (groupA s w n w.done i)
              (groupB s w w.done c) (entryOf s w.core n w.bank i c)
          else entryOf s w.core n w.bank i c) ∧
      (∀ c' < 16, ∀ n < 4, ∀ b < 4, ∀ i < 64, ∀ j < 64, c' ≠ w.core ∨ n ∉ maskArrays w.mask ∨ b ≠ w.bank →
        entryOf t c' n b i j = entryOf s c' n b i j) ∧
      t.cu.vreg = s.cu.vreg ∧ t.cu.sreg = s.cu.sreg ∧ t.cu.tile = s.cu.tile ∧ t.cu.acc = s.cu.acc ∧
      t.cu.region = s.cu.region ∧ t.cu.dport = s.cu.dport

/-- When its first-read clk is reached, the drain of a core that begins next counts as started and, where no earlier event
has read row 63, that row is read. When the arrival clk of the next row of the started drains is reached, the cores
become what the arrival makes of them (arriveRow), on the stores with the words that copies write before that clk: for
a row already read and not the last, each array of the mask in turn has its 64 entries written to the accumulator
buffer, the vector drain port or the tile store (arriveBuffer, arrivePort, arriveTile), and one row fewer is to come;
at the port, lane j of array n is the drained value of its column j, and +0 past the job's width. No register and no
region changes, no store but the destination; a corrected error of an accumulate's read counts at the core's position.
(R62, R88, R90, R93, R94, R115, R119, R206, R246.) -/
def Obligations.DrainEventsComplete : Prop :=
  ∀ (core : Fin 16) (s : State) (k : Nat) (d : Drain), s.cu.drains[k]? = some d →
    let kept := fun (t : State) => t.cu.vreg = s.cu.vreg ∧ t.cu.sreg = s.cu.sreg ∧ t.cu.region = s.cu.region ∧
      t.cu.sweeps = s.cu.sweeps ∧ t.cu.inflight = s.cu.inflight
    let clk := drainArrivalClk d
    let u := landNets s clk
    (nextFirstRead s core = some k → d.first < clkEnd s → d.unread ≤ 64 →
      Does (.drainFirstRead core) s [.cu, .mon] fun t =>
        (∃ e, t.cu.drains[k]? = some e ∧ e.started = true ∧ e.unread = (if d.unread = 64 then 63 else d.unread) ∧
          e.toCome = d.toCome ∧ e.region = d.region) ∧
        kept t ∧ t.cu.tile = s.cu.tile ∧ t.cu.acc = s.cu.acc ∧ t.cu.dport = s.cu.dport) ∧
    (∀ ecc, nextArrival s core = some k → clk < clkEnd s → ecc ≠ Ecc.uncorrectable ∨ d.dest ≠ 1 →
      Does (.drainRowArrival core ecc) s [.cu, .pwr, .mon] fun t =>
        t.cu = (arriveRow u k d).cu ∧ kept t ∧
        (∃ e, t.cu.drains[k]? = some e ∧ e.toCome = d.toCome - 1 ∧ e.region = d.region) ∧
        t.pwr = (if d.dest = 1 then (sramError s core ecc).pwr else s.pwr) ∧
        (d.dest = 2 → t.cu.tile = u.cu.tile ∧ t.cu.acc = u.cu.acc) ∧
        (d.dest = 3 → t.cu.acc = u.cu.acc ∧ t.cu.dport = s.cu.dport) ∧
        (d.dest < 2 → t.cu.tile = u.cu.tile ∧ t.cu.dport = s.cu.dport) ∧
        ∀ row rest, d.buffer = row :: rest → 1 < d.toCome →
          let i := d.toCome - 1
          let es := fun (n : Nat) => (row.drop (64 * n)).take 64
          let arrive := fun (v : State) (n : Nat) =>
            if d.dest = 2 then arrivePort v d i n (es n)
            else if d.dest = 3 then arriveTile v d i n clk (es n)
            else arriveBuffer v d i n clk (es n)
          t.cu = { ((maskArrays d.mask).foldl arrive u).cu with
            drains := modifyAt u.cu.drains k fun x => { x with toCome := i, buffer := x.buffer.drop 1 } } ∧
          (d.dest = 2 → row.length = 256 → ∀ n ∈ maskArrays d.mask, ∀ j < 64,
            t.cu.dport.get (core.val * 256 + 64 * n + j) =
              if j < jobWidth s then drainValue d n i j (row.getD (64 * n + j) 0#48) else 0#32))

/-- In HBM, with a free tag of its pool, no earlier operation of its requester that waits, no channel out of service and
no uncorrectable word or protected page met: a write of a link path or of the Ethernet port makes each selected byte
of its sector the byte it brings and leaves every other byte of memory as it was; their reads and an instruction fetch
change no byte; each takes one tag. One that meets a channel out of service takes its tag and waits there. With the
pool full, or behind an earlier one of its requester, it waits for a tag, and the wait is counted where its own pool
is full (which of the waits count is the model's choice, log entry 54); outside HBM a link or Ethernet operation is
dropped and counted. A completion frees the oldest tag of its die and pool that may free, and counts a response that
came too late.
(R214, R215, R217, R225, R226, R229, R133.) -/
def Obligations.MemoryOperationsComplete : Prop :=
  (∀ (m : MemOp) (s : State), 512 * m.sector < hbmLimit →
    let phys := opAddr s m
    let behind := s.mem.held.any fun x => x.who == m.who
    let tagged := fun (t : State) (w : Option MemOp) => ∃ tag : Tag, t.mem.tags = s.mem.tags ++ [tag] ∧
      tag.die = dieFor s m ∧ tag.who = m.who ∧ tag.pool = requesterPool m.who ∧ tag.kind = m.kind ∧ tag.sector = m.sector ∧
      tag.waits = w ∧ tag.late = false
    (poolFull s m = false → behind = false → waitsForChannel s s.mem.tags m = false → m.ecc ≠ Ecc.uncorrectable →
      protectedBy s phys = none → (∀ i < 64, badWord s (phys + 8 * i) = false) →
      (m.kind = .write → m.who = .link ∨ m.who = .ethernet →
        Does (.memoryOperation m) s [.mem, .mon] fun t => tagged t none ∧
          ∀ a, hbmByte t a =
            if phys ≤ a ∧ a < phys + 512 ∧ m.mask.getLsbD (a - phys) = true then m.data.getD (a - phys) 0#8
            else hbmByte s a) ∧
      (m.kind = .read → m.who = .link ∨ m.who = .ethernet ∨ m.who = .fetch →
        Does (.memoryOperation m) s [.mem, .mon] fun t => tagged t none ∧ t.mem.hbm = s.mem.hbm ∧ t.mem.stale = s.mem.stale)) ∧
    (poolFull s m = false → behind = false → waitsForChannel s s.mem.tags m = true →
      Does (.memoryOperation m) s [.mem, .mon] fun t => tagged t (some m) ∧ t.mem.hbm = s.mem.hbm ∧ t.mem.bad = s.mem.bad) ∧
    (poolFull s m = true ∨ behind = true →
      let die := (dieFor s m).val
      Does (.memoryOperation m) s [.mem, .mon] fun t => t.mem = { s.mem with
        held := s.mem.held ++ [m]
        tagWaits := if poolFull s m = true then
            s.mem.tagWaits.set die (BitVec.ofNat 32 (satAdd 32 (s.mem.tagWaits.get die).toNat 1))
          else s.mem.tagWaits })) ∧
  (∀ (m : MemOp) (s : State), hbmLimit ≤ 512 * m.sector → m.who = .link ∨ m.who = .ethernet →
    Does (.memoryOperation m) s [.mem] fun t => t.mem = { s.mem with dropped := s.mem.dropped + 1 }) ∧
  (∀ (die : Fin 8) (pool : Pool) (s : State) (a b : List Tag) (x : Tag), s.mem.tags = a ++ x :: b →
    x.die = die → x.pool = pool → tagReady s x = true →
    (∀ y ∈ a, y.die ≠ die ∨ y.pool ≠ pool ∨ tagReady s y = false) → s.mem.held = [] →
    Does (.memoryOperationComplete die pool) s [.mem] fun t => t.mem = { s.mem with
      tags := a ++ b, lateCount := s.mem.lateCount + x.late.toNat })

/-- A patrol read that is clean moves the patrol point only, a corrected error is also counted, an uncorrectable one
counted and recorded with its page; where no operation waits for a channel, maintenance takes one channel of a stack
out of service, or gives it back, and no other of that stack stays out; a window sets the deepest stack, the ratio
(rounded down to its unit, the model's choice of log 55) and the run of windows above 4, and the 1,000th in a row sets
IMBAL and, under AUTOKEY, has a re-key pend; an accumulation that no earlier operation of its engine holds up stores
the rounded sum of the element sent and the stored one, rounded alike in every profile (log entry 24), and a non-
finite sum sets the bank die's flag alone (log entry 55).
(R223, R224, R225, R226, R228, R239, R242.) -/
def Obligations.BankDieEventsComplete : Prop :=
  (∀ (addr : Nat) (s : State), addr < hbmLimit →
    let die := dieOf s addr
    (badWord s addr = false →
      (Does (.patrolScrub addr .clean) s [.mem] fun t => t.mem = { s.mem with patrol := addr }) ∧
      (Does (.patrolScrub addr .corrected) s [.mem, .mon] fun t => t.mem = { s.mem with
        patrol := addr
        ce := s.mem.ce.set die (BitVec.ofNat 16 (satAdd 16 (s.mem.ce.get die).toNat 1)) })) ∧
    (∀ ecc, ecc = Ecc.uncorrectable ∨ badWord s addr = true →
      ∃ t, exec (.patrolScrub addr ecc) s = .next t ∧ t.mem.patrol = addr ∧
        (t.mem.ue.get die).toNat = satAdd 8 (s.mem.ue.get die).toNat 1 ∧
        (t.mem.ueAddr.get die).toNat % 2097152 = addr / 2097152 ∧ t.time = s.time ∧
        t.cu.vreg = s.cu.vreg ∧ t.cu.sreg = s.cu.sreg)) ∧
  (∀ (stack : Fin 24) (channel : Option (Fin 32)) (s : State), (∀ x ∈ s.mem.tags, x.waits = none) →
    Does (.hbmMaintenance stack channel) s [.mem] fun t =>
      t.mem = { s.mem with maintenance := t.mem.maintenance } ∧
      (∀ c, channel = some c → (stack.val, c.val, s.uptime) ∈ t.mem.maintenance) ∧
      (∀ c n, (stack.val, c, n) ∈ t.mem.maintenance → ∃ e, channel = some e ∧ c = e.val ∧ n = s.uptime) ∧
      ∀ x c n, x ≠ stack.val → ((x, c, n) ∈ t.mem.maintenance ↔ (x, c, n) ∈ s.mem.maintenance)) ∧
  (∀ (means : List Nat) (s : State), means.length = 24 →
    let top := means.foldl max 0
    let n := if 24 * top > 4 * means.sum then satAdd 16 s.mem.imbalWindows.toNat 1 else 0
    Does (.imbalanceWindow means) s [.mem, .eth] fun t =>
      t.mem.imbalStack = BitVec.ofNat 5 (deepest means) ∧ t.mem.imbalWindows = BitVec.ofNat 16 n ∧
      t.mem.imbalRatio = BitVec.ofNat 8 (if means.sum = 0 then 0 else min 255 (96 * top / means.sum)) ∧
      t.mem.imbal = (s.mem.imbal || n == 1000) ∧ t.mem.keyPending = (s.mem.keyPending || (n == 1000 && s.mem.autokey)) ∧
      t.mem.hbm = s.mem.hbm ∧ t.mem.salt = s.mem.salt ∧ (n ≠ 1000 → t.eth = s.eth)) ∧
  (∀ (core engine : Fin 16) (element : Nat) (s : State) (c : Captured),
    s.cu.captured.find? (fun c => c.core == core.val && c.engine == engine.val && c.asked.any fun x => x.1 == element) =
      some c →
    ((unitAddrs c element).all fun a => firstIn s c (a / 512)) = true →
    let sent := ((c.asked.find? fun x => x.1 == element).map (·.2)).getD 0
    let sum := convertTo (dFmt c.desc) .rne false false 0
      (Machine.Num.add (elementNum (dFmt c.desc) (memBits c (memByte s) element) 0) (elementNum (rFmt c.regDesc) sent 0))
    let die := dieOf s (walkAddr c.desc (c.start + element)).1.toNat
    Does (.accumulateOnWrite core engine element) s [.cu, .mem] fun t =>
      t.mem.hbm = (putMemBits s c element sum.bits).mem.hbm ∧ t.cu.region = s.cu.region ∧ t.cu.vreg = s.cu.vreg ∧
      t.cu.sreg = s.cu.sreg ∧ t.cu.tile = s.cu.tile ∧ t.cu.acc = s.cu.acc ∧
      t.mem.nonfin = (if sum.nonfin = true then putFlag s.mem.nonfin die true else s.mem.nonfin))

/-- A maker session's CORE_FENCE of an Active or Spare position, and the loss of an Active position's clock, fence that
position with causes 6 and 5, switch its domain off and leave the other positions as they are; a CORE_FENCE without
that right is counted as denied and changes no position; the loss of the clock of a fabric island, the sequencer or
the seam stops a job that runs with SLIP (code 7, which R446's words 'as for a SLIP fault' leave to log entry 49); a
fenced position's spare that is wide enough becomes Active with its logical number, the vector registers and regions
of that number zero and the identity block rewritten; and without a lease a spare that cannot is reported (with report
2 or 3, log entry 48), and no position changes.
(R133, R134, R136, R416, R446.) -/
def Obligations.CorePositionEventsComplete : Prop :=
  (∀ (value : Word) (s : State), s.pwr.positions.length = 20 →
    let p := fld value 4 0
    (sessionIs s .maker = true → flag value 5 = true → p < 20 →
      (positionAt s p).state = 1 ∨ (positionAt s p).state = 2 →
      ∃ t, exec (.coreFence value) s = .next t ∧ (positionAt t p).state = 3 ∧ (positionAt t p).cause = 6 ∧
        flag t.pwr.domains p = false ∧ (∀ q, q ≠ p → positionAt t q = positionAt s q) ∧ t.time = s.time) ∧
    (sessionIs s .maker = false →
      Does (.coreFence value) s [.sec] fun t =>
        t.sec.denied.toNat = satAdd 8 s.sec.denied.toNat 1 ∧ t.sec.life = s.sec.life ∧ t.sec.role = s.sec.role)) ∧
  (∀ (domain : Fin 24) (s : State), s.pwr.positions.length = 20 →
    (domain.val < 20 → (positionAt s domain).state = 1 →
      ∃ t, exec (.clockLockLoss domain) s = .next t ∧ (positionAt t domain).state = 3 ∧
        (positionAt t domain).cause = 5 ∧ flag t.pwr.domains domain = false ∧
        ∀ q, q ≠ domain.val → positionAt t q = positionAt s q) ∧
    (20 ≤ domain.val → s.seq.job.isSome = true → s.seq.stopped = false →
      ∃ t, exec (.clockLockLoss domain) s = .next t ∧ t.seq.stopped = true ∧ t.seq.fault.code = 7 ∧ t.pwr = s.pwr)) ∧
  (∀ (position : Fin 20) (s : State) (core : Nat), s.pwr.positions.length = 20 →
    s.pwr.capable.findIdx? (· == some position.val) = some core → (positionAt s position).state = 3 → core < 16 →
    let spare := 5 * (position.val / 5) + 4
    spareFits s spare = true →
    Does (.spareTakeover position) s [.cu, .sec, .pwr] fun t =>
      t.sec = { s.sec with capability := capabilityBytes t, idKey := identityKey s, cert := shownCertificate s } ∧
      (positionAt t spare).state = 1 ∧ (positionAt t spare).logical = BitVec.ofNat 4 core ∧
      (∀ q, q ≠ spare → positionAt t q = positionAt s q) ∧
      (∀ k, core * 16384 ≤ k → k < core * 16384 + 16384 → t.cu.vreg.get k = 0) ∧
      (∀ k, core * 256 ≤ k → k < core * 256 + 256 → t.cu.region.get k = 0) ∧
      ∀ k, k < core * 16384 ∨ core * 16384 + 16384 ≤ k → t.cu.vreg.get k = s.cu.vreg.get k) ∧
  (∀ (position : Fin 20) (s : State) (core : Nat),
    s.pwr.capable.findIdx? (· == some position.val) = some core → (positionAt s position).state = 3 →
    let spare := 5 * (position.val / 5) + 4
    spareFits s spare = false → leased s = false →
    Does (.spareTakeover position) s [.eth] fun t =>
      t.eth = (if (positionAt s spare).state = 2 then report s 2 (positionAt s spare).width else report s 3 (activeCount s)).eth)

/-- A waiting launch starts once everything issued before it has completed: a trust-ratio kind enters pass 1 and stages
nothing; another kind enters its final pass and, where memory has no uncorrectable word, stages each of its blocks;
the sum of the norms takes a trust-ratio launch to its final pass and stages its blocks likewise (that all blocks are
staged at those two instants is the model's choice, log entry 26); a launch in its final pass of whose writes none is
under way leaves the list. The copy that is current is the same throughout, and the cores are untouched.
(R263, R266, R267, R268, R272.) -/
def Obligations.MeadowsweetCommandsComplete : Prop :=
  ∀ (desc : BitVec 12) (s : State) (l : OptLaunch), optLaunchOf s desc.toNat = some l →
    let d := optDescr s l.desc
    let staged := fun (t : State) => ∀ k < recordCount d, t.mem.staged.get ((oParam d + 12288 * k) / 98304) = 1
    let phase := fun (t : State) (p : LaunchPhase) => ∀ x ∈ t.mem.launches, x.desc = l.desc → x.phase = p
    (l.phase = .waiting → earlierDone s l = true →
      (isTrust (oKind d) = true → Does (.meadowsweetLaunchStart desc) s [.mem] fun t =>
        phase t .pass1 ∧ t.mem.staged = s.mem.staged ∧ t.mem.cur = s.mem.cur ∧ t.mem.optBusy = 255) ∧
      (isTrust (oKind d) = false → s.mem.bad = [] →
        Does (.meadowsweetLaunchStart desc) s [.mem, .link, .rsl, .mon, .outbox] fun t =>
          phase t .final ∧ staged t ∧ t.mem.cur = s.mem.cur ∧ t.mem.optBusy = 255)) ∧
    (l.phase = .pass1 → s.mem.bad = [] → Does (.trustRatioSum desc) s [.mem, .link, .rsl, .mon, .outbox] fun t =>
      phase t .final ∧ staged t ∧ t.mem.cur = s.mem.cur ∧ t.mem.optBusy = 255) ∧
    (l.phase = .final → updateWrites s l.desc = false →
      Does (.meadowsweetLaunchComplete desc) s [.mem, .mon] fun t =>
        t.mem.launches = s.mem.launches.filter (fun x => x.desc != l.desc) ∧ t.mem.staged = s.mem.staged ∧
        t.mem.cur = s.mem.cur ∧ t.mem.hbm = s.mem.hbm ∧
        ((∀ x ∈ t.mem.launches, x.phase = .waiting) → t.mem.optBusy = 0))

/-- At the start of a slot a gathered commit enters the join with its payload: where some child's has not come, it waits
for it; at the root with every child's, the joined payload is there. Each owned link that is UP, no tree edge, and
takes a packet at once carries the count of the packets sent there (its place is log entry 12's). At the commit
instant, with no scale record met uncorrectable and no page that is still to be copied, or no uncorrectable word:
without the joined SKIP the staged blocks change version, the step counter advances and the run of skips ends; with it
no block changes version, the step's stash entries go and the skip is counted; PENDING of every scale slot is zero
after either; a scale record met uncorrectable leaves versions, step, commits and skips as they are. With the next
units resident the commit completes: the non-finite flags clear, the micro-batch is 0, ATTEMPTQ holds the run of skips
and one more commit counts; where memory has no uncorrectable word and no topology update waits, a snapshot due at the
quiet point starts, unless some device is busy. Registers and regions of the cores are kept.
(R213, R275, R276, R278, R279, R280, R281, R282, R347, R354, R357, R392.) -/
def Obligations.CommitCommandsComplete : Prop :=
  (∀ s : State, s.commit.phase = .gathered → atSlotStart s = true → s.coll.reduction.entered = false →
    let own := reductionPayload s
    Does .commitReductionLaunch s [.link, .coll, .commit, .mon, .outbox] fun t =>
      t.commit = { s.commit with phase := .launched } ∧
      (¬ kidsMet s 0 own → t.coll.reduction = { s.coll.reduction with own := some own, entered := true }) ∧
      (kidsMet s 0 own → treeParent (jobTopo s) 7 (myRank s) = none →
        t.coll.reduction.down = some ((s.coll.reduction.kids.filter (kidMeets s 0 own)).foldl
          (fun v k => joinBytes 0 v k.2) own)) ∧
      ∀ p ∈ ownedPorts s, p ∉ treePorts s →
        let x := newPacket s (peerCoord s p) 2 (systemAux s 0 false (portOf s p).sent.toNat) []
        (portOf s p).waiting = [] → hasRoom s p x = true →
        ∃ y, OutMsg.packet p y ∈ t.outbox ∧ y.aux = x.aux ∧ y.dest = x.dest ∧ y.payload = []) ∧
  (∀ (bs : List Byte) (s : State), s.commit.phase = .launched → s.coll.reduction.down = some bs → scalesMet s = [] →
    s.rsl.left = [] ∨ s.mem.bad = [] →
    let skip := (numAt bs 0 1).testBit 0
    Does .commitInstant s [.cu, .seq, .mem, .stash, .link, .coll, .commit, .rsl, .eth, .mon, .outbox] fun t =>
      t.commit.phase = .decided ∧ t.mem.staged = [] ∧ t.mem.digest = 0 ∧ t.coll.reduction.down = none ∧
      (∀ k, fld (t.cu.scale.get k) 87 56 = 0) ∧ t.cu.vreg = s.cu.vreg ∧ t.cu.sreg = s.cu.sreg ∧
      t.cu.region = s.cu.region ∧ t.commit.busy = (numAt bs 0 1).testBit 1 ∧
      (skip = false → t.seq.step = s.seq.step + 1 ∧ t.commit.last = 1 ∧ t.commit.skiprun = 0 ∧
        t.commit.skips = s.commit.skips ∧ t.stash = s.stash ∧
        (s.mem.staged.wf = true → ∀ b, t.mem.cur.get b = s.mem.cur.get b ^^^ s.mem.staged.get b)) ∧
      (skip = true → t.seq.step = s.seq.step ∧ t.commit.last = 2 ∧ t.commit.skiprun = s.commit.skiprun + 1 ∧
        t.commit.skips.toNat = satAdd 32 s.commit.skips.toNat 1 ∧ t.mem.cur = s.mem.cur ∧
        ∀ e ∈ t.stash.entries, e.born ≠ s.rsl.commits)) ∧
  (∀ (bs : List Byte) (s : State), s.commit.phase = .launched → s.coll.reduction.down = some bs → scalesMet s ≠ [] →
    ∃ t, exec .commitInstant s = .next t ∧ t.mem.cur = s.mem.cur ∧ t.seq.step = s.seq.step ∧
      t.rsl.commits = s.rsl.commits ∧ t.commit.skips = s.commit.skips) ∧
  (∀ s : State, s.commit.phase = .decided → unitsResident s = true → s.eth.stopping = false → s.eth.phase ≠ .lapsing →
    s.mem.bad = [] → s.link.waiting = none →
    Does .stepCommitComplete s [.cu, .seq, .mem, .link, .coll, .commit, .rsl, .eth, .mon, .outbox] fun t =>
      t.commit.phase = .idle ∧ t.cu.nonfin = 0 ∧ t.cu.satf = 0 ∧ t.mem.nonfin = 0 ∧ t.coll.nonfin = false ∧
      t.seq.microBatch = 0 ∧ t.seq.fresh = true ∧ t.rsl.commits = s.rsl.commits + 1 ∧
      qregOf t (numAt (commitConfig s) 18 1 % 32) = BitVec.ofNat 32 s.commit.skiprun ∧
      (∃ r, t.rsl.rewind = some r ∧ r.c = s.rsl.commits + 1 ∧ r.step = s.seq.step ∧ r.cursor = s.eth.cursor) ∧
      t.cu.vreg = s.cu.vreg ∧ t.cu.region = s.cu.region ∧
      (s.commit.good = true → s.commit.busy = false → s.rsl.slots.length = 2 →
        s.rsl.lastSnap.toNat + snapInterval s ≤ (s.rsl.commits + 1).toNat →
        ∃ n, t.rsl.filling = some n ∧ (slotAt t n).state = 1 ∧ (slotAt t n).c = s.rsl.commits + 1 ∧ t.mem.snapCur = s.mem.cur) ∧
      (s.commit.good = false → numAt (commitConfig s) 17 1 ≤ s.commit.skiprun →
        t.seq.running = false ∧ t.commit.limit = true))

/-- The trickler copies the first protected page, undamaged, byte for byte from its source copies into its place in the
slot being filled and ends its protection; a copy that is due of a complete slot to flash has every byte the partner
holds (what it holds is what the device wrote there, log entry 52), and one to a store that the record lists begins
with the write of page 1 to its place in the namespace there; a layer copy whose writes are all made adds its layer to
the slot, and the first layer's completes the slot, ends protection and makes the lower layers' copies due; a failed
copy of a complete slot leaves it complete, and a failed first copy leaves its slot empty.
(R349, R351, R357, R360, R362, R363, R364, R393.) -/
def Obligations.SnapshotCommandsComplete : Prop :=
  (∀ (s : State) (n p : Nat) (rest : List Nat), s.mem.hbm.wf = true → s.rsl.filling = some n → s.rsl.left = p :: rest →
    pageDamaged s p = none →
    Does .tricklerCopy s [.link, .rsl, .mon, .outbox] fun t =>
      t.rsl.left = s.rsl.left.filter (· != p) ∧ t.rsl.slots = s.rsl.slots ∧
      ∀ o < 2097152, (if firstLayer s = .flash then t.rsl.flash else t.rsl.remote).get (flashAddr n (1 + pageIndex s p) + o) =
        hbmByte s (sourceAddr s (2097152 * p + 4096 * (o / 4096)) + o % 4096)) ∧
  (∀ (slot : Fin 2) (s : State), s.rsl.slots.length = 2 →
    (mayLower s slot .flash = true → s.rsl.remote.wf = true →
      Does (.lowerLayerCopy slot .flash) s [.rsl] fun t => Layer.flash ∈ (slotAt t slot).copying ∧
        Layer.flash ∉ (slotAt t slot).due ∧
        ∀ o < 2 ^ 50, t.rsl.flash.get (flashAddr slot 0 + o) = s.rsl.remote.get (flashAddr slot 0 + o)) ∧
    (mayLower s slot .store = true → s.eth.up = true → committedPages s ≠ [] →
      (numAt s.eth.entry 104 1 < 8 → targetListed s (numAt s.eth.entry 104 1) = true) →
      Does (.lowerLayerCopy slot .store) s [.rsl, .eth, .outbox] fun t => Layer.store ∈ (slotAt t slot).copying ∧
        Layer.store ∉ (slotAt t slot).due ∧
        ∃ r x, OutMsg.transfer r x ∈ t.outbox ∧ x.target = numAt s.eth.entry 104 1 ∧ x.use = .store slot ∧
          x.ns = numAt s.eth.entry 108 4 ∧ x.addr = storeBase s slot + 512 ∧ x.bytes = slotPage s slot 1)) ∧
  (∀ (slot : Fin 2) (layer : Layer) (s : State), s.rsl.slots.length = 2 →
    (copyMade s slot layer = true →
      Does (.snapshotComplete slot layer) s [.link, .rsl, .mon, .outbox] fun t => (slotAt t slot).state = 2 ∧
        layer ∉ (slotAt t slot).copying ∧
        (layer = .partner → (slotAt t slot).partner = true) ∧ (layer = .flash → (slotAt t slot).flash = true) ∧
        (layer = .store → (slotAt t slot).store = true) ∧ (slotAt t slot).c = (slotAt s slot).c ∧
        slotAt t (1 - slot.val) = slotAt s (1 - slot.val) ∧
        ((slotAt s slot).state = 1 → t.rsl.filling = none ∧ t.rsl.left = [] ∧
          (slotAt t slot).due = (slotAt s slot).due ++ lowerLayers s)) ∧
    (layer ∈ (slotAt s slot).copying ∨ layer ∈ (slotAt s slot).due → (slotAt s slot).state = 2 →
      Does (.layerCopyFail slot layer) s [.rsl] fun t => (slotAt t slot).state = 2 ∧
        layer ∉ (slotAt t slot).copying ∧ layer ∉ (slotAt t slot).due) ∧
    (layer ∈ (slotAt s slot).copying → (slotAt s slot).state = 1 → s.rsl.filling = some slot.val →
      Does (.layerCopyFail slot layer) s [.link, .rsl, .mon, .outbox] fun t => slotAt t slot = Slot.empty ∧ t.rsl.filling = none ∧
        t.rsl.left = []))

/-- A device whose children's payloads have not all come waits in a barrier with its own, a spare in the decide barrier
once it has read what its candidate rests on. Once the joined payload is there: where no device needs a restore and
all rewind points are of one commit, the decide barrier rewinds the device: the counters and sequencer registers of
its rewind point are in force, its generator slots where their sequential streams agree with the image's table, and
every vector register and region of its active cores is zero; where one needs it, the restore of the joined target
begins, or without a target the recovery ends. The restart barrier stores the origin and lets issue go on from the
resumed slot, or ends the fourth recovery without a commit; the release barrier lets the job go, or after a mismatch
recovers again; the start barrier stores the origin, at a root whose children's payloads are there the second multiple
of 2^20 after its counter's, and starts a confirmed job. That step, commits and cursor are zero then is log entry 51,
the place of the origin in the payload log entry 12.
(R321, R355, R356, R366, R367, R368, R369, R370, R372, R374, R375.) -/
def Obligations.RecoveryCommandsComplete : Prop :=
  (∀ (s : State) (c : Instr) (k : Nat) (own : RecoveryPayload),
    (c = .recoveryDecide ∧ k = 1 ∧ s.rsl.phase = .decide ∧ scanning s = false ∧ own = decidePayload s) ∨
      (c = .restartBarrier ∧ k = 2 ∧ s.rsl.phase = .restart ∧ s.rsl.record.isSome = true ∧ own = plainPayload false) ∨
      (c = .releaseBarrier ∧ k = 3 ∧ s.rsl.phase = .release ∧ own = plainPayload s.rsl.mismatch) ∨
      (c = .startBarrier ∧ k = 0 ∧ s.eth.phase = .confirmed ∧ s.time.locked = true ∧ s.time.origin = 0 ∧
        s.seq.job.isSome = true ∧ s.eth.spare = false ∧ own = plainPayload false) →
    s.coll.barrier.entered = false → s.coll.barrier.down = none → ¬ kidsMet s 1 (barrierBytes k own) →
    Does c s [.coll] fun t => t.coll.barrier = { s.coll.barrier with own := some (barrierBytes k own), entered := true }) ∧
  (∀ (bs : List Byte) (s : State), s.rsl.phase = .decide → scanning s = false →
    (enterJoin s 1 (barrierBytes 1 (decidePayload s))).coll.barrier.down = some bs →
    let q := barrierOf bs
    (∀ r, q.need = false → q.rmin = q.rmax → s.rsl.rewind = some r →
      Does .recoveryDecide s [.cu, .seq, .mem, .stash, .link, .coll, .commit, .rsl, .eth, .mon, .outbox] fun t =>
        t.rsl.phase = .restart ∧ t.seq.step = r.step ∧ t.seq.qreg = r.q ∧ t.eth.cursor = r.cursor ∧
        t.coll.layout = r.layout ∧ t.cu.captured = [] ∧ t.mem.staged = [] ∧ t.stash.entries = [] ∧
        ((∀ e ∈ (List.range (seqCount s)).map (seqEntry s),
          BitVec.ofNat 64 (fld (r.gen.get (numAt e 0 1 * 16 + numAt e 1 1)) 127 64) = tableDraw e r.cursor) →
          t.cu.gen = r.gen) ∧
        t.mem.cur = s.mem.cur ∧ t.rsl.runs.toNat = satAdd 8 s.rsl.runs.toNat 1 ∧
        ∀ c < jobCores s, (∀ k < 16384, t.cu.vreg.get (c * 16384 + k) = 0) ∧ ∀ n < 256, regionOf t c n = 0) ∧
    (q.need = true ∨ q.rmin ≠ q.rmax → q.target ≠ noTarget →
      Does .recoveryDecide s [.cu, .seq, .mem, .stash, .link, .coll, .commit, .rsl, .eth, .sec, .mon, .outbox] fun t =>
        t.rsl.phase = .image ∧ t.rsl.target = q.target ∧ t.rsl.rewind = none) ∧
    (q.need = true ∨ q.rmin ≠ q.rmax → q.target = noTarget →
      Does .recoveryDecide s [.link, .coll, .rsl, .eth, .mon, .outbox] fun t => t.rsl.phase = .ended ∧ t.rsl.last = 3)) ∧
  (∀ (bs : List Byte) (s : State) (r : StateRecord), s.rsl.phase = .restart → s.rsl.record = some r →
    (enterJoin s 1 (barrierBytes 2 (plainPayload false))).coll.barrier.down = some bs →
    let origin := originIn bs
    (s.rsl.runs.toNat < 4 → Does .restartBarrier s [.seq, .link, .time, .coll, .rsl, .mon, .outbox] fun t =>
      t.time.origin = origin ∧ t.rsl.start = some (origin + 512 * r.slotq) ∧ t.seq.running = !s.commit.limit ∧
      t.seq.stopped = false ∧ t.rsl.phase = (if s.rsl.last = 2 then .verify else .idle) ∧ t.seq.qreg = s.seq.qreg ∧
      t.seq.loops = s.seq.loops) ∧
    (4 ≤ s.rsl.runs.toNat → Does .restartBarrier s [.seq, .link, .time, .coll, .rsl, .eth, .mon, .outbox] fun t =>
      t.rsl.phase = .ended ∧ t.seq.running = false)) ∧
  (∀ (bs : List Byte) (s : State), s.rsl.phase = .release →
    (enterJoin s 1 (barrierBytes 3 (plainPayload s.rsl.mismatch))).coll.barrier.down = some bs →
    ((barrierOf bs).mismatch = false → Does .releaseBarrier s [.link, .coll, .rsl, .eth, .mon, .outbox] fun t =>
      t.rsl.phase = .idle ∧ t.rsl.limit = none ∧ t.eth.spare = false ∧ t.eth.cursor = s.eth.cursor) ∧
    ((barrierOf bs).mismatch = true → Does .releaseBarrier s [.link, .coll, .rsl, .eth, .mon, .outbox] fun t =>
      t.rsl.phase = .decide ∧ t.rsl.limit = some s.rsl.target ∧ t.rsl.need = true ∧
        (s.rsl.mismatch = true → t.rsl.verifyFail = true))) ∧
  (∀ (bs : List Byte) (s : State), s.eth.phase = .confirmed → s.time.locked = true → s.time.origin = 0 →
    s.seq.job.isSome = true → s.eth.spare = false →
    let own := barrierBytes 0 (plainPayload false)
    (enterJoin s 1 own).coll.barrier.down = some bs →
    Does .startBarrier s [.cu, .seq, .mem, .stash, .link, .time, .coll, .commit, .rsl, .eth, .pwr, .mon, .outbox] fun t =>
      t.time = { s.time with origin := originIn bs } ∧ t.seq.running = true ∧ t.seq.fault = FaultRec.none ∧ t.seq.step = 0 ∧
      t.seq.current = none ∧ t.seq.qreg = s.seq.qreg ∧ t.cu.region = [] ∧ t.cu.vreg = s.cu.vreg ∧
      t.cu.sreg = s.cu.sreg ∧ t.mem.hbm = s.mem.hbm ∧ t.rsl.commits = 0 ∧ t.eth.cursor = 0 ∧ t.mem.launches = [] ∧
      (s.coll.barrier.entered = false → treeParent (jobTopo s) 7 (myRank s) = none → kidsMet s 1 own →
        originIn bs = BitVec.ofNat 64 (2 ^ 20 * (s.time.epoch.toNat / 2 ^ 20 + 2))))

/-- At the first tick of a slot that has reached its launch slot, a ready launch starts (where its reads meet no
uncorrectable error), and one that is not ready has missed: it is marked as slipped, and the miss counts once. A
packet of data or of a barrier of another layout epoch is counted as stale and its sender shut out; other packets from
a sender shut out are dropped; a chunk for an all-gather that has not started is held; a returned credit, a packet
with DOWN set (the model's choice of log 12), frees one queue entry. A peer's drained epoch is noted; a fence exchange
of another job (its coordinate in the place of CHUNK, log 12, and known again as log 35 says) is passed on once, on
each open port that takes a packet at once; an expired multicast branch counts and abandons the step that is open; a
started launch all of whose bindings are done and whose packets are all acknowledged leaves the list.
(R115, R332, R333, R334, R338, R340, R342, R344, R345, R353.) -/
def Obligations.CollectiveCommandsComplete : Prop :=
  (∀ (desc : BitVec 12) (ecc : Option (Fin 16 × Ecc)) (s : State) (i now : Nat) (l : Launch),
    oldestLaunch s desc.toNat = some i → slotNow s = some now →
    s.coll.launches[i]? = some l → l.started = false → l.slot ≤ now → atSlotStart s = true →
    (launchReady s l = true → (∀ c, ecc ≠ some (c, .uncorrectable)) →
      Does (.launchSlotTest desc ecc) s [.cu, .link, .coll, .pwr, .mon, .outbox] fun t =>
        (∃ m, t.coll.launches[i]? = some m ∧ m.started = true ∧ m.desc = l.desc) ∧
        t.coll.launches.length = s.coll.launches.length) ∧
    (launchReady s l = false → Does (.launchSlotTest desc ecc) s [.coll, .mon] fun t =>
      t.coll.launches[i]? = some { l with slipped := true, slips := now - l.slot } ∧
      t.coll.miss.toNat = (if l.slipped = true then s.coll.miss.toNat else satAdd 32 s.coll.miss.toNat 1))) ∧
  (∀ (port : Fin 7) (p : Packet) (ecc : Option (Fin 16 × Ecc)) (s : State), (portOf s port).mode = .up → p.kind = 2 →
    addrCoord p.dest = myCoord s →
    p.jobtag = jobTag s → jobTag s ≠ 0 → isSystem p = false →
    let src := BitVec.ofNat 18 p.src.toNat
    let desc := fld p.aux 11 0
    let rank := rankOf s (jobTopo s) src
    let key := (2 * rank, fld p.aux 63 32)
    (hasData s p = true → fld p.aux 31 16 ≠ fld s.coll.layout 15 0 → ∃ t, exec (.collectivePacket port p ecc) s = .next t ∧
      t.coll.stale.toNat = satAdd 16 s.coll.stale.toNat 1 ∧ t.coll.barred.contains src = true ∧ t.time = s.time ∧
      t.pwr = s.pwr) ∧
    (hasData s p = false ∨ fld p.aux 31 16 = fld s.coll.layout 15 0 →
      (s.coll.barred.contains src = true → exec (.collectivePacket port p ecc) s = .next s) ∧
      (s.coll.barred.contains src = false → takesData s = true →
        (flag p.aux 12 = true → cKind (collDescr s desc) = 8 →
          (∀ l ∈ s.coll.launches, l.desc = desc → l.started = true → ∀ b ∈ l.sends, b.doneB = true) →
          Does (.collectivePacket port p ecc) s [.coll] fun t =>
            t.coll.taken.get desc = BitVec.ofNat 8 ((s.coll.taken.get desc).toNat - 1) ∧
            t.coll.launches = s.coll.launches) ∧
        (∀ i l, flag p.aux 12 = false → p.payload ≠ [] → chunkLaunch s desc key = some i → s.coll.launches[i]? = some l →
          cKind (collDescr s l.desc) = 3 → l.started = false →
          Does (.collectivePacket port p ecc) s [.cu, .link, .coll, .mon, .outbox] fun t =>
            ∃ m, t.coll.launches[i]? = some m ∧ m.seen = l.seen ++ [key] ∧
              m.chunks = l.chunks ++ [{ rank := rank, down := false, index := fld p.aux 63 32, data := p.payload }])))) ∧
  (∀ (port : Fin 7) (src : BitVec 18) (epoch : BitVec 16) (s : State), (portOf s port).mode = .up →
    s.coll.drained.contains (src, epoch) = false →
    Does (.epochDrained port src epoch) s [.coll] fun t =>
      t.coll = { s.coll with drained := s.coll.drained ++ [(src, epoch)] }) ∧
  (∀ (port : Fin 7) (coord : BitVec 18) (tag : BitVec 16) (s : State), portOpen s port = true → tag ≠ jobTag s ∨ tag = 0 →
    (noticeSeen s (fenceNotice coord tag) = true → exec (.fenceExchange port coord tag) s = .next s) ∧
    (noticeSeen s (fenceNotice coord tag) = false →
      Does (.fenceExchange port coord tag) s [.link, .mon, .outbox] fun t =>
        (∀ p, (portOf t p).mode = (portOf s p).mode) ∧
        ∀ p ∈ openPorts s, (portOf s p).waiting = [] → hasRoom s p (fencePacket s p coord tag) = true →
          ∃ y, OutMsg.packet p y ∈ t.outbox ∧ y.jobtag = tag ∧ y.aux = (fencePacket s p coord tag).aux)) ∧
  (∀ (desc : BitVec 12) (port : Fin 7) (s : State),
    branchExpired s desc.toNat port = true → 1 ≤ cKind (collDescr s desc.toNat) →
    cKind (collDescr s desc.toNat) ≤ 4 → stepOpen s = true →
    ∃ t, exec (.mcastTimeout desc port) s = .next t ∧ t.coll.mcast.toNat = satAdd 8 s.coll.mcast.toNat 1 ∧
      t.rsl.phase = .decide ∧ t.rsl.cause = 9 ∧ t.seq.running = false ∧ t.time = s.time ∧ t.pwr = s.pwr) ∧
  (∀ (desc : BitVec 12) (s : State) (i : Nat) (l : Launch), oldestLaunch s desc.toNat = some i →
    s.coll.launches[i]? = some l → l.started = true → launchBound s l = true → allAcked s l.desc = true →
    Does (.collectiveComplete desc) s [.cu, .link, .coll, .mon, .outbox] fun t =>
      t.coll.launches.map (·.desc) = (s.coll.launches.eraseIdx i).map (·.desc) ∧ t.link.topo = s.link.topo)

/-- An exchange on an identified port gives its link delay and the peer's stratum and, with the time parent, one more
offset; the correction of an interval with offsets sets OFFSET and the rate, ends holdover, and sets LOCKED after ten
intervals within 2 ns or keeps it within 8 ns; a root without IEEE 1588 time, or without an exchange with it in an
interval (the model's choice of log 54), holds over, and ALARM is set after 1,000 intervals; a Sync of the device's
domain is answered with a delay request, the response to which loads a counter that waits for it and afterwards gives
one more offset; without it the counter is loaded after the wait from a neighbour in CHECK, with the measured delay of
its link added (both in whole ticks rounded down, the model's choice of log 55), or with zero at stratum 63.
(R314, R315, R316, R317, R318, R320, R384.) -/
def Obligations.TimeCommandsComplete : Prop :=
  (∀ (port : Fin 7) (t1 t2 t3 t4 : Nat) (stratum : BitVec 6) (s : State), s.link.ports.length = 7 →
    (portOf s port).mode = .check ∨ (portOf s port).mode = .up ∨ (portOf s port).mode = .mgmt →
    Does (.timestampExchange port t1 t2 t3 t4 stratum) s [.link, .time] fun t =>
      (portOf t port).delay = ((t2 : Int) - t1) + ((t4 : Int) - t3) ∧ (portOf t port).stratum = stratum ∧
      (portOf t port).exchanges = (portOf s port).exchanges + 1 ∧ (portOf t port).mode = (portOf s port).mode ∧
      (∀ p, p ≠ port.val → portOf t p = portOf s p) ∧
      t.time = { s.time with thetas := if s.time.parent.toNat = port.val
        then s.time.thetas ++ [((t2 : Int) - t1) - ((t4 : Int) - t3)] else s.time.thetas }) ∧
  (∀ s : State, s.time.loaded = true →
    let u := chooseParent s
    let n := u.time.thetas.length
    let sum := u.time.thetas.foldl (· + ·) 0
    parentHeld u = false →
    (leased s = false ∨ myRank s ≠ 0 ∨ s.time.ptpSeen = true → u.time.thetas ≠ [] →
    Does .frequencyCorrection s [.time, .eth] fun t =>
      t.time.offset = offsetReading sum n ∧ t.time.rate = steerRate sum n ∧ t.time.holdover = false ∧
      t.time.thetas = [] ∧ t.time.epoch = s.time.epoch ∧
      t.time.inside = (if meanWithin sum n 2 = true then s.time.inside + 1 else 0) ∧
      t.time.locked = ((s.time.locked && meanWithin sum n 8) || decide (10 ≤ t.time.inside))) ∧
    (leased s = true → myRank s = 0 → s.time.ptpSeen = false ∨ u.time.thetas = [] →
    Does .frequencyCorrection s [.time, .eth] fun t =>
      t.time.holdover = true ∧ t.time.lostFor = s.time.lostFor + 1 ∧ t.time.epoch = s.time.epoch ∧
      t.time.alarm = (s.time.alarm || decide (1000 ≤ s.time.lostFor + 1)))) ∧
  (∀ (m : PtpMessage) (frame : EthFrame) (s : State), s.eth.up = true →
    let seen := { s.time with ptpSeen := true }
    (badFrame frame = true → Does (.ptpMessage m frame) s [.eth] fun t =>
      t.eth = { s.eth with uncorr := BitVec.ofNat 16 (satAdd 16 s.eth.uncorr.toNat 1) }) ∧
    (badFrame frame = false →
      (ptpMine s m = false → exec (.ptpMessage m frame) s = .next s) ∧
      (ptpMine s m = true →
        (∀ t1 t2, m.kind = .sync t1 t2 ∨ (m.kind = .followUp t1 ∧ s.time.sync = some (none, t2)) →
          Does (.ptpMessage m frame) s [.time, .outbox] fun t =>
            t.time = { seen with sync := some (some t1, t2) } ∧ t.outbox = s.outbox ++ [.delayRequest]) ∧
        (∀ t2, m.kind = .syncTwoStep t2 → Does (.ptpMessage m frame) s [.time] fun t =>
          t.time = { seen with sync := some (none, t2) }) ∧
        ∀ t1 t2 t3 t4, m.kind = .delayResponse t3 t4 → s.time.sync = some (some t1, t2) →
          let theta := ((t4 : Int) - t3) - ((t2 : Int) - t1)
          let u := chooseParent { s with time := { seen with sync := none } }
          (s.time.loading = true → Does (.ptpMessage m frame) s [.link, .time, .eth] fun t =>
            t.time.epoch = s.time.epoch + BitVec.ofInt 64 (theta / 512) ∧ t.time.loaded = true ∧ t.time.loading = false ∧
            t.time.ptpSeen = true ∧ t.time.sync = none) ∧
          (s.time.loading = false → s.time.loaded = true → Does (.ptpMessage m frame) s [.time] fun t =>
            t.time = { u.time with thetas := u.time.thetas ++ (if u.time.ptp = true then [theta] else []) })))) ∧
  (∀ s : State, s.time.loading = true →
    (Does (.epochLoadWaitExpiry none) s [.link, .time, .eth] fun t => t.time.epoch = 0 ∧ t.time.loaded = true ∧
      t.time.loading = false ∧ t.time.stratum = 63) ∧
    ∀ (p : Fin 7) (v : DWord), (portOf s p).mode = .check →
      Does (.epochLoadWaitExpiry (some (p, v))) s [.link, .time, .eth] fun t => t.time.epoch = neighbourTime s p v ∧
        t.time.loaded = true ∧ t.time.loading = false)

/-- With no topology update waiting, and no other port waiting in IDENT for a swapped pair (log 35): an enabled port that
is DOWN enters TRAIN on a signal, a trained port enters IDENT with its sequence numbers zero and nothing left to be
sent again (the model's choice of log 35) and sends its identity block of 64 bytes, a port that has not trained in
time goes DOWN with cause TRAINING and waits to retry, a retry and an installer's RETRAIN enter TRAIN; a port that the
self-test left no usable half is held DOWN with cause LANES by all three. The other ports keep their state.
(R29, R291, R292, R293, R298, R307, R466.) -/
def Obligations.PortTrainingCommandsComplete : Prop :=
  ∀ (port : Fin 7) (s : State), s.link.ports.length = 7 → s.link.waiting = none →
    (∀ p, p ≠ port.val → (portOf s p).mode = .ident → (portOf s p).heard = false) →
    let others := fun (t : State) => ∀ p, p ≠ port.val → (portOf t p).mode = (portOf s p).mode
    let few := tooFewGroups port (portOf s port).badGroups
    (s.pwr.busy = false → s.pwr.state ≠ 3 → (portOf s port).mode = .down → mayTrain s port = true →
      (portOf s port).retry = false →
      (few = true → Does (.signalDetect port) s [.link] fun t => (portOf t port).mode = .down ∧ (portOf t port).cause = 7 ∧
        others t) ∧
      (few = false → Does (.signalDetect port) s [.link, .time, .outbox] fun t => (portOf t port).mode = .train ∧
        (portOf t port).groupsOut = (portOf s port).badGroups ∧ others t)) ∧
    ((portOf s port).mode = .train →
      (Does (.trainingComplete port) s [.link, .outbox] fun t => (portOf t port).mode = .ident ∧
        (portOf t port).rxSeq = 0 ∧ (portOf t port).txSeq = 0 ∧ (portOf t port).unacked = [] ∧ others t ∧
        ∃ b, OutMsg.identity port b ∈ t.outbox ∧ b.length = 64 ∧ bytesAt b 0 16 = leBytes 16 Config.serial.toNat ∧
          numAt b 16 3 = (myCoord s).toNat) ∧
      ∃ t, exec (.trainingTimeout port) s = .next t ∧ (portOf t port).mode = .down ∧ (portOf t port).cause = 2 ∧
        (portOf t port).retry = true ∧ others t ∧ t.pwr = s.pwr ∧ t.cu.vreg = s.cu.vreg) ∧
    ((portOf s port).retry = true → (portOf s port).mode = .down → mayTrain s port = true →
      Does (.trainingRetry port) s [.link, .outbox] fun t => (portOf t port).mode = (if few = true then .down else .train) ∧
        (portOf t port).retry = false ∧ (few = true → (portOf t port).cause = 7) ∧ others t) ∧
    (sessionIs s .installer = true → mayTrain s port = true →
      ∃ t, exec (.retrain port) s = .next t ∧ (portOf t port).mode = (if few = true then .down else .train) ∧ others t ∧
        (few = true → (portOf t port).cause = 7) ∧ t.pwr = s.pwr ∧ t.cu.vreg = s.cu.vreg) ∧
    (sessionIs s .installer = false →
      Does (.retrain port) s [.sec] fun t => t.sec.denied.toNat = satAdd 8 s.sec.denied.toNat 1)

/-- With no topology update waiting, and no other port waiting in IDENT for a swapped pair (the model's choice of log 35):
the expected peer's block, nothing missing, brings a port to UP once the counter is loaded and to CHECK before (the
model's choice of log 45), and to MGMT where features are missing; CHECK without a match becomes MISWIRED after its
wait; loss of the codeword takes a port DOWN with its packets unacknowledged forgotten, and abandons the step of a job
whose data was among them; a lane group in error leaves the port on half its lanes, or DOWN where too few are left.
The other ports keep their states.
(R280, R288, R289, R291, R296, R297, R299, R307, R308, R315.) -/
def Obligations.PortStateCommandsComplete : Prop :=
  ∀ (port : Fin 7) (s : State), s.link.ports.length = 7 → s.link.waiting = none →
    (∀ p, p ≠ port.val → (portOf s p).mode = .ident → (portOf s p).heard = false) →
    let others := fun (t : State) => ∀ p, p ≠ port.val → (portOf t p).mode = (portOf s p).mode
    (∀ (b : IdBlock) (v : Nat), (portOf s port).mode = .ident ∨ (portOf s port).mode = .check →
      (∀ o, (portOf s port).peer = some o → o.serial = b.serial) → commonVersion port b = some v →
      v ≠ 3 ∨ (portOf s port).version = 3 → meetsEntry s (labelEntry s port) b = true →
      ∃ t, exec (.identityBlock port b) s = .next t ∧ (portOf t port).peer = some b ∧
        (portOf t port).version = BitVec.ofNat 2 v ∧
        (portOf t port).mode = (if missingBits s port b ≠ 0 then .mgmt else if s.time.loaded = true then .up else .check) ∧
        (portOf t port).missing = missingBits s port b ∧
        others t ∧ t.time = s.time ∧ t.pwr = s.pwr) ∧
    ((portOf s port).mode = .check → (portOf s port).fast = false →
      (portOf s port).peer.any (meetsEntry s (labelEntry s port)) = false →
      ∃ t, exec (.identityWaitTimeout port) s = .next t ∧ (portOf t port).mode = .miswired ∧ (portOf t port).cause = 4 ∧
        others t ∧ t.time = s.time ∧ t.pwr = s.pwr) ∧
    ((portOf s port).mode ≠ .down →
      ∃ t, exec (.linkDown port) s = .next t ∧ (portOf t port).mode = .down ∧ (portOf t port).cause = 1 ∧
        (portOf t port).unacked = [] ∧ others t ∧ t.pwr = s.pwr ∧
        (portOpen s port = true → (portOf t port).downs.toNat = satAdd 8 (portOf s port).downs.toNat 1) ∧
        (stepOpen s = true → jobTag s ≠ 0 →
          (∃ p ∈ (portOf s port).unacked, isData p = true ∧ p.jobtag = jobTag s) →
          t.rsl.phase = .decide ∧ t.rsl.cause = 7 ∧ t.seq.running = false)) ∧
    (∀ group : Fin 4, (portOf s port).mode ≠ .down → group.val < (laneGroups port).1 →
      let out := putFlag (portOf s port).groupsOut group true
      (tooFewGroups port out = false → Does (.laneGroupError port group) s [.link, .time] fun t =>
        (portOf t port).groupsOut = out ∧ (portOf t port).half = true ∧ (portOf t port).mode = (portOf s port).mode ∧
        ∀ p, p ≠ port.val → portOf t p = portOf s p) ∧
      (tooFewGroups port out = true → ∃ t, exec (.laneGroupError port group) s = .next t ∧
        (portOf t port).mode = .down ∧ (portOf t port).cause = 7 ∧ others t))

/-- A new notice that a link is down, in which the job is not named, is noted (one of the last 100 µs is known again, log
35) and passed on over each open port that takes a packet at once, laid out as log 55 says; a packet that arrives
whole and in order for this device is acknowledged and moves the receive number on, one with a bad CRC is counted and
asked for again, and a count of packets that differs abandons the step; a cumulative acknowledgement empties the
replay buffer up to its number; a replay request drops what it acknowledges and sends the rest again, as far as the
port's state carries it; an update that fails R311 changes nothing but the audit log (over the chain it is passed on
in either case, its frame log 60's choice), one that passes is in force at once without a lease, and with one waits
while a step is open or the job has not started; a request for attestation is served or queued.
(R215, R287, R288, R304, R307, R310, R311, R312, R420.) -/
def Obligations.LinkTrafficCommandsComplete : Prop :=
  (∀ (port : Fin 7) (n : Notice) (l : BitVec 18 × BitVec 3) (s : State), s.link.waiting = none → portOpen s port = true →
    noticeSeen s n = false → n.link = some l → n.up = false → n.tags.contains (jobTag s) = false ∨ jobTag s = 0 →
    ∃ t, exec (.linkStateNotice port n) s = .next t ∧ l ∈ t.link.downLinks ∧
      (∀ p, (portOf t p).mode = (portOf s p).mode) ∧ t.time = s.time ∧ t.pwr = s.pwr ∧
      (n.tags.length ≤ 2040 → ∀ p ∈ openPorts s, (portOf s p).waiting = [] →
        hasRoom s p (newPacket s (peerCoord s p) 4 0 (noticePayload n n.tags)) = true →
        ∃ y, OutMsg.packet p y ∈ t.outbox ∧ y.kind = 4 ∧ y.payload = noticePayload n n.tags)) ∧
  (∀ (port : Fin 7) (p : Packet) (s : State), s.link.ports.length = 7 → carries (portOf s port).mode p = true →
    p.kind ≠ 3 →
    (p.crc = packetCrc p → p.lseq = (portOf s port).rxSeq → addrCoord p.dest = myCoord s →
      p.kind ≠ 1 ∨ fld p.dest 43 0 < hbmLimit →
      let counted := carriesCount p = true ∧ p.src = (peerCoord s port).setWidth 24 ∧ p.jobtag = jobTag s ∧ stepOpen s = true
      (¬ counted ∨ fld p.aux 63 32 = (portOf s port).received.toNat →
        Does (.speedwellPacket port (some p) none) s [.link, .outbox] fun t =>
          (portOf t port).rxSeq = (portOf s port).rxSeq + 1 ∧ (portOf t port).mode = (portOf s port).mode ∧
          OutMsg.ack port p.lseq ∈ t.outbox ∧ ∀ q, q ≠ port.val → portOf t q = portOf s q) ∧
      (counted → fld p.aux 63 32 ≠ (portOf s port).received.toNat → s.link.waiting = none →
        ∃ t, exec (.speedwellPacket port (some p) none) s = .next t ∧ t.rsl.phase = .decide ∧ t.rsl.cause = 6 ∧
          t.seq.running = false ∧ (portOf t port).rxSeq = (portOf s port).rxSeq + 1 ∧ t.time = s.time ∧ t.pwr = s.pwr)) ∧
    (p.crc ≠ packetCrc p → Does (.speedwellPacket port (some p) none) s [.link, .mon, .outbox] fun t =>
      (portOf t port).rxSeq = (portOf s port).rxSeq ∧
      (portOf t port).crcErr.toNat = satAdd 16 (portOf s port).crcErr.toNat 1 ∧
      (portOf t port).replays.toNat = satAdd 16 (portOf s port).replays.toNat 1 ∧
      OutMsg.replay port (portOf s port).rxSeq ∈ t.outbox)) ∧
  (∀ (port : Fin 7) (lseq : Word) (s : State), s.link.ports.length = 7 → carriesPackets (portOf s port).mode = true →
    (portOf s port).waiting = [] →
    Does (.speedwellPacket port none (some lseq)) s [.link] fun t =>
      (portOf t port).unacked = (portOf s port).unacked.filter (fun p => decide ((p.lseq - lseq - 1).toNat < 2 ^ 31)) ∧
      (portOf t port).mode = (portOf s port).mode ∧ ∀ q, q ≠ port.val → portOf t q = portOf s q) ∧
  (∀ (port : Fin 7) (lseq : Word) (s : State), s.link.ports.length = 7 → carriesPackets (portOf s port).mode = true →
    let rest := (portOf s port).unacked.filter fun p => decide ((p.lseq - lseq).toNat < 2 ^ 31)
    (portOf s port).fails = 0 → (portOf s port).waiting = [] →
    Does (.replayRequest port lseq) s [.link, .mon, .outbox] fun t => (portOf t port).unacked = rest ∧
      (∀ p ∈ rest, carries (portOf s port).mode p = true → OutMsg.packet port p ∈ t.outbox) ∧
      ∀ q, q ≠ port.val → portOf t q = portOf s q) ∧
  (∀ (path : Path) (bytes : List Byte) (s : State), 3 ≤ s.sec.stage → (path = .chain → chainOpen s = true) →
    (path = .chain → ∃ t, exec (.topologyUpdate path bytes) s = .next t ∧ OutMsg.chain (updateFrame bytes) ∈ t.outbox) ∧
    (updateOk s bytes = false → Does (.topologyUpdate path bytes) s [.sec, .outbox] fun t =>
      t.sec.life = s.sec.life ∧ t.sec.record = s.sec.record) ∧
    (updateOk s bytes = true → leased s = false →
      ∃ t, exec (.topologyUpdate path bytes) s = .next t ∧ t.link.topo = bytesAt bytes 0 60 ∧ t.link.waiting = none ∧
        t.pwr = s.pwr ∧ t.cu.vreg = s.cu.vreg) ∧
    (updateOk s bytes = true → leased s = true → (stepOpen s = true ∧ s.commit.limit = false) ∨ jobStarted s = false →
      Does (.topologyUpdate path bytes) s [.sec, .link, .outbox] fun t => t.link.topo = s.link.topo ∧
        t.link.waiting = some (bytesAt bytes 0 60) ∧ t.link.ports = s.link.ports)) ∧
  (∀ (bytes : List Byte) (s : State), chainOpen s = false →
    Does (.topologyUpdate .chain bytes) s [.outbox] fun t => t.outbox = s.outbox ++ [.chain (updateFrame bytes)]) ∧
  (∀ (port : Fin 7) (nonce : BitVec 256) (s : State),
    (portOf s port).mode = .check ∨ (portOf s port).mode = .up ∨ (portOf s port).mode = .mgmt →
    Does (.attestationRequest port nonce) s [.sec] fun t => t.sec =
      if s.sec.attesting = none then { s.sec with attesting := some (some port, nonce) }
      else { s.sec with attQueue := s.sec.attQueue ++ [(port, nonce)] })

/-- While the link is up, of a transfer that does not wait for its target, in a frame the port can take: a completed write
leaves the list, its target counts as reached, and a congestion mark is answered; the slot read of a claim, free, goes
on to the swap, and a swap that returns the value read claims the lease, the cores waking while the interlock is
asserted; a unit within the feed's window is resident on arrival when the units before it are, and waits for them when
not. A transfer more than 2 s old is sent again once, and a unit's a second time unanswered makes its target
unreachable and waits (log 48's choice); a retry after 10 s sends again what waits for a target; the feed asks for its
next unit; the status record is rewritten in four writes, the first by the command and the others as its later ticks
bring them (the model's choice of log 48), with its count two higher.
(R28, R322, R379, R380, R382, R383, R387, R391, R392, R394, R395.) -/
def Obligations.TransferCommandsComplete : Prop :=
  (∀ (id : Nat) (frame : EthFrame) (s : State) (p : Pending), s.eth.transfers.find? (·.id == id) = some p →
    let dropped := s.eth.transfers.filter fun t => t.id != id
    let marked := if frame.marked = true then [OutMsg.congestion (roceMark s (some (peerOf p.target)) 0)] else []
    (s.eth.up = true → p.parked = false →
      (∀ x, p.target < 9 → badFrame frame = true → Does (.transferComplete id x frame) s [.eth] fun t =>
        t.eth = { s.eth with uncorr := BitVec.ofNat 16 (satAdd 16 s.eth.uncorr.toNat 1) }) ∧
      (badFrame frame = false →
        (p.use = .write → p.target < 8 → Does (.transferComplete id .done frame) s [.eth, .outbox] fun t =>
          t.eth = { s.eth with transfers := dropped, reach := putFlag s.eth.reach p.target true } ∧
          t.outbox = s.outbox ++ marked) ∧
        (∀ owner expiry, p.use = .leaseSlot → p.target = 8 → s.eth.phase = .slotRead → fld owner 47 0 = 0 →
          Does (.transferComplete id (.leaseSlot owner expiry) frame) s [.eth, .outbox] fun t =>
            t.eth.phase = .swap ∧ t.eth.owner = owner ∧ ∃ q, t.eth.transfers = dropped ++ [q] ∧ q.use = .claimSwap ∧
              q.target = 8 ∧ q.addr = leaseSlotAddr s ∧ q.bytes = leBytes 8 owner.toNat ++ leBytes 8 (claimValue s owner).toNat) ∧
        (p.use = .claimSwap → p.target = 8 → s.eth.phase = .swap → s.sec.life = 3 →
          Does (.transferComplete id (.claimSwap s.eth.owner) frame) s [.eth, .rsl, .pwr, .outbox] fun t =>
            t.eth.phase = .claimed ∧ t.eth.owner = claimValue s s.eth.owner ∧ t.eth.expiry = newExpiry s ∧
            t.eth.entry = s.eth.entry ∧
            (s.pwr.intlk = true → (∃ d ∈ livePositions s, s.pwr.domains.getLsbD d = false) →
              t.pwr.busy = true ∧ t.pwr.goal = 0) ∧
            (s.pwr.intlk = false → t.pwr = s.pwr)) ∧
        (∀ n b, p.use = .unit n → p.target < 8 → feedBase s ≤ n → n < feedBase s + feedSlots s →
          ((∀ v, feedBase s ≤ v → v < n → v ∈ s.eth.resident) →
            Does (.transferComplete id (.unit n b) frame) s [.eth, .mem, .outbox] fun t =>
              n ∈ t.eth.resident ∧ t.eth.transfers = dropped ∧ t.eth.cursor = s.eth.cursor) ∧
          (∀ v, feedBase s ≤ v → v < n → v ∉ s.eth.resident → (∀ x ∈ s.eth.arrived, x.1 ≠ v) →
            (∀ w, feedBase s ≤ w → w < v → w ∈ s.eth.resident) →
            Does (.transferComplete id (.unit n b) frame) s [.eth, .outbox] fun t =>
              t.eth.resident = s.eth.resident ∧ (n, b) ∈ t.eth.arrived ∧ t.eth.transfers = dropped ∧
              t.eth.cursor = s.eth.cursor)))) ∧
    (p.issued.toNat + 2000000000 < s.time.epoch.toNat → p.parked = false →
      (p.retried = false → s.eth.up = true → p.target = 8 ∨ (p.target < 8 ∧ targetListed s p.target = true) →
        Does (.transferTimeout id) s [.eth, .outbox] fun t =>
          t.eth.retries.toNat = satAdd 8 s.eth.retries.toNat 1 ∧ t.eth.phase = s.eth.phase ∧
          let q := { p with retried := true, issued := s.time.epoch }
          q ∈ t.eth.transfers ∧ ∃ r, OutMsg.transfer r q ∈ t.outbox) ∧
      (p.retried = false → p.target = 9 → Does (.transferTimeout id) s [.link, .eth, .mon, .outbox] fun t =>
        t.eth.retries.toNat = satAdd 8 s.eth.retries.toNat 1 ∧ t.eth.phase = s.eth.phase ∧
        { p with retried := true, issued := s.time.epoch } ∈ t.eth.transfers) ∧
      (∀ n, p.retried = true → p.use = .unit n → p.target < 8 → Does (.transferTimeout id) s [.eth] fun t =>
        flag t.eth.reach p.target = false ∧ { p with parked := true, issued := s.time.epoch } ∈ t.eth.transfers))) ∧
  (∀ (target : Fin 9) (s : State), s.eth.up = true → target = 8 ∨ targetListed s target = true →
    Does (.storeRetry target) s [.eth, .outbox] fun t => t.eth.transfers.length = s.eth.transfers.length ∧
      ∀ p ∈ s.eth.transfers, p.target = target.val → p.parked = true → p.issued.toNat + 10000000000 ≤ s.time.epoch.toNat →
        ∃ r, OutMsg.transfer r { p with retried := false, parked := false, issued := s.time.epoch } ∈ t.outbox) ∧
  (∀ (s : State) (u : Nat), leased s = true → s.seq.job.isSome = true → s.eth.up = true → (unitsInFlight s).length < 64 →
    nextUnitOf s = some u → targetListed s (numAt s.eth.entry 76 1) = true →
    Does .datasetFeedRead s [.eth, .outbox] fun t => ∃ r q, t.eth.transfers = s.eth.transfers ++ [q] ∧ q.use = .unit u ∧
      q.target = numAt s.eth.entry 76 1 ∧ q.ns = numAt s.eth.entry 80 4 ∧ q.addr = unitPlace s u ∧ q.count = unitBytes s ∧
      OutMsg.transfer r q ∈ t.outbox ∧ t.eth.cursor = s.eth.cursor) ∧
  (∀ s : State, s.sec.stage ≠ 0 →
    let u := endRewrite s
    let st := bytesAt (u.eth.status ++ List.replicate 256 0) 0 256
    let n := numAt st 0 4
    Does .statusRewrite s [.eth] fun t =>
      t.eth = { u.eth with status := bytesAt st 0 252 ++ leBytes 4 (n + 1), rewrite := 2 } ∧
      (rewriteStep (rewriteStep (rewriteStep t))).eth =
        { u.eth with status := leBytes 4 (n + 2) ++ statusBody s ++ leBytes 4 (n + 2), rewrite := 0 })

/-- A device in Field state without a lease asks for the directory; its answer to an idle one whose place is in a sound,
open entry that it could take starts the read of its lease slot; a claimed device whose slice ports are all UP with
the job's tag confirms its lease, with one that is not it waits, up to 10 s; a renewal sends its swap and reads STATE
(it fails and is counted without a link), one that returns the device's own value sets EXPIRY anew and ends a lapse,
another owner's releases the lease, and STATE withdrawn stops it at the next completion of a step; the lease, claimed
or confirmed (the model's choice of log 48), lapses when the counter reaches EXPIRY, and is released when EXPIRY +
GRACE has come. A release sends its swap at once and discards the job (log 48's choice of order).
(R321, R353, R380, R385, R387, R388, R389, R417.) -/
def Obligations.LeaseCommandsComplete : Prop :=
  (∀ s : State, s.sec.stage = 8 → s.sec.life = 3 → s.eth.phase = .none → s.eth.up = true →
    (∀ x ∈ s.eth.transfers, x.use ≠ .directory) →
    Does .directoryPoll s [.eth, .outbox] fun t => t.eth.phase = .none ∧
      ∃ r q, t.eth.transfers = s.eth.transfers ++ [q] ∧ q.use = .directory ∧ q.target = 8 ∧ q.addr = directoryBase s ∧
        OutMsg.transfer r q ∈ t.outbox) ∧
  (∀ (header : List Byte) (e : List Byte) (id : Nat) (frame : EthFrame) (s : State) (p : Pending),
    s.eth.transfers.find? (·.id == id) = some p → p.use = .directory → p.target = 8 → p.parked = false →
    badFrame frame = false → s.sec.life = 3 → s.eth.phase = .none →
    s.eth.up = true → s.pwr.busy = false → s.pwr.state = 2 → numAt header 0 4 = 1 → 1 ≤ numAt header 4 4 →
    numAt header 4 4 ≤ 4096 → entryOk e = true → openHere s e = true → joinCheck s e = none →
    Does (.transferComplete id (.directory header [e]) frame) s [.eth, .outbox] fun t =>
      t.eth.phase = .slotRead ∧ t.eth.entry = e ∧ t.eth.entryNo = 0 ∧
      t.eth.rank = rankOf s (bytesAt e 8 16) (myCoord s) ∧
      ∃ q, t.eth.transfers = (s.eth.transfers.filter fun x => x.id != id) ++ [q] ∧ q.use = .leaseSlot ∧ q.target = 8 ∧
        q.addr = numAt e 32 8 + 64 * t.eth.rank) ∧
  (∀ s : State, s.eth.phase = .claimed → s.seq.job.isSome = true → (∀ x ∈ s.eth.transfers, x.use ≠ .partner) →
    ((∀ l ∈ ringLabels s, slicePortOk s l = true) → s.eth.spare = false →
      Does .leaseConfirm s [.eth, .time] fun t => t.eth = { s.eth with phase := .confirmed, polled := [] } ∧
        t.time.epoch = s.time.epoch ∧ t.time.origin = s.time.origin) ∧
    (∀ l ∈ ringLabels s, slicePortOk s l = false →
      (confirmExpired s = false → exec .leaseConfirm s = .next s) ∧
      (confirmExpired s = true → s.eth.up = true → ∃ t, exec .leaseConfirm s = .next t ∧ t.eth.phase = .releasing ∧
        t.seq.job = none ∧ t.time.origin = 0))) ∧
  (∀ s : State, leased s = true →
    (s.eth.up = false →
      Does .leaseRenewal s [.eth] fun t => t.eth = { s.eth with fails := BitVec.ofNat 8 (satAdd 8 s.eth.fails.toNat 1) }) ∧
    (s.eth.up = true →
      Does .leaseRenewal s [.eth, .outbox] fun t => t.eth.phase = s.eth.phase ∧ t.eth.fails = s.eth.fails ∧
        ∃ q x, t.eth.transfers = s.eth.transfers ++ [q, x] ∧ q.use = .renewal ∧ q.target = 8 ∧ q.addr = leaseSlotAddr s ∧
          q.bytes = leBytes 8 s.eth.owner.toNat ++ leBytes 8 s.eth.owner.toNat ∧ x.use = .entryState ∧ x.target = 8 ∧
          x.addr = directoryBase s + 64 + 256 * s.eth.entryNo + 2) ∧
    ∀ (id : Nat) (frame : EthFrame) (p : Pending), s.eth.transfers.find? (·.id == id) = some p → s.eth.up = true →
      p.target = 8 → p.parked = false → badFrame frame = false →
      (p.use = .renewal →
        (Does (.transferComplete id (.claimSwap s.eth.owner) frame) s [.eth, .outbox] fun t =>
          t.eth.fails = 0 ∧ t.eth.expiry = newExpiry s ∧ t.eth.owner = s.eth.owner ∧ t.eth.phase ≠ .lapsing ∧
          (s.eth.phase ≠ .lapsing → t.eth.phase = s.eth.phase)) ∧
        ∀ v, v ≠ s.eth.owner → ∃ t, exec (.transferComplete id (.claimSwap v) frame) s = .next t ∧
          t.eth.phase = .releasing ∧ t.seq.job = none ∧ t.seq.running = false ∧ t.coll.launches = [] ∧ t.time.origin = 0) ∧
      (p.use = .entryState → ∀ st,
        (st ≠ 2 → Does (.transferComplete id (.entryState st) frame) s [.eth, .outbox] fun t =>
          t.eth = { s.eth with transfers := s.eth.transfers.filter fun x => x.id != id }) ∧
        (st = 2 → s.seq.stopped = false → s.commit.limit = false → inBarrier s = false → s.rsl.phase ≠ .ended →
          Does (.transferComplete id (.entryState st) frame) s [.eth, .sec, .outbox] fun t =>
            t.eth.stopping = true ∧ t.eth.phase = s.eth.phase ∧ t.sec.life = s.sec.life))) ∧
  (∀ s : State, s.eth.phase = .claimed ∨ s.eth.phase = .confirmed → s.eth.expiry.toNat ≤ s.time.epoch.toNat →
    Does .leaseLapse s [.eth] fun t => t.eth = { s.eth with phase := .lapsing }) ∧
  (∀ s : State, s.eth.phase = .lapsing → s.eth.up = true →
    s.eth.expiry.toNat + 1000000 * numAt s.eth.entry 28 4 ≤ s.time.epoch.toNat →
    ∃ t, exec .leaseGraceExpiry s = .next t ∧ t.eth.phase = .releasing ∧ t.seq.job = none ∧ t.seq.running = false ∧
      t.coll.launches = [] ∧ t.time.origin = 0)

/-- The link comes up in a mode whose lanes are good and whose domain is on; its loss is counted, ends its connections,
claims and renewals, and leaves other transfers to run out of time; ARP and echo requests for the device's address are
answered while it is up, and a frame that the port cannot take is only counted; a read from a source and key of the
access list, aligned and within one range, is answered on its host's connection with the words its role may read, a
misaligned one with zeros and counted, and one outside a range (the model's choice of log 44), a write, Send or
atomic, or a request from anyone else, is refused and counted; a congestion mark is answered first.
(R9, R377, R379, R381, R415, R466.) -/
def Obligations.EthernetCommandsComplete : Prop :=
  (∀ (eight : Bool) (s : State), s.pwr.domains.getLsbD 39 = true → s.eth.up = false →
    s.eth.badLanes &&& modeLanes eight = 0 →
    Does (.ethernetLinkUp eight) s [.eth, .outbox] fun t => t.eth.up = true ∧
      t.eth.mode = (if eight = true then 1 else 2) ∧ t.eth.phase = s.eth.phase) ∧
  (∀ s : State, s.eth.up = true →
    Does .ethernetLinkDown s [.eth, .time] fun t => t.eth.up = false ∧ t.eth.mode = 0 ∧ t.time.ptpSeen = false ∧
      t.eth.downs.toNat = satAdd 8 s.eth.downs.toNat 1 ∧ t.eth.conns = [] ∧
      (∀ x ∈ s.eth.transfers, x.use ∉ [.leaseSlot, .claimSwap, .directory, .release, .renewal, .entryState] → x ∈ t.eth.transfers) ∧
      ((∃ x ∈ s.eth.transfers, x.use = .renewal) → t.eth.fails.toNat = satAdd 8 s.eth.fails.toNat 1) ∧
      t.time.epoch = s.time.epoch ∧ (leased s = true → t.eth.phase = s.eth.phase)) ∧
  (∀ (r : NetRequest) (address : BitVec 128) (frame : EthFrame) (s : State), s.eth.up = true →
    (badFrame frame = true → Does (.arpOrEchoRequest r address frame) s [.eth] fun t =>
      t.eth = { s.eth with uncorr := BitVec.ofNat 16 (satAdd 16 s.eth.uncorr.toNat 1) }) ∧
    (badFrame frame = false → address.toNat = numAt (network s) 16 16 →
      Does (.arpOrEchoRequest r address frame) s [.outbox] fun t => t.outbox = s.outbox ++ [.answer r address]) ∧
    (badFrame frame = false → address.toNat ≠ numAt (network s) 16 16 →
      exec (.arpOrEchoRequest r address frame) s = .next s)) ∧
  (∀ (source : BitVec 128) (key : Word) (offset length : Nat) (frame : EthFrame) (s : State), s.eth.up = true →
    s.pwr.state.toNat ≤ 2 → s.pwr.busy = false → badFrame frame = false →
    let listed := fun (i : Nat) => (accessRole s i).isSome && (accessEntry s i).1 == source.toNat &&
      (accessEntry s i).2.1 == key.toNat
    let mark := fun (u : State) (p : Option Peer) => if frame.marked = true then [OutMsg.congestion (roceMark u p 0)] else []
    (∀ i r, (List.range 16).find? listed = some i → accessRole s i = some r →
      let u := connect s (.host i)
      let p := some (Peer.host i)
      (rdmaRange offset length = true → offset % 4 = 0 → length % 4 = 0 →
        Does (.rdmaRead source key offset length .read frame) s [.time, .eth, .mon, .outbox] fun t =>
          t.outbox = s.outbox ++ mark u p ++ [.rdma (roceMark u p length) i (rdmaBytes u r offset (length / 4)).2] ∧
          t.eth = u.eth ∧ t.time.epoch = s.time.epoch) ∧
      (offset % 4 = 0 → offset < 0x200000 → rdmaRange offset 4 = true → offset ≠ 0x30300 → offset ≠ 0x21000 →
        (offset < 0x20000 ∨ 0x20200 ≤ offset) →
        Does (.rdmaRead source key offset 4 .read frame) s [.eth, .outbox] fun t => t.eth = u.eth ∧
          t.outbox = s.outbox ++ mark u p ++
            [.rdma (roceMark u p 4) i (leBytes 4 (if rdmaReads s r offset = true then windowWord s offset else 0).toNat)]) ∧
      (rdmaRange offset length = true → offset % 4 ≠ 0 ∨ length % 4 ≠ 0 →
        Does (.rdmaRead source key offset length .read frame) s [.eth, .sec, .outbox] fun t => t.eth = u.eth ∧
          t.sec = (countAlign s).sec ∧
          t.outbox = s.outbox ++ mark u p ++ [.rdma (roceMark u p length) i (List.replicate length 0)]) ∧
      (∀ kind, rdmaRange offset length = false ∨ kind ≠ .read →
        Does (.rdmaRead source key offset length kind frame) s [.eth, .outbox] fun t =>
          t.outbox = s.outbox ++ mark u p ++ [.refused (roceMark u p 0)] ∧
          t.eth.refused.toNat = satAdd 16 s.eth.refused.toNat 1)) ∧
    (∀ kind, (List.range 16).find? listed = none →
      Does (.rdmaRead source key offset length kind frame) s [.eth, .outbox] fun t =>
        t.outbox = s.outbox ++ mark s none ++ [.refused (roceMark s none 0)] ∧
        t.eth.refused.toNat = satAdd 16 s.eth.refused.toNat 1))

/-- A boot with no trial takes the record of the active slot into force when it passes and waits at stage 3 for the
interlock; where neither slot passes it stays at stage 2 with BOOTFAIL; a pending trial boots the other slot as a
trial, and where that slot fails, or a trial was in progress, TRIAL is cleared and the active slot boots. The
interlock begins stage 4 with every position untested; the reports of stages 4 to 7 lead to Ready, Idle: where every
row has four positions in service these are numbered, a spare takes the number of one that is out, and a trial is
confirmed, its slot ACTIVE and the SVN floor raised to its record's. The loss of the interlock switches every domain
off at once and starts the entry to Standby (that it is complete at a later tick is log 37's choice; with nothing on
there is nothing to stop).
(R28, R29, R132, R404, R407, R408, R409, R410, R411, R450.) -/
def Obligations.BootCommandsComplete : Prop :=
  (∀ s : State, s.sec.stage < 2 → s.pwr.intlk = false →
    let a := bootActive s
    let w := writeControl s a 2
    let b := !bootActive w
    let taken := fun (x : Bool) (r : List Byte) (trial : Bool) (nor : Sparse 8) =>
      Does .boot s [.sec, .link, .mem, .pwr, .rsl, .time] fun t =>
        t.sec.stage = 3 ∧ t.sec.bypass = false ∧ t.sec.slot = x ∧ t.sec.record = r ∧ t.sec.trial = trial ∧
        t.sec.nor = nor ∧ t.sec.svn = s.sec.svn ∧ t.link.topo = recordSection r 3 ∧ t.time.loading = true ∧
        t.pwr.state = s.pwr.state ∧ t.pwr.domains = s.pwr.domains ∧
        (s.sec.life = 2 → t.sec.life = 3 ∧ t.sec.enrolled = [Config.sha512 (recordKey r)]) ∧
        (s.sec.life ≠ 2 → t.sec.life = s.sec.life)
    (bootTrial s ≠ 1 → bootTrial s ≠ 2 → recordCheck s (slotRecord s a) = 0 → taken a (slotRecord s a) false s.sec.nor) ∧
    (bootTrial s ≠ 1 → bootTrial s ≠ 2 → recordCheck s (slotRecord s a) ≠ 0 → recordCheck s (slotRecord s !a) ≠ 0 →
      Does .boot s [.sec] fun t => t.sec.stage = 2 ∧ t.sec.bootfail = true ∧ t.sec.bypass = false ∧
        t.sec.nor = s.sec.nor ∧ t.sec.life = s.sec.life ∧ t.sec.slotBad.getLsbD a.toNat = true) ∧
    (bootTrial s ≠ 1 → bootTrial s ≠ 2 → recordCheck s (slotRecord s a) ≠ 0 → recordCheck s (slotRecord s !a) = 0 →
      s.sec.slotBad.getLsbD (!a).toNat = false → taken (!a) (slotRecord s !a) false s.sec.nor) ∧
    (bootTrial s = 1 → recordCheck w (slotRecord w b) = 0 → taken b (slotRecord w b) true w.sec.nor) ∧
    (let fallen := fun (v : State) =>
       (recordCheck v (slotRecord v (bootActive v)) = 0 →
         taken (bootActive v) (slotRecord v (bootActive v)) false v.sec.nor) ∧
       (recordCheck v (slotRecord v (bootActive v)) ≠ 0 → Does .boot s [.sec] fun t =>
         t.sec.stage = 2 ∧ t.sec.bootfail = true ∧ t.sec.nor = v.sec.nor ∧ t.sec.life = s.sec.life)
     (bootTrial s = 1 → recordCheck w (slotRecord w b) ≠ 0 → fallen (writeControl w (bootActive w) 0)) ∧
     (bootTrial s = 2 → fallen (writeControl s a 0)))) ∧
  (∀ s : State, (∃ t, exec .interlockAsserted s = .next t ∧ t.pwr.intlk = true) ∧
    (s.sec.stage = 3 → s.sec.life ≠ 4 → s.pwr.tripped = false → s.pwr.intlkStop = false → lowering s = false →
      ∃ t, exec .interlockAsserted s = .next t ∧ t.sec.stage = 4 ∧ t.pwr.busy = true ∧ t.pwr.domains = 0 ∧
        t.pwr.waking = (List.range 32).map (fun d => (d, WakeStep.regulator)) ∧
        t.pwr.positions = List.replicate 20 Position.reset ∧ t.sec.life = s.sec.life) ∧
    (s.pwr.intlk = true → ∃ t, exec .interlockLoss s = .next t ∧ t.pwr.intlk = false ∧ t.sec.life = s.sec.life ∧
      (anythingOn s = true → t.pwr.intlkStop = true ∧ t.pwr.domains = 0 ∧ t.pwr.busy = true ∧ t.pwr.goal = 4 ∧
        t.mon.setValid = false) ∧
      (anythingOn s = false → t.pwr = { s.pwr with intlk := false } ∧ t.mon = s.mon ∧ t.rsl = s.rsl))) ∧
  (∀ (r : StageReport) (s : State), s.pwr.positions.length = 20 →
    (s.sec.stage = 4 → computeOn s = true → r.failed = [] →
      Does (.bootStageComplete r) s [.sec, .link, .eth, .mon, .pwr] fun t => t.sec.stage = 5 ∧
        ∀ p, p < 20 → positionAt t p = testedPosition r p (positionAt s p)) ∧
    (s.sec.stage = 5 → rowsFull s = true → Does (.bootStageComplete r) s [.sec, .mem, .pwr] fun t => t.sec.stage = 6 ∧
      ∀ p, p < 20 → (positionAt s p).state = 0 → p % 5 < 4 →
        (positionAt t p).state = 1 ∧ (positionAt t p).logical.toNat = 4 * (p / 5) + p % 5) ∧
    (s.sec.stage = 5 → rowsFull s = true → ∃ t, exec (.bootStageComplete r) s = .next t ∧
      ∀ q, q < 4 → (positionAt s (5 * q + 4)).state = 0 →
        ((∀ k, k < 4 → (positionAt s (5 * q + k)).state = 0) → (positionAt t (5 * q + 4)).state = 2) ∧
        ∀ k, k < 4 → (positionAt s (5 * q + k)).state ≠ 0 →
          (positionAt t (5 * q + 4)).state = 1 ∧ (positionAt t (5 * q + 4)).logical.toNat = 4 * q + k) ∧
    (s.sec.stage = 6 → Does (.bootStageComplete r) s [.sec, .mem, .pwr] fun t => t.sec.stage = 7 ∧ t.pwr.busy = true ∧
      t.pwr.waking.map (·.1) = [32, 33, 34, 35, 36, 37, 38, 39].filter fun d => !s.pwr.domains.getLsbD d) ∧
    (s.sec.stage = 7 → computeOn s = false ∨ s.time.loaded = false → exec (.bootStageComplete r) s = .next s) ∧
    (s.sec.stage = 7 → computeOn s = true → s.time.loaded = true →
      Does (.bootStageComplete r) s [.sec, .pwr] fun t => t.sec.stage = 8 ∧ t.pwr.state = 2 ∧ t.pwr.busy = false ∧
        t.pwr.domains &&& domainRange 0 19 = 0 ∧ t.sec.trial = false ∧
        (s.sec.trial = false → t.sec.nor = s.sec.nor ∧ t.sec.svn = s.sec.svn) ∧
        (s.sec.trial = true → t.sec.nor = (writeControl s s.sec.slot 0).sec.nor ∧
          t.sec.svn.toNat = max s.sec.svn.toNat (min 63 (numAt (recordSection s.sec.record 1) 4 1)))))

/-- In an installer session, or a maker session where that role acts: PROGRAM writes the staging window into its chunk of
the slot that ACTIVE does not name and nothing else of the boot flash, and clears that slot's mark of invalidity (the
model's choice of log 42); COMMIT checks that slot's record, answers the first check it fails and makes a trial
pending only where none fails; REBOOT restarts the device at stage 1 with every switched domain off, and is refused
under a lease. Without the right each is denied and counted. Clauses on the boot flash as it was before a pending
trial was cleared cover PROGRAM with none pending. REBOOT starting at stage 1 is the model's choice (log entry 40).
(R397, R405, R406, R410, R411, R416.) -/
def Obligations.RecordCommandsComplete : Prop :=
  ∀ s : State,
    (updateRight s = true →
      (∀ chunk : BitVec 14, chunk.toNat ≤ 14335 → bootTrial s ≠ 1 →
        let base := slotBase (!bootActive s) + 4096 * chunk.toNat
        Does (.program chunk) s [.sec] fun t => t.sec.result = 0 ∧ t.sec.record = s.sec.record ∧
          t.sec.slotBad.getLsbD (!bootActive s).toNat = false ∧
          (∀ i, i < 4096 → t.sec.nor.get (base + i) = s.sec.staging.get i) ∧
          ∀ i, i < base ∨ base + 4096 ≤ i → t.sec.nor.get i = s.sec.nor.get i) ∧
      (let n := recordCheck s (slotRecord s !bootActive s)
       Does .commitRecord s [.sec] fun t => t.sec.result.toNat = n ∧ t.sec.record = s.sec.record ∧
        (n = 0 → t.sec.nor = (writeControl s (bootActive s) 1).sec.nor ∧
          (s.sec.life = 2 → t.sec.life = 3 ∧ t.sec.enrolled = [Config.sha512 (recordKey (slotRecord s !bootActive s))])) ∧
        (n ≠ 0 → t.sec.nor = s.sec.nor ∧ t.sec.life = s.sec.life ∧ t.sec.enrolled = s.sec.enrolled ∧
          t.sec.slotBad.getLsbD (!bootActive s).toNat = true)) ∧
      (leased s = true → Does .reboot s [.sec] fun t => t.sec.result = 6 ∧ t.sec.stage = s.sec.stage ∧
        t.sec.nor = s.sec.nor) ∧
      (leased s = false → ∃ t, exec .reboot s = .next t ∧ t.sec.stage = 1 ∧ t.pwr.domains = 0 ∧ t.pwr.state = 4 ∧
        t.seq = Seq.reset ∧ t.sec.record = [] ∧ t.sec.nor = s.sec.nor ∧ t.sec.life = s.sec.life ∧ t.sec.svn = s.sec.svn ∧
        t.sec.enrolled = s.sec.enrolled ∧ t.sec.idDraw = s.sec.idDraw ∧ t.pending = s.pending)) ∧
    (updateRight s = false → ∀ c : Instr, c = .commitRecord ∨ c = .reboot ∨ (∃ n, c = .program n) →
      Does c s [.sec] fun t => t.sec.denied.toNat = satAdd 8 s.sec.denied.toNat 1 ∧ t.sec.nor = s.sec.nor ∧
        t.sec.result = s.sec.result ∧ t.sec.stage = s.sec.stage)

/-- A Blank part is personalised without a session: Maker, with an identity key from a new draw of entropy. A maker
session seals a Maker part. An installer session with a return token takes a Field part to Returned: HBM, local flash
and both slots erased (an erased byte reads zero, log 6), the operator keys void, no lease left and none claimed (log
43). CLOSE ends the session of any role that acts (log 38). A RETURN without a token is a denied write (log 43).
Without the right each is counted as denied and changes no fuse.
(R389, R410, R411, R412, R413, R415, R416.) -/
def Obligations.LifeCycleCommandsComplete : Prop :=
  ∀ s : State,
    (s.sec.life = 0 → Does .personalise s [.drawn, .sec] fun t =>
      t.sec.life = 1 ∧ t.sec.idDraw = some s.drawn ∧ t.drawn = s.drawn + 1 ∧ t.sec.nor = s.sec.nor ∧
      t.sec.enrolled = s.sec.enrolled) ∧
    (sessionIs s .maker = true → s.sec.life = 1 → Does .seal s [.sec] fun t =>
      t.sec.life = 2 ∧ t.sec.idDraw = s.sec.idDraw ∧ t.sec.enrolled = s.sec.enrolled ∧ t.sec.nor = s.sec.nor) ∧
    (sessionIs s .installer = true → tokenOk s = true → s.sec.life = 3 →
      ∃ t, exec .returnLife s = .next t ∧ t.sec.life = 4 ∧ t.sec.opsVoid = true ∧ t.mem.hbm = [] ∧ t.rsl.flash = [] ∧
        leased t = false ∧ t.eth.phase ≠ .slotRead ∧ t.eth.phase ≠ .swap ∧ t.seq.running = (s.seq.running && !stepOpen s && !leased s) ∧ t.sec.enrolled = s.sec.enrolled ∧
        t.sec.idDraw = s.sec.idDraw ∧
        ∀ i, t.sec.nor.get i = if i < 0x7000000 then 0 else s.sec.nor.get i) ∧
    (s.sec.role.any (roleActs s) = true → Does .close s [.sec] fun t =>
      t.sec = { s.sec with role := none, key := 0 }) ∧
    (∀ c : Instr, (c = .personalise ∧ s.sec.life ≠ 0 ∧ sessionIs s .maker = false) ∨
        (c = .seal ∧ sessionIs s .maker = false) ∨
        (c = .returnLife ∧ (sessionIs s .installer = false ∨ tokenOk s = false)) ∨
        (c = .close ∧ s.sec.role.any (roleActs s) = false) →
      Does c s [.sec] fun t => t.sec.denied.toNat = satAdd 8 s.sec.denied.toNat 1 ∧ t.sec.life = s.sec.life ∧
        t.sec.role = s.sec.role ∧ t.sec.idDraw = s.sec.idDraw ∧ t.sec.enrolled = s.sec.enrolled)

/-- With an operator session and a lease, a graceful stop waits for the commit, but takes effect at once for a device
stopped on a fault or a limit, in a recovery barrier or whose recovery goes no further, and an immediate stop ends the
lease and the job at once (the order of release is log 48's choice); without a lease both change nothing; without the
session they are denied. GO, in any session that acts (log 38), starts the report with the nonce in force, before any
peer's (log 43); a completed report stands in the window with READY set, or goes to the peer that asked in management
packets of at most 4,096 bytes, sent or waiting at its port (their layout is the model's choice of log 55) unless that
port no longer carries them, and the next request is served.
(R388, R389, R416, R417, R419, R420.) -/
def Obligations.JobStopAndAttestationComplete : Prop :=
  ∀ s : State,
    (sessionIs s .operator = true →
      (leased s = true → s.seq.stopped = true ∨ s.commit.limit = true ∨ inBarrier s = true ∨ s.rsl.phase = .ended →
        ∃ t, exec .jobStopGraceful s = .next t ∧ leased t = false ∧ t.seq.running = false ∧ t.seq.job = none ∧
          t.eth.owner = 0 ∧ t.sec.life = s.sec.life) ∧
      (leased s = true → s.seq.stopped = false → s.commit.limit = false → inBarrier s = false → s.rsl.phase ≠ .ended →
        Does .jobStopGraceful s [.sec, .eth] fun t => t.eth = { s.eth with stopping := true } ∧ t.sec.role = s.sec.role) ∧
      (leased s = true → ∃ t, exec .jobStopImmediate s = .next t ∧ leased t = false ∧
        t.eth.phase = (if s.eth.up = true then .releasing else .none) ∧ t.seq.running = false ∧ t.seq.job = none ∧
        t.eth.owner = 0 ∧ t.sec.life = s.sec.life ∧ t.sec.role = s.sec.role) ∧
      (leased s = false → exec .jobStopGraceful s = .next s ∧ exec .jobStopImmediate s = .next s)) ∧
    (sessionIs s .operator = false → ∀ c : Instr, c = .jobStopGraceful ∨ c = .jobStopImmediate →
      Does c s [.sec] fun t => t.sec.denied.toNat = satAdd 8 s.sec.denied.toNat 1) ∧
    (s.sec.role.any (roleActs s) = true → Does .attestGo s [.sec] fun t =>
      t.sec.attesting = some (none, attestNonce s) ∧ t.sec.ready = false ∧ t.sec.report = s.sec.report ∧
      t.sec.attQueue = (match s.sec.attesting with
        | some (some p, n) => (p, n) :: s.sec.attQueue
        | _ => s.sec.attQueue)) ∧
    (s.sec.role.any (roleActs s) = false → Does .attestGo s [.sec] fun t =>
      t.sec.denied.toNat = satAdd 8 s.sec.denied.toNat 1 ∧ t.sec.attesting = s.sec.attesting) ∧
    (∀ n, s.sec.attesting = some (none, n) → Does .attestReportComplete s [.sec] fun t =>
      t.sec.report = attestReport s n ∧ t.sec.ready = true ∧
      t.sec.attesting = s.sec.attQueue.head?.map (fun x => (some x.1, x.2)) ∧ t.sec.attQueue = s.sec.attQueue.tail) ∧
    (∀ p n, s.sec.attesting = some (some p, n) →
      mapEnabled s.link.topo p = false ∨ carriesPackets (portOf s p).mode = false →
      Does .attestReportComplete s [.sec] fun t => t.sec.ready = s.sec.ready ∧ t.sec.report = s.sec.report ∧
        t.sec.attesting = s.sec.attQueue.head?.map (fun x => (some x.1, x.2)) ∧ t.sec.attQueue = s.sec.attQueue.tail) ∧
    (∀ p n, s.sec.attesting = some (some p, n) → s.link.ports.length = 7 → mapEnabled s.link.topo p = true →
      carriesPackets (portOf s p).mode = true →
      Does .attestReportComplete s [.link, .sec, .mon, .outbox] fun t =>
      (∀ k < ceilDiv (attestReport s n).length 4096, ∃ y ∈ (portOf t p).unacked ++ (portOf t p).waiting, y.kind = 3 ∧
        y.payload = padPayload (bytesAt (attestReport s n) (4096 * k) (min 4096 ((attestReport s n).length - 4096 * k)))) ∧
      t.sec.ready = s.sec.ready ∧ t.sec.report = s.sec.report ∧
      t.sec.attesting = s.sec.attQueue.head?.map (fun x => (some x.1, x.2)) ∧ t.sec.attQueue = s.sec.attQueue.tail)

/-- For a whole frame to the device's own address: length zero closes the session; a signature that verifies under the
role's key opens it and clears the failures; any other attempt counts, and from the eighth in a row on locks sessions
out; while locked out an attempt is only answered (the model's choice of log 43). Each attempt that is judged renews
the nonce by one draw of entropy, and every one is answered, with status 4 where it is refused. The timeout closes the
session and the end of the lock-out lifts it.
(R414, R426, R427, R430.) -/
def Obligations.SessionCommandsComplete : Prop :=
  (∀ (f : Frame) (role key : Byte) (signature : List Byte) (s : State), chainOpen s = true → frameOk f = true →
    forMe s f = true →
    let answered := fun (t : State) (status : Byte) => ∃ g : Frame, t.outbox = s.outbox ++ [.chain g] ∧ g.status = status ∧
      g.typ = 4 ∧ g.dest = 0 ∧ g.src = s.sec.addr.setWidth 16 ∧ g.tag = f.tag ∧ g.payload = [] ∧ g.crc = crc32 (frameBytes g)
    (f.len = 0 → Does (.session f role key signature) s [.sec, .outbox] fun t =>
      t.sec = { s.sec with role := none, key := 0 } ∧ answered t 0) ∧
    (f.len ≠ 0 → s.sec.lockout = true → Does (.session f role key signature) s [.outbox] fun t => answered t 4) ∧
    (f.len ≠ 0 → s.sec.lockout = false →
      (∀ r, attemptRole s role key signature = some r → Does (.session f role key signature) s [.drawn, .sec, .outbox] fun t =>
        t.sec.role = some r ∧ t.sec.key = key.setWidth 2 ∧ t.sec.fails = 0 ∧ t.sec.lockout = false ∧
        t.sec.nonce = Config.entropy s.drawn ∧ t.drawn = s.drawn + 1 ∧ answered t 0) ∧
      (attemptRole s role key signature = none → Does (.session f role key signature) s [.drawn, .sec, .outbox] fun t =>
        t.sec.role = s.sec.role ∧ t.sec.fails.toNat = satAdd 4 s.sec.fails.toNat 1 ∧
        (t.sec.lockout = true ↔ 8 ≤ t.sec.fails.toNat) ∧
        t.sec.nonce = Config.entropy s.drawn ∧ t.drawn = s.drawn + 1 ∧ answered t 4))) ∧
  ∀ s : State,
    (Does .sessionTimeout s [.sec] fun t => t.sec = { s.sec with role := none, key := 0 }) ∧
    Does .sessionLockoutEnd s [.sec] fun t => t.sec = { s.sec with lockout := false }

/-- An ENUM with a count below 4,094 gives the device the next address and goes on with it; a greater one leaves it
without an address, with OVERFLOW set (sticky, log 41). A READ of words that all may be read, and none of which
latches, is answered with them; of words none of which may be read with zeros, status 2 and one denial; misaligned
with status 3 (log 44 for both). A WRITE of one word does what the same register write does, and is answered; a
misaligned one is counted, and answered with status 3 or, where it is a broadcast, passed on. Frames for another
address pass on as they came; a bad frame is dropped and counted; a bypass closes and opens, and while it is closed
every frame passes on.
(R9, R413, R415, R416, R426, R427, R428, R429, R430.) -/
def Obligations.ChainFramesComplete : Prop :=
  ∀ (f : Frame) (s : State),
    let answered := fun (t : State) (status : Byte) (words : List Word) => ∃ g : Frame,
      t.outbox = s.outbox ++ [.chain g] ∧ g.status = status ∧ g.typ = 4 ∧ g.dest = 0 ∧
      g.src = s.sec.addr.setWidth 16 ∧ g.tag = f.tag ∧ g.payload = words ∧ g.crc = crc32 (frameBytes g)
    (chainOpen s = true → frameOk f = true →
      (∀ n : Word, f.typ = 1 → f.payload = [n] →
        (n.toNat < 4094 → Does (.enum f) s [.sec, .outbox] fun t =>
          t.sec = { s.sec with addr := t.sec.addr } ∧ t.sec.addr.toNat = n.toNat + 1 ∧
          ∃ g : Frame, t.outbox = s.outbox ++ [.chain g] ∧ g.payload = [n + 1] ∧ g.dest = f.dest ∧ frameOk g = true) ∧
        (4094 ≤ n.toNat → Does (.enum f) s [.sec, .outbox] fun t =>
          t.sec = { s.sec with addr := 0, overflow := true } ∧ t.outbox = s.outbox ++ [.chain f])) ∧
      (forMe s f = true →
        (f.typ = 2 → f.offset.toNat % 4 = 0 →
          ((∀ i, i < f.len.toNat → chainReads s (f.offset.toNat + 4 * i) = true ∧ latchRead s (f.offset.toNat + 4 * i) = s) →
            Does (.read f) s [.outbox] fun t =>
              answered t 0 ((List.range f.len.toNat).map fun i => windowWord s (f.offset.toNat + 4 * i))) ∧
          (f.len ≠ 0 → (∀ i, i < f.len.toNat → chainReads s (f.offset.toNat + 4 * i) = false) →
            Does (.read f) s [.sec, .outbox] fun t => t.sec.denied.toNat = satAdd 8 s.sec.denied.toNat 1 ∧
              answered t 2 (List.replicate f.len.toNat 0))) ∧
        (f.typ = 2 → f.offset.toNat % 4 ≠ 0 → Does (.read f) s [.sec, .outbox] fun t =>
          t.sec.align.toNat = satAdd 8 s.sec.align.toNat 1 ∧ answered t 3 (List.replicate f.len.toNat 0)) ∧
        (∀ v : Word, f.typ = 3 → f.dest ≠ 0xFFF → f.offset.toNat % 4 = 0 → f.payload = [v] →
          ∃ u t, exec (.registerWrite f.offset.toNat v) s = .next u ∧ exec (.write f) s = .next t ∧
            onlyParts [.outbox] u t ∧ ∃ g : Frame, t.outbox = u.outbox ++ [.chain g] ∧ g.typ = 4 ∧ g.dest = 0 ∧ g.tag = f.tag ∧
              g.payload = []) ∧
        (f.typ = 3 → f.dest ≠ 0xFFF → f.offset.toNat % 4 ≠ 0 → Does (.write f) s [.sec, .outbox] fun t =>
          t.sec.align.toNat = satAdd 8 s.sec.align.toNat 1 ∧ answered t 3 [])) ∧
      (f.typ = 3 → f.dest = 0xFFF → f.offset.toNat % 4 ≠ 0 → Does (.write f) s [.sec, .outbox] fun t =>
        t.sec.align.toNat = satAdd 8 s.sec.align.toNat 1 ∧ t.outbox = s.outbox ++ [.chain f]) ∧
      (∀ c : Instr, c = .chainForward f ∨ (c = .read f ∧ f.typ = 2) ∨ (c = .write f ∧ f.typ = 3 ∧ f.dest ≠ 0xFFF) →
        forMe s f = false → Does c s [.outbox] fun t => t.outbox = s.outbox ++ [.chain f])) ∧
    (chainOpen s = false → ∀ c : Instr, c = .enum f ∨ c = .read f ∨ c = .write f ∨ c = .chainForward f ∨
        (∃ r k b, c = .session f r k b) → Does c s [.outbox] fun t => t.outbox = s.outbox ++ [.chain f]) ∧
    (chainOpen s = true → frameOk f = false → ∀ c : Instr, c = .enum f ∨ c = .read f ∨ c = .write f ∨ c = .chainForward f →
      Does c s [.sec] fun t => t.sec = { s.sec with crcErr := t.sec.crcErr } ∧
        t.sec.crcErr.toNat = satAdd 16 s.sec.crcErr.toNat 1) ∧
    (Does (.chainBypass true) s [.sec] fun t => t.sec = { s.sec with bypass := true, addr := 0 }) ∧
    (1 ≤ s.sec.stage → Does (.chainBypass false) s [.sec] fun t => t.sec = { s.sec with bypass := false })

/-- Out of reset, a write of a command's code to its register is that command; the fields of PWR_LIMIT, SEC_AUDIT and
SEC_ATTEST_NONCE take the values written where the session has the right (log 38 names the roles) and the value is in
range, LINK_TIME's alarm is cleared by a one, a write without the right is counted as denied, a misaligned one as
such. A served read of a low word latches the high word of the same counter. The flush of suppressed events logs one
entry for each code with its count.
(R9, R10, R314, R413, R416, R417, R424, R454, R457, R467.) -/
def Obligations.RegisterAccessesComplete : Prop :=
  (∀ s : State, 1 ≤ s.sec.stage →
    let w := fun (off : Nat) (v : Word) => exec (.registerWrite off v) s
    (w 0x10004 1 = exec .retain s ∧ w 0x10004 4 = exec .wake s ∧ w 0x70000 0x10000 = exec .personalise s ∧
      w 0x70000 0x20000 = exec .seal s ∧ w 0x70000 0x30000 = exec .returnLife s ∧ w 0x70004 0x100 = exec .close s ∧
      w 0x70008 1 = exec .jobStopGraceful s ∧ w 0x70008 3 = exec .jobStopImmediate s ∧
      w 0x7000C 2 = exec .commitRecord s ∧ w 0x7000C 3 = exec .reboot s ∧ w 0x70010 1 = exec .attestGo s ∧
      w 0x80008 1 = exec .full s ∧ w 0x80008 2 = exec .invalidate s ∧
      (∀ v : Word, w 0x10250 v = exec (.coreFence v) s) ∧
      (∀ n : BitVec 14, w 0x7000C (BitVec.ofNat 32 (1 + 256 * n.toNat)) = exec (.program n) s) ∧
      (∀ m : BitVec 7, w 0x10024 (m.setWidth 32) = exec (.wakeSend m) s) ∧
      ∀ p : Fin 7, w (0x30010 + 64 * p.val) 1 = exec (.retrain p) s) ∧
    (∀ (off : Nat) (v : Word), off % 4 ≠ 0 → Does (.registerWrite off v) s [.sec] fun t =>
      t.sec = { s.sec with align := t.sec.align } ∧ t.sec.align.toNat = satAdd 8 s.sec.align.toNat 1) ∧
    (∀ v : Word, powerRight s = true → 1000 ≤ fld v 11 0 → fld v 11 0 ≤ 2600 → 85 ≤ fld v 18 12 → fld v 18 12 ≤ 100 →
      Does (.registerWrite 0x1000C v) s [.pwr] fun t => t.pwr.plimit.toNat = fld v 11 0 ∧ t.pwr.tthrot.toNat = fld v 18 12 ∧
        t.pwr.state = s.pwr.state ∧ t.pwr.domains = s.pwr.domains ∧ t.pwr.pace = s.pwr.pace) ∧
    (∀ v : Word, powerRight s = false → Does (.registerWrite 0x1000C v) s [.sec] fun t =>
      t.sec.denied.toNat = satAdd 8 s.sec.denied.toNat 1 ∧ t.sec.nor = s.sec.nor) ∧
    (∀ v : Word, updateRight s = true → Does (.registerWrite 0x70014 v) s [.sec] fun t =>
      t.sec = { s.sec with auditBase := v }) ∧
    (∀ (k : Fin 8) (v : Word), s.sec.role.any (roleActs s) = true → Does (.registerWrite (0x70080 + 4 * k.val) v) s [.sec] fun t =>
      t.sec.attNonce.get k.val = v ∧ ∀ i, i ≠ k.val → t.sec.attNonce.get i = s.sec.attNonce.get i) ∧
    (∀ v : Word, sessionIs s .installer = true → flag v 7 = true → Does (.registerWrite 0x30308 v) s [.time] fun t =>
      t.time = { s.time with alarm := false })) ∧
  (∀ (r : Reader) (s : State),
    (readerReads s r 0x30300 = true → Does (.linkEpochLoRead r) s [.time] fun t =>
      t.time = { s.time with epochHi := BitVec.ofNat 32 (s.time.epoch.toNat / 2 ^ 32) }) ∧
    (readerReads s r 0x21000 = true → Does (.cntBeatsLoRead r) s [.mon] fun t =>
      t.mon = { s.mon with beatsHi := BitVec.ofNat 32 (s.mon.beats.toNat / 2 ^ 32) }) ∧
    ∀ n : Fin 32, readerReads s r (0x20004 + 16 * n.val) = true → Does (.cntValLoRead r n) s [.mon] fun t =>
      t.mon.valHi.get n.val = BitVec.ofNat 32 ((s.mon.val.get n.val).toNat / 2 ^ 32) ∧ t.mon.val = s.mon.val ∧
      t.mon.beats = s.mon.beats ∧ ∀ i, i ≠ n.val → t.mon.valHi.get i = s.mon.valHi.get i) ∧
  ∀ s : State, s.sec.suppressed ≠ [] → s.sec.second ≠ epochSecond s →
    s.sec.head.toNat + s.sec.suppressed.length < auditCapacity →
    Does .auditSuppressedFlush s [.sec] fun t => t.sec.suppressed = [] ∧ t.sec.second = epochSecond s ∧
      t.sec.head.toNat = s.sec.head.toNat + s.sec.suppressed.length ∧
      ∀ x ∈ s.sec.suppressed, ∃ e ∈ t.sec.audit, e.event = 4 ∧ e.detail1.toNat = x.1.toNat ∧ e.detail2 = x.2

/-- In an installer session, or a maker session where that role acts, without a lease and with no transition in progress:
RETAIN in Idle switches off all but the bank dies and the Ethernet domain; STANDBY and SHUTDOWN in Idle or Retention
store the tests, seal the log (later, where its second has no room: log 60) and switch every domain off, and SHUTDOWN
raises the power-off-ready output; WAKE begins the wake to Idle. Under a lease the first three are refused. WAKE_SEND
sends the pattern on the ports named that the map enables and that are on. Without the right each is denied. That an
entry completes at the next tick is the model's choice (log entry 37).
(R294, R413, R416, R423, R436, R437, R441, R442, R464, R465.) -/
def Obligations.PowerCommandsComplete : Prop :=
  ∀ s : State,
    let sealing := fun (t : State) => s.link.waiting = none →
      (auditRoom (newSecond s) 4 = true → t.sec.sealed = true) ∧ (auditRoom (newSecond s) 4 = false → t.sec.sealDue = true)
    (powerRight s = true →
      (leased s = false → s.pwr.busy = false →
        (s.pwr.state = 2 → ∃ t, exec .retain s = .next t ∧ t.pwr.busy = true ∧ t.pwr.goal = 3 ∧ t.pwr.result = 1 ∧
          t.pwr.domains = s.pwr.domains &&& (domainRange 24 31 ||| domainRange 39 39) ∧ t.sec.life = s.sec.life) ∧
        (∀ failed, s.pwr.state = 2 ∨ s.pwr.state = 3 →
          (∃ t, exec (.standby failed) s = .next t ∧ t.pwr.busy = true ∧ t.pwr.goal = 4 ∧ t.pwr.result = 1 ∧
            t.pwr.pwrok = s.pwr.pwrok ∧ t.pwr.domains = 0 ∧ sealing t ∧ t.mon.setValid = true ∧
            t.mon.setUsed = false ∧ t.mon.setTick = s.time.epoch) ∧
          (∃ t, exec (.shutdown failed) s = .next t ∧ t.pwr.busy = true ∧ t.pwr.goal = 4 ∧ t.pwr.result = 1 ∧
            t.pwr.pwrok = true ∧ t.pwr.domains = 0 ∧ sealing t ∧ t.mon.setValid = true))) ∧
      (leased s = true → ∀ c : Instr, c = .retain ∨ (∃ l, c = .standby l ∨ c = .shutdown l) →
        Does c s [.pwr] fun t => t.pwr = { s.pwr with result := 2 }) ∧
      (s.pwr.intlk = true → s.sec.stage = 8 → s.pwr.busy = false → s.pwr.state = 3 ∨ s.pwr.state = 4 →
        Does .wake s [.pwr, .mon] fun t => t.pwr.busy = true ∧ t.pwr.goal = 2 ∧ t.pwr.lastWake = 6 ∧
          t.pwr.state = s.pwr.state ∧ t.pwr.domains = s.pwr.domains ∧ (s.pwr.state = 4 → t.pwr.pwrok = false) ∧
          t.pwr.waking = ((List.range 40).filter fun d =>
            (stateDomains s (if s.pwr.state = 3 then 2 else 0)).getLsbD d && !s.pwr.domains.getLsbD d).map
              (fun d => (d, wakeStepOf s d)) ∧ (s.pwr.waking = [] → ∀ d, wakeStepOf s d = .regulator)) ∧
      (∀ m : BitVec 7, Does (.wakeSend m) s [.outbox] fun t => t.outbox = s.outbox ++
        ((List.range 7).filter fun p => m.getLsbD p && s.pwr.domains.getLsbD (32 + p) && mapEnabled s.link.topo p).map
          OutMsg.wakePattern)) ∧
    (powerRight s = false → ∀ c : Instr, c = .retain ∨ c = .wake ∨ (∃ l, c = .standby l ∨ c = .shutdown l) ∨
        (∃ m, c = .wakeSend m) →
      Does c s [.sec] fun t => t.sec.denied.toNat = satAdd 8 s.sec.denied.toNat 1)

/-- With the interlock asserted, out of boot and with nothing in progress: a Speedwell pattern wakes the device from
Retention and Standby, an Ethernet pattern from Standby alone; both are latched while an entry that they reach is in
progress (its end is log 37's choice). RETIDLE takes an idle device without a lease to Retention. A ready signal moves
its domain to its next step, and the last one switches it on. A domain whose signal is missing stays off: a core
position is Fenced, another domain ends the wake (log 47 for what that leaves at boot). Domains woken for management
go off again.
(R436, R439, R440, R441, R442, R443, R444.) -/
def Obligations.WakeEventsComplete : Prop :=
  ∀ s : State,
    (s.pwr.intlk = true → s.sec.stage = 8 → s.pwr.busy = false →
      let woken := fun (t : State) (source : Byte) => t.pwr.busy = true ∧ t.pwr.goal = 2 ∧ t.pwr.lastWake = source ∧
        t.pwr.state = s.pwr.state ∧ t.pwr.domains = s.pwr.domains
      (∀ p, s.pwr.state = 3 ∨ s.pwr.state = 4 → Does (.speedwellWakePattern p) s [.pwr, .mon] fun t => woken t 1) ∧
      (s.pwr.state = 4 → Does .ethernetWakePattern s [.pwr, .mon] fun t => woken t 3) ∧
      (s.pwr.state = 3 → exec .ethernetWakePattern s = .next s)) ∧
    (lowering s = true → s.pwr.goal = 4 →
      (∀ p, Does (.speedwellWakePattern p) s [.pwr] fun t => t.pwr = { s.pwr with latched := t.pwr.latched } ∧
        (1, p.val) ∈ t.pwr.latched) ∧
      Does .ethernetWakePattern s [.pwr] fun t => t.pwr = { s.pwr with latched := t.pwr.latched } ∧ (3, 0) ∈ t.pwr.latched) ∧
    (s.pwr.state = 2 → s.pwr.busy = false → s.eth.phase = .none → s.pwr.retidle ≠ 0 →
      ∃ t, exec .retidleExpiry s = .next t ∧ t.pwr.busy = true ∧ t.pwr.goal = 3 ∧
        t.pwr.domains = s.pwr.domains &&& (domainRange 24 31 ||| domainRange 39 39)) ∧
    (∀ (d : Fin 40) (k : WakeStep), (d.val, k) ∈ wakingNow s.pwr.waking →
      (k ≠ .logic → Does (.domainReady d k) s [.pwr] fun t => t.pwr.domains = s.pwr.domains ∧
        t.pwr.waking.map (·.1) = s.pwr.waking.map (·.1) ∧ (∃ n, nextWakeStep k = some n ∧ (d.val, n) ∈ t.pwr.waking) ∧
        ∀ x ∈ s.pwr.waking, x.1 ≠ d.val → x ∈ t.pwr.waking) ∧
      (k = .logic → ∃ t, exec (.domainReady d k) s = .next t ∧ t.pwr.domains.getLsbD d = true ∧
        t.pwr.waking = s.pwr.waking.filter (fun x => x.1 != d.val) ∧
        (∀ e, e < 40 → e ≠ d.val → t.pwr.domains.getLsbD e = s.pwr.domains.getLsbD e) ∧
        t.sec = s.sec ∧ t.time = s.time)) ∧
    (∀ d : Fin 40, (∃ k, (d.val, k) ∈ wakingNow s.pwr.waking) → s.pwr.positions.length = 20 →
      ∃ t, exec (.domainWakeFail d) s = .next t ∧ t.pwr.domains.getLsbD d = false ∧ t.sec.life = s.sec.life ∧
        (d.val < 20 → (positionAt t d).state = 3 ∧ (positionAt t d).cause = 5 ∧
          ∀ p, p ≠ d.val → positionAt t p = positionAt s p) ∧
        (20 ≤ d.val → t.pwr.waking = [] ∧ t.pwr.mgmtOnly = false ∧
          ((stateDomains s s.pwr.state.toNat).getLsbD d = true → t.pwr.domains = 0 ∧ t.pwr.busy = true ∧ t.pwr.goal = 4) ∧
          ((stateDomains s s.pwr.state.toNat).getLsbD d = false → t.pwr.busy = false ∧ t.pwr.state = s.pwr.state))) ∧
    (s.pwr.mgmtOnly = true → ∃ t, exec .mgmtDomainIdleOff s = .next t ∧ t.pwr.mgmtOnly = false ∧ t.pwr.busy = false ∧
      t.pwr.domains &&& domainRange 32 39 = 0 ∧ t.pwr.state = s.pwr.state ∧ t.sec.life = s.sec.life)

/-- With a pace of 1 to 16, and no other rule in the same µs (of two the lowest pace stands): a sample at 2,900 W or more
halves the pace, at most once in 100 samples, and counts into an excursion; at or below 2,600 W it leaves the pace and
ends the excursion. A decision lowers the pace by one when the mean exceeds the limit or a junction is hot, raises it
by one when there is room, and else keeps it within PMAX. A junction at 105 °C or a stack at 100 °C, as the sensors
read or are taken to read (log 62), trips a device that has anything on: every domain off, the entry to Standby begun
(its end is log 37's choice); below both the readings are only taken.
(R29, R435, R447, R448.) -/
def Obligations.PaceAndThermalChecksComplete : Prop :=
  ∀ s : State, 1 ≤ s.pwr.pace.toNat → s.pwr.pace.toNat ≤ 16 →
    (∀ w : Nat,
      (2900 ≤ w → 100 ≤ s.pwr.sinceHalf → s.pwr.excursion + 1 < 8000 → Does (.paceFastCheck w) s [.pwr] fun t =>
        (paceShared s false = none → t.pwr.pace.toNat = max 1 (s.pwr.pace.toNat / 2) ∧
          (2 ≤ s.pwr.pace.toNat → t.pwr.limiter = 1)) ∧
        (∀ p, paceShared s false = some p → t.pwr.pace.toNat = min s.pwr.pace.toNat (max 1 (p.toNat / 2))) ∧
        t.pwr.sinceHalf = 1 ∧
        t.pwr.excursion = s.pwr.excursion + 1 ∧ t.pwr.sum = s.pwr.sum + w ∧ t.pwr.domains = s.pwr.domains) ∧
      (w ≤ 2600 → Does (.paceFastCheck w) s [.pwr] fun t =>
        (paceShared s false = none → t.pwr.pace = s.pwr.pace ∧ t.pwr.limiter = s.pwr.limiter) ∧
        (∀ p, paceShared s false = some p → t.pwr.pace.toNat = min s.pwr.pace.toNat p.toNat) ∧ t.pwr.excursion = 0 ∧ t.pwr.sum = s.pwr.sum + w ∧ t.pwr.samples = s.pwr.samples + 1)) ∧
    (let n := max 1 s.pwr.samples
     let slow := n * s.pwr.plimit.toNat < s.pwr.sum
     let hot := s.pwr.tthrot.toNat ≤ s.pwr.tj.toNat ∨ 90 ≤ s.pwr.tstack.toNat
     let room := s.pwr.sum + n * 100 ≤ n * s.pwr.plimit.toNat ∧ s.pwr.tj.toNat + 2 < s.pwr.tthrot.toNat ∧
       s.pwr.tstack.toNat < 88 ∧ s.pwr.pace.toNat < pmaxNow s
     s.pwr.pace.toNat ≤ pmaxNow s →
     (Does .paceDecision s [.pwr] fun t => t.pwr.samples = 0 ∧ t.pwr.sum = 0 ∧ t.pwr.domains = s.pwr.domains ∧
       (paceShared s true ≠ none → t.pwr.pace.toNat ≤ s.pwr.pace.toNat)) ∧
     (paceShared s true = none → Does .paceDecision s [.pwr] fun t =>
       (slow ∨ hot → t.pwr.pace.toNat = max 1 (s.pwr.pace.toNat - 1) ∧
         (2 ≤ s.pwr.pace.toNat → t.pwr.limiter = if slow then 3 else 4)) ∧
       (¬ slow → ¬ hot → room → t.pwr.pace.toNat = s.pwr.pace.toNat + 1 ∧ t.pwr.limiter = s.pwr.limiter) ∧
       (¬ slow → ¬ hot → ¬ room → t.pwr.pace = s.pwr.pace ∧ t.pwr.limiter = s.pwr.limiter))) ∧
    (∀ logic hbm : List (BitVec 8),
      let tj := hottestLogic s logic
      let tstack := hottestStack s logic hbm
      (105 ≤ tj.toNat ∨ 100 ≤ tstack.toNat → anythingOn s = true → ∃ t, exec (.thermalReading logic hbm) s = .next t ∧
        t.pwr.tj = tj ∧ t.pwr.tstack = tstack ∧ t.pwr.tripped = true ∧
        t.pwr.trips.toNat = satAdd 8 s.pwr.trips.toNat 1 ∧ t.pwr.domains = 0 ∧ t.pwr.busy = true ∧ t.pwr.goal = 4 ∧
        t.sec.life = s.sec.life) ∧
      (tj.toNat < 105 → tstack.toNat < 100 → s.pwr.tripped = false → Does (.thermalReading logic hbm) s [.pwr] fun t =>
        t.pwr = { s.pwr with tj := tj, tstack := tstack }))  ∧
    (∀ (logic : List (BitVec 8)) (u : Nat), s.mon.badSensors = [] → logicReading s logic u = (logic.getD u 0).toNat)

/-- The fall of the power-good signal of a rail that feeds a domain that is on acts as the loss of the interlock: every
domain off, the entry to Standby begun (its end is log 37's choice, what the model calls INTLK then log 47's); of a
rail that feeds none it changes nothing. Without the reference or the always-on supply the device is Off: every part
is as after reset but the fuses, the boot flash, the audit log (sealed only where it was and the power-off-ready
output was high), local flash and what the partner holds for the device (log 52).
(R28, R29, R397, R410, R438, R450, R477, R478.) -/
def Obligations.SupplyLossesComplete : Prop :=
  (∀ (r : Rail) (s : State),
    (s.pwr.domains &&& railDomains r ≠ 0 → ∃ t, exec (.powerGoodFall r) s = .next t ∧ t.pwr.intlk = false ∧
      t.pwr.domains = 0 ∧ t.pwr.busy = true ∧ t.pwr.goal = 4 ∧ t.sec.life = s.sec.life ∧ t.mon.setValid = false) ∧
    (s.pwr.domains &&& railDomains r = 0 → exec (.powerGoodFall r) s = .next s)) ∧
  ∀ (c : Instr) (s : State), c = .referenceLoss ∨ c = .alwaysOnLoss → ∃ t, exec c s = .next t ∧
    t.cu = Cores.reset ∧ t.seq = Seq.reset ∧ t.mem = Mem.reset ∧ t.stash = Stash.reset ∧ t.link = Link.reset ∧
    t.time = Time.reset ∧ t.coll = Coll.reset ∧ t.commit = Commit.reset ∧ t.eth = Eth.reset ∧ t.pwr = Pwr.reset ∧
    t.mon = Mon.reset ∧ t.pending = s.pending ∧ t.outbox = s.outbox ∧ t.rsl.flash = s.rsl.flash ∧
    t.rsl.remote = s.rsl.remote ∧ t.rsl.slots = [Slot.empty, Slot.empty] ∧ t.sec.stage = 0 ∧ t.sec.role = none ∧ t.sec.record = [] ∧
    t.sec.life = s.sec.life ∧ t.sec.svn = s.sec.svn ∧ t.sec.enrolled = s.sec.enrolled ∧ t.sec.idDraw = s.sec.idDraw ∧
    t.sec.nor = s.sec.nor ∧ t.sec.audit = s.sec.audit ∧ t.sec.sealed = (s.sec.sealed && s.pwr.pwrok)

/-- In a maker session that acts (the right is the model's choice of log 38), FULL starts the run with RESULT 1, and
INVALIDATE makes the stored set invalid; outside one, FULL is refused with RESULT 2 and both are counted as denied. A
run that completes gives each of the tests 0x1 to 0xA that it reached its result: a pass where none of its units
failed, else outcome 2 with the first failing unit and the number of its failing units; a run stops at 512 entries of
its failure log, and the tests after that of the last entry read not run. Nothing changes where no run is in progress.
(R413, R416, R464, R465, R467.) -/
def Obligations.SelfTestCommandsComplete : Prop :=
  ∀ s : State,
    (sessionIs s .maker = true →
      (Does .full s [.mon] fun t => t.mon = { s.mon with running := true, bistResult := 1 }) ∧
      Does .invalidate s [.mon] fun t => t.mon = { s.mon with setValid := false, bistResult := 0 }) ∧
    (sessionIs s .maker = false →
      (Does .full s [.sec, .mon] fun t => t.mon = { s.mon with bistResult := 2 } ∧
        t.sec.denied.toNat = satAdd 8 s.sec.denied.toNat 1) ∧
      Does .invalidate s [.sec] fun t => t.sec.denied.toNat = satAdd 8 s.sec.denied.toNat 1) ∧
    (∀ failed, s.mon.running = true → Does (.fullComplete failed) s [.mon] fun t =>
      t.mon.running = false ∧ t.mon.bistResult = 0 ∧ t.mon.setValid = s.mon.setValid ∧
      let kept := failed.take 512
      let last := if failed.length < 512 then 10 else (failed.getD 511 (10, 0, 0)).1
      (∀ i, t.mon.failLog.get i = (kept.flatMap failEntry).getD i 0) ∧
      ∀ k, 1 ≤ k → k ≤ 10 →
        (last < k → t.mon.results.get k = 0) ∧
        (k ≤ last → (∀ x ∈ kept, x.1 ≠ k) → t.mon.results.get k = 1) ∧
        (k ≤ last → ∀ x, kept.find? (·.1 == k) = some x →
          fld (t.mon.results.get k) 1 0 = 2 ∧ fld (t.mon.results.get k) 11 2 = x.2.1 % 1024 ∧
          fld (t.mon.results.get k) 19 12 = min (((kept.filter (·.1 == k)).map (·.2.1)).eraseDups.length) 255)) ∧
    (∀ failed, s.mon.running = false → exec (.fullComplete failed) s = .next s)
end

