-- ==== Sys2Proof/Laws/Frames.lean ====
section
/-! SUPPORT. What each shared operation leaves alone: for every function on states one lemma that names the parts of the
state it keeps, as simp rules. -/

namespace Sys2Proof.Machine

/-- A fold keeps what each of its steps keeps. -/
theorem foldl_keep {α β σ : Type} {p : σ → β} {g : σ → α → σ} (h : ∀ s a, p (g s a) = p s) :
    ∀ (l : List α) (s : σ), p (l.foldl g s) = p s
  | [], _ => rfl
  | a :: l, s => (foldl_keep h l (g s a)).trans (h s a)

@[simp] theorem foldl_pending {α : Type} (g : State → α → State) (h : ∀ s a, (g s a).pending = s.pending) (l : List α) (s : State) :
    (l.foldl g s).pending = s.pending := foldl_keep (p := State.pending) h l s
@[simp] theorem foldl_uptime {α : Type} (g : State → α → State) (h : ∀ s a, (g s a).uptime = s.uptime) (l : List α) (s : State) :
    (l.foldl g s).uptime = s.uptime := foldl_keep (p := State.uptime) h l s
@[simp] theorem foldl_drawn {α : Type} (g : State → α → State) (h : ∀ s a, (g s a).drawn = s.drawn) (l : List α) (s : State) :
    (l.foldl g s).drawn = s.drawn := foldl_keep (p := State.drawn) h l s
@[simp] theorem foldl_cu {α : Type} (g : State → α → State) (h : ∀ s a, (g s a).cu = s.cu) (l : List α) (s : State) :
    (l.foldl g s).cu = s.cu := foldl_keep (p := State.cu) h l s
@[simp] theorem foldl_seq {α : Type} (g : State → α → State) (h : ∀ s a, (g s a).seq = s.seq) (l : List α) (s : State) :
    (l.foldl g s).seq = s.seq := foldl_keep (p := State.seq) h l s
@[simp] theorem foldl_mem {α : Type} (g : State → α → State) (h : ∀ s a, (g s a).mem = s.mem) (l : List α) (s : State) :
    (l.foldl g s).mem = s.mem := foldl_keep (p := State.mem) h l s
@[simp] theorem foldl_stash {α : Type} (g : State → α → State) (h : ∀ s a, (g s a).stash = s.stash) (l : List α) (s : State) :
    (l.foldl g s).stash = s.stash := foldl_keep (p := State.stash) h l s
@[simp] theorem foldl_link {α : Type} (g : State → α → State) (h : ∀ s a, (g s a).link = s.link) (l : List α) (s : State) :
    (l.foldl g s).link = s.link := foldl_keep (p := State.link) h l s
@[simp] theorem foldl_time {α : Type} (g : State → α → State) (h : ∀ s a, (g s a).time = s.time) (l : List α) (s : State) :
    (l.foldl g s).time = s.time := foldl_keep (p := State.time) h l s
@[simp] theorem foldl_coll {α : Type} (g : State → α → State) (h : ∀ s a, (g s a).coll = s.coll) (l : List α) (s : State) :
    (l.foldl g s).coll = s.coll := foldl_keep (p := State.coll) h l s
@[simp] theorem foldl_commit {α : Type} (g : State → α → State) (h : ∀ s a, (g s a).commit = s.commit) (l : List α) (s : State) :
    (l.foldl g s).commit = s.commit := foldl_keep (p := State.commit) h l s
@[simp] theorem foldl_rsl {α : Type} (g : State → α → State) (h : ∀ s a, (g s a).rsl = s.rsl) (l : List α) (s : State) :
    (l.foldl g s).rsl = s.rsl := foldl_keep (p := State.rsl) h l s
@[simp] theorem foldl_eth {α : Type} (g : State → α → State) (h : ∀ s a, (g s a).eth = s.eth) (l : List α) (s : State) :
    (l.foldl g s).eth = s.eth := foldl_keep (p := State.eth) h l s
@[simp] theorem foldl_sec {α : Type} (g : State → α → State) (h : ∀ s a, (g s a).sec = s.sec) (l : List α) (s : State) :
    (l.foldl g s).sec = s.sec := foldl_keep (p := State.sec) h l s
@[simp] theorem foldl_pwr {α : Type} (g : State → α → State) (h : ∀ s a, (g s a).pwr = s.pwr) (l : List α) (s : State) :
    (l.foldl g s).pwr = s.pwr := foldl_keep (p := State.pwr) h l s
@[simp] theorem foldl_mon {α : Type} (g : State → α → State) (h : ∀ s a, (g s a).mon = s.mon) (l : List α) (s : State) :
    (l.foldl g s).mon = s.mon := foldl_keep (p := State.mon) h l s
@[simp] theorem foldl_outbox {α : Type} (g : State → α → State) (h : ∀ s a, (g s a).outbox = s.outbox) (l : List α) (s : State) :
    (l.foldl g s).outbox = s.outbox := foldl_keep (p := State.outbox) h l s
@[simp] theorem foldl_fst_pending {α β : Type} (g : State × β → α → State × β) (h : ∀ s a, (g s a).1.pending = s.1.pending) (l : List α)
    (s : State × β) : (l.foldl g s).1.pending = s.1.pending := foldl_keep (p := fun x => x.1.pending) h l s
@[simp] theorem foldl_fst_uptime {α β : Type} (g : State × β → α → State × β) (h : ∀ s a, (g s a).1.uptime = s.1.uptime) (l : List α)
    (s : State × β) : (l.foldl g s).1.uptime = s.1.uptime := foldl_keep (p := fun x => x.1.uptime) h l s
@[simp] theorem foldl_fst_drawn {α β : Type} (g : State × β → α → State × β) (h : ∀ s a, (g s a).1.drawn = s.1.drawn) (l : List α)
    (s : State × β) : (l.foldl g s).1.drawn = s.1.drawn := foldl_keep (p := fun x => x.1.drawn) h l s
@[simp] theorem foldl_fst_cu {α β : Type} (g : State × β → α → State × β) (h : ∀ s a, (g s a).1.cu = s.1.cu) (l : List α)
    (s : State × β) : (l.foldl g s).1.cu = s.1.cu := foldl_keep (p := fun x => x.1.cu) h l s
@[simp] theorem foldl_fst_seq {α β : Type} (g : State × β → α → State × β) (h : ∀ s a, (g s a).1.seq = s.1.seq) (l : List α)
    (s : State × β) : (l.foldl g s).1.seq = s.1.seq := foldl_keep (p := fun x => x.1.seq) h l s
@[simp] theorem foldl_fst_mem {α β : Type} (g : State × β → α → State × β) (h : ∀ s a, (g s a).1.mem = s.1.mem) (l : List α)
    (s : State × β) : (l.foldl g s).1.mem = s.1.mem := foldl_keep (p := fun x => x.1.mem) h l s
@[simp] theorem foldl_fst_stash {α β : Type} (g : State × β → α → State × β) (h : ∀ s a, (g s a).1.stash = s.1.stash) (l : List α)
    (s : State × β) : (l.foldl g s).1.stash = s.1.stash := foldl_keep (p := fun x => x.1.stash) h l s
@[simp] theorem foldl_fst_link {α β : Type} (g : State × β → α → State × β) (h : ∀ s a, (g s a).1.link = s.1.link) (l : List α)
    (s : State × β) : (l.foldl g s).1.link = s.1.link := foldl_keep (p := fun x => x.1.link) h l s
@[simp] theorem foldl_fst_time {α β : Type} (g : State × β → α → State × β) (h : ∀ s a, (g s a).1.time = s.1.time) (l : List α)
    (s : State × β) : (l.foldl g s).1.time = s.1.time := foldl_keep (p := fun x => x.1.time) h l s
@[simp] theorem foldl_fst_coll {α β : Type} (g : State × β → α → State × β) (h : ∀ s a, (g s a).1.coll = s.1.coll) (l : List α)
    (s : State × β) : (l.foldl g s).1.coll = s.1.coll := foldl_keep (p := fun x => x.1.coll) h l s
@[simp] theorem foldl_fst_commit {α β : Type} (g : State × β → α → State × β) (h : ∀ s a, (g s a).1.commit = s.1.commit) (l : List α)
    (s : State × β) : (l.foldl g s).1.commit = s.1.commit := foldl_keep (p := fun x => x.1.commit) h l s
@[simp] theorem foldl_fst_rsl {α β : Type} (g : State × β → α → State × β) (h : ∀ s a, (g s a).1.rsl = s.1.rsl) (l : List α)
    (s : State × β) : (l.foldl g s).1.rsl = s.1.rsl := foldl_keep (p := fun x => x.1.rsl) h l s
@[simp] theorem foldl_fst_eth {α β : Type} (g : State × β → α → State × β) (h : ∀ s a, (g s a).1.eth = s.1.eth) (l : List α)
    (s : State × β) : (l.foldl g s).1.eth = s.1.eth := foldl_keep (p := fun x => x.1.eth) h l s
@[simp] theorem foldl_fst_sec {α β : Type} (g : State × β → α → State × β) (h : ∀ s a, (g s a).1.sec = s.1.sec) (l : List α)
    (s : State × β) : (l.foldl g s).1.sec = s.1.sec := foldl_keep (p := fun x => x.1.sec) h l s
@[simp] theorem foldl_fst_pwr {α β : Type} (g : State × β → α → State × β) (h : ∀ s a, (g s a).1.pwr = s.1.pwr) (l : List α)
    (s : State × β) : (l.foldl g s).1.pwr = s.1.pwr := foldl_keep (p := fun x => x.1.pwr) h l s
@[simp] theorem foldl_fst_mon {α β : Type} (g : State × β → α → State × β) (h : ∀ s a, (g s a).1.mon = s.1.mon) (l : List α)
    (s : State × β) : (l.foldl g s).1.mon = s.1.mon := foldl_keep (p := fun x => x.1.mon) h l s
@[simp] theorem foldl_fst_outbox {α β : Type} (g : State × β → α → State × β) (h : ∀ s a, (g s a).1.outbox = s.1.outbox) (l : List α)
    (s : State × β) : (l.foldl g s).1.outbox = s.1.outbox := foldl_keep (p := fun x => x.1.outbox) h l s

@[simp] theorem writeTile_keeps (s : State) (core t addr : Nat) (bs : List Byte) :
    (writeTile s core t addr bs).pending = s.pending ∧ (writeTile s core t addr bs).uptime = s.uptime ∧
      (writeTile s core t addr bs).drawn = s.drawn ∧ (writeTile s core t addr bs).seq = s.seq ∧
      (writeTile s core t addr bs).mem = s.mem ∧ (writeTile s core t addr bs).stash = s.stash ∧
      (writeTile s core t addr bs).link = s.link ∧ (writeTile s core t addr bs).time = s.time ∧
      (writeTile s core t addr bs).coll = s.coll ∧ (writeTile s core t addr bs).commit = s.commit ∧
      (writeTile s core t addr bs).rsl = s.rsl ∧ (writeTile s core t addr bs).eth = s.eth ∧
      (writeTile s core t addr bs).sec = s.sec ∧ (writeTile s core t addr bs).pwr = s.pwr ∧
      (writeTile s core t addr bs).mon = s.mon ∧ (writeTile s core t addr bs).outbox = s.outbox := by
  unfold writeTile; simp

@[simp] theorem writeAcc_keeps (s : State) (core t e : Nat) (vs : List Word) :
    (writeAcc s core t e vs).pending = s.pending ∧ (writeAcc s core t e vs).uptime = s.uptime ∧
      (writeAcc s core t e vs).drawn = s.drawn ∧ (writeAcc s core t e vs).seq = s.seq ∧
      (writeAcc s core t e vs).mem = s.mem ∧ (writeAcc s core t e vs).stash = s.stash ∧
      (writeAcc s core t e vs).link = s.link ∧ (writeAcc s core t e vs).time = s.time ∧
      (writeAcc s core t e vs).coll = s.coll ∧ (writeAcc s core t e vs).commit = s.commit ∧
      (writeAcc s core t e vs).rsl = s.rsl ∧ (writeAcc s core t e vs).eth = s.eth ∧ (writeAcc s core t e vs).sec = s.sec ∧
      (writeAcc s core t e vs).pwr = s.pwr ∧ (writeAcc s core t e vs).mon = s.mon ∧
      (writeAcc s core t e vs).outbox = s.outbox := by
  unfold writeAcc; simp

@[simp] theorem markReady_keeps (s : State) (core : Nat) (d : Dest) (ready : Nat) :
    (markReady s core d ready).pending = s.pending ∧ (markReady s core d ready).uptime = s.uptime ∧
      (markReady s core d ready).drawn = s.drawn ∧ (markReady s core d ready).seq = s.seq ∧
      (markReady s core d ready).mem = s.mem ∧ (markReady s core d ready).stash = s.stash ∧
      (markReady s core d ready).link = s.link ∧ (markReady s core d ready).time = s.time ∧
      (markReady s core d ready).coll = s.coll ∧ (markReady s core d ready).commit = s.commit ∧
      (markReady s core d ready).rsl = s.rsl ∧ (markReady s core d ready).eth = s.eth ∧
      (markReady s core d ready).sec = s.sec ∧ (markReady s core d ready).pwr = s.pwr ∧
      (markReady s core d ready).mon = s.mon ∧ (markReady s core d ready).outbox = s.outbox := by
  unfold markReady; (repeat' split) <;> simp

@[simp] theorem pushResult_keeps (s : State) (op : CoreOp) (lat : Nat) (dest : Dest) (nonfin satf : Bool) :
    (pushResult s op lat dest nonfin satf).pending = s.pending ∧ (pushResult s op lat dest nonfin satf).uptime = s.uptime ∧
      (pushResult s op lat dest nonfin satf).drawn = s.drawn ∧ (pushResult s op lat dest nonfin satf).seq = s.seq ∧
      (pushResult s op lat dest nonfin satf).mem = s.mem ∧ (pushResult s op lat dest nonfin satf).stash = s.stash ∧
      (pushResult s op lat dest nonfin satf).link = s.link ∧ (pushResult s op lat dest nonfin satf).time = s.time ∧
      (pushResult s op lat dest nonfin satf).coll = s.coll ∧ (pushResult s op lat dest nonfin satf).commit = s.commit ∧
      (pushResult s op lat dest nonfin satf).rsl = s.rsl ∧ (pushResult s op lat dest nonfin satf).eth = s.eth ∧
      (pushResult s op lat dest nonfin satf).sec = s.sec ∧ (pushResult s op lat dest nonfin satf).pwr = s.pwr ∧
      (pushResult s op lat dest nonfin satf).mon = s.mon ∧ (pushResult s op lat dest nonfin satf).outbox = s.outbox := by
  unfold pushResult; simp

@[simp] theorem setFlags_keeps (s : State) (core : Nat) (nonfin satf : Bool) :
    (setFlags s core nonfin satf).pending = s.pending ∧ (setFlags s core nonfin satf).uptime = s.uptime ∧
      (setFlags s core nonfin satf).drawn = s.drawn ∧ (setFlags s core nonfin satf).seq = s.seq ∧
      (setFlags s core nonfin satf).mem = s.mem ∧ (setFlags s core nonfin satf).stash = s.stash ∧
      (setFlags s core nonfin satf).link = s.link ∧ (setFlags s core nonfin satf).time = s.time ∧
      (setFlags s core nonfin satf).coll = s.coll ∧ (setFlags s core nonfin satf).commit = s.commit ∧
      (setFlags s core nonfin satf).rsl = s.rsl ∧ (setFlags s core nonfin satf).eth = s.eth ∧
      (setFlags s core nonfin satf).sec = s.sec ∧ (setFlags s core nonfin satf).pwr = s.pwr ∧
      (setFlags s core nonfin satf).mon = s.mon ∧ (setFlags s core nonfin satf).outbox = s.outbox := by
  unfold setFlags; simp

@[simp] theorem writeRows_keeps (s : State) (core t row : Nat) (l : List (List Word)) :
    (writeRows s core t row l).pending = s.pending ∧ (writeRows s core t row l).uptime = s.uptime ∧
      (writeRows s core t row l).drawn = s.drawn ∧ (writeRows s core t row l).seq = s.seq ∧
      (writeRows s core t row l).mem = s.mem ∧ (writeRows s core t row l).stash = s.stash ∧
      (writeRows s core t row l).link = s.link ∧ (writeRows s core t row l).time = s.time ∧
      (writeRows s core t row l).coll = s.coll ∧ (writeRows s core t row l).commit = s.commit ∧
      (writeRows s core t row l).rsl = s.rsl ∧ (writeRows s core t row l).eth = s.eth ∧
      (writeRows s core t row l).sec = s.sec ∧ (writeRows s core t row l).pwr = s.pwr ∧
      (writeRows s core t row l).mon = s.mon ∧ (writeRows s core t row l).outbox = s.outbox := by
  induction l generalizing s row with
  | nil => simp [writeRows]
  | cons a l ih =>
    unfold writeRows; dsimp only; split <;> simp [ih]

@[simp] theorem writeWords_keeps (s : State) (core t w : Nat) (l : List (List Byte)) :
    (writeWords s core t w l).pending = s.pending ∧ (writeWords s core t w l).uptime = s.uptime ∧
      (writeWords s core t w l).drawn = s.drawn ∧ (writeWords s core t w l).seq = s.seq ∧
      (writeWords s core t w l).mem = s.mem ∧ (writeWords s core t w l).stash = s.stash ∧
      (writeWords s core t w l).link = s.link ∧ (writeWords s core t w l).time = s.time ∧
      (writeWords s core t w l).coll = s.coll ∧ (writeWords s core t w l).commit = s.commit ∧
      (writeWords s core t w l).rsl = s.rsl ∧ (writeWords s core t w l).eth = s.eth ∧ (writeWords s core t w l).sec = s.sec ∧
      (writeWords s core t w l).pwr = s.pwr ∧ (writeWords s core t w l).mon = s.mon ∧
      (writeWords s core t w l).outbox = s.outbox := by
  induction l generalizing s w with
  | nil => simp [writeWords]
  | cons a l ih =>
    unfold writeWords; dsimp only; split <;> simp [ih]

@[simp] theorem landResult_keeps (s : State) (x : Result) :
    (landResult s x).pending = s.pending ∧ (landResult s x).uptime = s.uptime ∧ (landResult s x).drawn = s.drawn ∧
      (landResult s x).seq = s.seq ∧ (landResult s x).mem = s.mem ∧ (landResult s x).stash = s.stash ∧
      (landResult s x).link = s.link ∧ (landResult s x).time = s.time ∧ (landResult s x).coll = s.coll ∧
      (landResult s x).commit = s.commit ∧ (landResult s x).rsl = s.rsl ∧ (landResult s x).eth = s.eth ∧
      (landResult s x).sec = s.sec ∧ (landResult s x).pwr = s.pwr ∧ (landResult s x).mon = s.mon ∧
      (landResult s x).outbox = s.outbox := by
  unfold landResult; (repeat' split) <;> simp

@[simp] theorem withStores_keeps (s : State) (core t : Nat) :
    (withStores s core t).pending = s.pending ∧ (withStores s core t).uptime = s.uptime ∧
      (withStores s core t).drawn = s.drawn ∧ (withStores s core t).seq = s.seq ∧ (withStores s core t).mem = s.mem ∧
      (withStores s core t).stash = s.stash ∧ (withStores s core t).link = s.link ∧ (withStores s core t).time = s.time ∧
      (withStores s core t).coll = s.coll ∧ (withStores s core t).commit = s.commit ∧ (withStores s core t).rsl = s.rsl ∧
      (withStores s core t).eth = s.eth ∧ (withStores s core t).sec = s.sec ∧ (withStores s core t).pwr = s.pwr ∧
      (withStores s core t).mon = s.mon ∧ (withStores s core t).outbox = s.outbox := by
  unfold withStores
  and_intros <;>
    (apply foldl_keep; intro s a; (repeat' split) <;> simp)

@[simp] theorem sendWord_keeps (s : State) (x : NetCopy) :
    (sendWord s x).pending = s.pending ∧ (sendWord s x).uptime = s.uptime ∧ (sendWord s x).drawn = s.drawn ∧
      (sendWord s x).seq = s.seq ∧ (sendWord s x).mem = s.mem ∧ (sendWord s x).stash = s.stash ∧
      (sendWord s x).link = s.link ∧ (sendWord s x).time = s.time ∧ (sendWord s x).coll = s.coll ∧
      (sendWord s x).commit = s.commit ∧ (sendWord s x).rsl = s.rsl ∧ (sendWord s x).eth = s.eth ∧
      (sendWord s x).sec = s.sec ∧ (sendWord s x).pwr = s.pwr ∧ (sendWord s x).mon = s.mon ∧ (sendWord s x).outbox = s.outbox := by
  unfold sendWord; (repeat' split) <;> simp [apply_ite]

@[simp] theorem netsAt_keeps (s : State) (u : Nat) :
    (netsAt s u).pending = s.pending ∧ (netsAt s u).uptime = s.uptime ∧ (netsAt s u).drawn = s.drawn ∧
      (netsAt s u).seq = s.seq ∧ (netsAt s u).mem = s.mem ∧ (netsAt s u).stash = s.stash ∧ (netsAt s u).link = s.link ∧
      (netsAt s u).time = s.time ∧ (netsAt s u).coll = s.coll ∧ (netsAt s u).commit = s.commit ∧ (netsAt s u).rsl = s.rsl ∧
      (netsAt s u).eth = s.eth ∧ (netsAt s u).sec = s.sec ∧ (netsAt s u).pwr = s.pwr ∧ (netsAt s u).mon = s.mon ∧
      (netsAt s u).outbox = s.outbox := by
  unfold netsAt
  and_intros <;>
    (apply foldl_keep; intro s a; (repeat' split) <;> simp)

@[simp] theorem landNets_keeps (s : State) (t : Nat) :
    (landNets s t).pending = s.pending ∧ (landNets s t).uptime = s.uptime ∧ (landNets s t).drawn = s.drawn ∧
      (landNets s t).seq = s.seq ∧ (landNets s t).mem = s.mem ∧ (landNets s t).stash = s.stash ∧
      (landNets s t).link = s.link ∧ (landNets s t).time = s.time ∧ (landNets s t).coll = s.coll ∧
      (landNets s t).commit = s.commit ∧ (landNets s t).rsl = s.rsl ∧ (landNets s t).eth = s.eth ∧
      (landNets s t).sec = s.sec ∧ (landNets s t).pwr = s.pwr ∧ (landNets s t).mon = s.mon ∧ (landNets s t).outbox = s.outbox := by
  unfold landNets; (repeat' split) <;> simp

@[simp] theorem setRegion_keeps (s : State) (core n t : Nat) (d : BitVec 128) :
    (setRegion s core n t d).pending = s.pending ∧ (setRegion s core n t d).uptime = s.uptime ∧
      (setRegion s core n t d).drawn = s.drawn ∧ (setRegion s core n t d).seq = s.seq ∧
      (setRegion s core n t d).mem = s.mem ∧ (setRegion s core n t d).stash = s.stash ∧
      (setRegion s core n t d).link = s.link ∧ (setRegion s core n t d).time = s.time ∧
      (setRegion s core n t d).coll = s.coll ∧ (setRegion s core n t d).commit = s.commit ∧
      (setRegion s core n t d).rsl = s.rsl ∧ (setRegion s core n t d).eth = s.eth ∧ (setRegion s core n t d).sec = s.sec ∧
      (setRegion s core n t d).pwr = s.pwr ∧ (setRegion s core n t d).mon = s.mon ∧
      (setRegion s core n t d).outbox = s.outbox := by
  unfold setRegion; simp

@[simp] theorem takeProducer_keeps (s : State) (core n t due : Nat) :
    (takeProducer s core n t due).pending = s.pending ∧ (takeProducer s core n t due).uptime = s.uptime ∧
      (takeProducer s core n t due).drawn = s.drawn ∧ (takeProducer s core n t due).seq = s.seq ∧
      (takeProducer s core n t due).mem = s.mem ∧ (takeProducer s core n t due).stash = s.stash ∧
      (takeProducer s core n t due).link = s.link ∧ (takeProducer s core n t due).time = s.time ∧
      (takeProducer s core n t due).coll = s.coll ∧ (takeProducer s core n t due).commit = s.commit ∧
      (takeProducer s core n t due).rsl = s.rsl ∧ (takeProducer s core n t due).eth = s.eth ∧
      (takeProducer s core n t due).sec = s.sec ∧ (takeProducer s core n t due).pwr = s.pwr ∧
      (takeProducer s core n t due).mon = s.mon ∧ (takeProducer s core n t due).outbox = s.outbox := by
  unfold takeProducer; simp

@[simp] theorem takeConsumer_keeps (s : State) (core n t due : Nat) :
    (takeConsumer s core n t due).pending = s.pending ∧ (takeConsumer s core n t due).uptime = s.uptime ∧
      (takeConsumer s core n t due).drawn = s.drawn ∧ (takeConsumer s core n t due).seq = s.seq ∧
      (takeConsumer s core n t due).mem = s.mem ∧ (takeConsumer s core n t due).stash = s.stash ∧
      (takeConsumer s core n t due).link = s.link ∧ (takeConsumer s core n t due).time = s.time ∧
      (takeConsumer s core n t due).coll = s.coll ∧ (takeConsumer s core n t due).commit = s.commit ∧
      (takeConsumer s core n t due).rsl = s.rsl ∧ (takeConsumer s core n t due).eth = s.eth ∧
      (takeConsumer s core n t due).sec = s.sec ∧ (takeConsumer s core n t due).pwr = s.pwr ∧
      (takeConsumer s core n t due).mon = s.mon ∧ (takeConsumer s core n t due).outbox = s.outbox := by
  unfold takeConsumer; simp

@[simp] theorem takeElasticProducer_keeps (s : State) (core n t : Nat) :
    (takeElasticProducer s core n t).pending = s.pending ∧ (takeElasticProducer s core n t).uptime = s.uptime ∧
      (takeElasticProducer s core n t).drawn = s.drawn ∧ (takeElasticProducer s core n t).seq = s.seq ∧
      (takeElasticProducer s core n t).mem = s.mem ∧ (takeElasticProducer s core n t).stash = s.stash ∧
      (takeElasticProducer s core n t).link = s.link ∧ (takeElasticProducer s core n t).time = s.time ∧
      (takeElasticProducer s core n t).coll = s.coll ∧ (takeElasticProducer s core n t).commit = s.commit ∧
      (takeElasticProducer s core n t).rsl = s.rsl ∧ (takeElasticProducer s core n t).eth = s.eth ∧
      (takeElasticProducer s core n t).sec = s.sec ∧ (takeElasticProducer s core n t).pwr = s.pwr ∧
      (takeElasticProducer s core n t).mon = s.mon ∧ (takeElasticProducer s core n t).outbox = s.outbox := by
  unfold takeElasticProducer; simp

@[simp] theorem takeElasticConsumer_keeps (s : State) (core n t : Nat) :
    (takeElasticConsumer s core n t).pending = s.pending ∧ (takeElasticConsumer s core n t).uptime = s.uptime ∧
      (takeElasticConsumer s core n t).drawn = s.drawn ∧ (takeElasticConsumer s core n t).seq = s.seq ∧
      (takeElasticConsumer s core n t).mem = s.mem ∧ (takeElasticConsumer s core n t).stash = s.stash ∧
      (takeElasticConsumer s core n t).link = s.link ∧ (takeElasticConsumer s core n t).time = s.time ∧
      (takeElasticConsumer s core n t).coll = s.coll ∧ (takeElasticConsumer s core n t).commit = s.commit ∧
      (takeElasticConsumer s core n t).rsl = s.rsl ∧ (takeElasticConsumer s core n t).eth = s.eth ∧
      (takeElasticConsumer s core n t).sec = s.sec ∧ (takeElasticConsumer s core n t).pwr = s.pwr ∧
      (takeElasticConsumer s core n t).mon = s.mon ∧ (takeElasticConsumer s core n t).outbox = s.outbox := by
  unfold takeElasticConsumer; simp

@[simp] theorem takePorts_keeps (s : State) (op : CoreOp) (claims : List (Nat × Nat)) :
    (takePorts s op claims).pending = s.pending ∧ (takePorts s op claims).uptime = s.uptime ∧
      (takePorts s op claims).drawn = s.drawn ∧ (takePorts s op claims).seq = s.seq ∧ (takePorts s op claims).mem = s.mem ∧
      (takePorts s op claims).stash = s.stash ∧ (takePorts s op claims).link = s.link ∧
      (takePorts s op claims).time = s.time ∧ (takePorts s op claims).coll = s.coll ∧
      (takePorts s op claims).commit = s.commit ∧ (takePorts s op claims).rsl = s.rsl ∧ (takePorts s op claims).eth = s.eth ∧
      (takePorts s op claims).sec = s.sec ∧ (takePorts s op claims).pwr = s.pwr ∧ (takePorts s op claims).mon = s.mon ∧
      (takePorts s op claims).outbox = s.outbox := by
  unfold takePorts; (repeat' split) <;> simp

@[simp] theorem writeSlip_keeps (s : State) (core : Nat) (h : Hold) (cause region : Nat) :
    (writeSlip s core h cause region).pending = s.pending ∧ (writeSlip s core h cause region).uptime = s.uptime ∧
      (writeSlip s core h cause region).drawn = s.drawn ∧ (writeSlip s core h cause region).mem = s.mem ∧
      (writeSlip s core h cause region).stash = s.stash ∧ (writeSlip s core h cause region).link = s.link ∧
      (writeSlip s core h cause region).time = s.time ∧ (writeSlip s core h cause region).coll = s.coll ∧
      (writeSlip s core h cause region).commit = s.commit ∧ (writeSlip s core h cause region).rsl = s.rsl ∧
      (writeSlip s core h cause region).eth = s.eth ∧ (writeSlip s core h cause region).sec = s.sec ∧
      (writeSlip s core h cause region).pwr = s.pwr ∧ (writeSlip s core h cause region).mon = s.mon ∧
      (writeSlip s core h cause region).outbox = s.outbox := by
  unfold writeSlip; simp

@[simp] theorem endHold_keeps (s : State) :
    (endHold s).pending = s.pending ∧ (endHold s).uptime = s.uptime ∧ (endHold s).drawn = s.drawn ∧ (endHold s).mem = s.mem ∧
      (endHold s).stash = s.stash ∧ (endHold s).link = s.link ∧ (endHold s).time = s.time ∧ (endHold s).coll = s.coll ∧
      (endHold s).commit = s.commit ∧ (endHold s).rsl = s.rsl ∧ (endHold s).eth = s.eth ∧ (endHold s).sec = s.sec ∧
      (endHold s).pwr = s.pwr ∧ (endHold s).mon = s.mon ∧ (endHold s).outbox = s.outbox := by
  unfold endHold; dsimp only
  split
  · simp
  · split
    · simp
    · and_intros <;>
        (refine (foldl_keep ?_ _ _).trans rfl; intro a b; (repeat' split) <;> simp only [writeSlip_keeps])

@[simp] theorem send_keeps (s : State) (ms : List OutMsg) :
    (send s ms).pending = s.pending ∧ (send s ms).uptime = s.uptime ∧ (send s ms).drawn = s.drawn ∧ (send s ms).cu = s.cu ∧
      (send s ms).seq = s.seq ∧ (send s ms).mem = s.mem ∧ (send s ms).stash = s.stash ∧ (send s ms).link = s.link ∧
      (send s ms).time = s.time ∧ (send s ms).coll = s.coll ∧ (send s ms).commit = s.commit ∧ (send s ms).rsl = s.rsl ∧
      (send s ms).eth = s.eth ∧ (send s ms).sec = s.sec ∧ (send s ms).pwr = s.pwr ∧ (send s ms).mon = s.mon := by
  unfold send; simp

@[simp] theorem report_keeps (s : State) (code detail : Nat) :
    (report s code detail).pending = s.pending ∧ (report s code detail).uptime = s.uptime ∧
      (report s code detail).drawn = s.drawn ∧ (report s code detail).cu = s.cu ∧ (report s code detail).seq = s.seq ∧
      (report s code detail).mem = s.mem ∧ (report s code detail).stash = s.stash ∧ (report s code detail).link = s.link ∧
      (report s code detail).time = s.time ∧ (report s code detail).coll = s.coll ∧
      (report s code detail).commit = s.commit ∧ (report s code detail).rsl = s.rsl ∧ (report s code detail).sec = s.sec ∧
      (report s code detail).pwr = s.pwr ∧ (report s code detail).mon = s.mon ∧ (report s code detail).outbox = s.outbox := by
  unfold report; simp

@[simp] theorem auditPut_keeps (s : State) (e0 : AuditEntry) :
    (auditPut s e0).pending = s.pending ∧ (auditPut s e0).uptime = s.uptime ∧ (auditPut s e0).drawn = s.drawn ∧
      (auditPut s e0).cu = s.cu ∧ (auditPut s e0).seq = s.seq ∧ (auditPut s e0).mem = s.mem ∧
      (auditPut s e0).stash = s.stash ∧ (auditPut s e0).link = s.link ∧ (auditPut s e0).time = s.time ∧
      (auditPut s e0).coll = s.coll ∧ (auditPut s e0).commit = s.commit ∧ (auditPut s e0).rsl = s.rsl ∧
      (auditPut s e0).eth = s.eth ∧ (auditPut s e0).pwr = s.pwr ∧ (auditPut s e0).mon = s.mon ∧
      (auditPut s e0).outbox = s.outbox := by
  unfold auditPut; simp

@[simp] theorem auditWrap_keeps (s : State) :
    (auditWrap s).pending = s.pending ∧ (auditWrap s).uptime = s.uptime ∧ (auditWrap s).drawn = s.drawn ∧
      (auditWrap s).cu = s.cu ∧ (auditWrap s).seq = s.seq ∧ (auditWrap s).mem = s.mem ∧ (auditWrap s).stash = s.stash ∧
      (auditWrap s).link = s.link ∧ (auditWrap s).time = s.time ∧ (auditWrap s).coll = s.coll ∧
      (auditWrap s).commit = s.commit ∧ (auditWrap s).rsl = s.rsl ∧ (auditWrap s).eth = s.eth ∧ (auditWrap s).pwr = s.pwr ∧
      (auditWrap s).mon = s.mon ∧ (auditWrap s).outbox = s.outbox := by
  unfold auditWrap; (repeat' split) <;> simp

@[simp] theorem auditWrite_keeps (s : State) (e : AuditEntry) :
    (auditWrite s e).pending = s.pending ∧ (auditWrite s e).uptime = s.uptime ∧ (auditWrite s e).drawn = s.drawn ∧
      (auditWrite s e).cu = s.cu ∧ (auditWrite s e).seq = s.seq ∧ (auditWrite s e).mem = s.mem ∧
      (auditWrite s e).stash = s.stash ∧ (auditWrite s e).link = s.link ∧ (auditWrite s e).time = s.time ∧
      (auditWrite s e).coll = s.coll ∧ (auditWrite s e).commit = s.commit ∧ (auditWrite s e).rsl = s.rsl ∧
      (auditWrite s e).eth = s.eth ∧ (auditWrite s e).pwr = s.pwr ∧ (auditWrite s e).mon = s.mon ∧
      (auditWrite s e).outbox = s.outbox := by
  unfold auditWrite; simp

@[simp] theorem flushSuppressed_keeps (s : State) :
    (flushSuppressed s).pending = s.pending ∧ (flushSuppressed s).uptime = s.uptime ∧ (flushSuppressed s).drawn = s.drawn ∧
      (flushSuppressed s).cu = s.cu ∧ (flushSuppressed s).seq = s.seq ∧ (flushSuppressed s).mem = s.mem ∧
      (flushSuppressed s).stash = s.stash ∧ (flushSuppressed s).link = s.link ∧ (flushSuppressed s).time = s.time ∧
      (flushSuppressed s).coll = s.coll ∧ (flushSuppressed s).commit = s.commit ∧ (flushSuppressed s).rsl = s.rsl ∧
      (flushSuppressed s).eth = s.eth ∧ (flushSuppressed s).pwr = s.pwr ∧ (flushSuppressed s).mon = s.mon ∧
      (flushSuppressed s).outbox = s.outbox := by
  unfold flushSuppressed; simp

@[simp] theorem newSecond_keeps (s : State) :
    (newSecond s).pending = s.pending ∧ (newSecond s).uptime = s.uptime ∧ (newSecond s).drawn = s.drawn ∧
      (newSecond s).cu = s.cu ∧ (newSecond s).seq = s.seq ∧ (newSecond s).mem = s.mem ∧ (newSecond s).stash = s.stash ∧
      (newSecond s).link = s.link ∧ (newSecond s).time = s.time ∧ (newSecond s).coll = s.coll ∧
      (newSecond s).commit = s.commit ∧ (newSecond s).rsl = s.rsl ∧ (newSecond s).eth = s.eth ∧ (newSecond s).pwr = s.pwr ∧
      (newSecond s).mon = s.mon ∧ (newSecond s).outbox = s.outbox := by
  unfold newSecond; (repeat' split) <;> simp

@[simp] theorem audit_keeps (s : State) (event : Nat) (role : Role) (path : Path) (d1 d2 : Nat) :
    (audit s event role path d1 d2).pending = s.pending ∧ (audit s event role path d1 d2).uptime = s.uptime ∧
      (audit s event role path d1 d2).drawn = s.drawn ∧ (audit s event role path d1 d2).cu = s.cu ∧
      (audit s event role path d1 d2).seq = s.seq ∧ (audit s event role path d1 d2).mem = s.mem ∧
      (audit s event role path d1 d2).stash = s.stash ∧ (audit s event role path d1 d2).link = s.link ∧
      (audit s event role path d1 d2).time = s.time ∧ (audit s event role path d1 d2).coll = s.coll ∧
      (audit s event role path d1 d2).commit = s.commit ∧ (audit s event role path d1 d2).rsl = s.rsl ∧
      (audit s event role path d1 d2).eth = s.eth ∧ (audit s event role path d1 d2).pwr = s.pwr ∧
      (audit s event role path d1 d2).mon = s.mon ∧ (audit s event role path d1 d2).outbox = s.outbox := by
  unfold audit; (repeat' split) <;> simp [apply_ite]

@[simp] theorem putSignature_keeps (s : State) (bs : List Byte) :
    (putSignature s bs).pending = s.pending ∧ (putSignature s bs).uptime = s.uptime ∧ (putSignature s bs).drawn = s.drawn ∧
      (putSignature s bs).cu = s.cu ∧ (putSignature s bs).seq = s.seq ∧ (putSignature s bs).mem = s.mem ∧
      (putSignature s bs).stash = s.stash ∧ (putSignature s bs).link = s.link ∧ (putSignature s bs).time = s.time ∧
      (putSignature s bs).coll = s.coll ∧ (putSignature s bs).commit = s.commit ∧ (putSignature s bs).rsl = s.rsl ∧
      (putSignature s bs).eth = s.eth ∧ (putSignature s bs).pwr = s.pwr ∧ (putSignature s bs).mon = s.mon ∧
      (putSignature s bs).outbox = s.outbox := by
  unfold putSignature; simp

@[simp] theorem sealNow_keeps (s : State) :
    (sealNow s).pending = s.pending ∧ (sealNow s).uptime = s.uptime ∧ (sealNow s).drawn = s.drawn ∧ (sealNow s).cu = s.cu ∧
      (sealNow s).mem = s.mem ∧ (sealNow s).stash = s.stash ∧ (sealNow s).link = s.link ∧ (sealNow s).time = s.time ∧
      (sealNow s).coll = s.coll ∧ (sealNow s).commit = s.commit ∧ (sealNow s).rsl = s.rsl ∧ (sealNow s).eth = s.eth ∧
      (sealNow s).pwr = s.pwr ∧ (sealNow s).mon = s.mon ∧ (sealNow s).outbox = s.outbox := by
  unfold sealNow; simp

@[simp] theorem auditSeal_keeps (s : State) :
    (auditSeal s).pending = s.pending ∧ (auditSeal s).uptime = s.uptime ∧ (auditSeal s).drawn = s.drawn ∧
      (auditSeal s).cu = s.cu ∧ (auditSeal s).mem = s.mem ∧ (auditSeal s).stash = s.stash ∧ (auditSeal s).link = s.link ∧
      (auditSeal s).time = s.time ∧ (auditSeal s).coll = s.coll ∧ (auditSeal s).commit = s.commit ∧
      (auditSeal s).rsl = s.rsl ∧ (auditSeal s).eth = s.eth ∧ (auditSeal s).pwr = s.pwr ∧ (auditSeal s).mon = s.mon ∧
      (auditSeal s).outbox = s.outbox := by
  unfold auditSeal; (repeat' split) <;> simp [apply_ite]

@[simp] theorem countEv_keeps (s : State) (e : Ev) :
    (countEv s e).pending = s.pending ∧ (countEv s e).uptime = s.uptime ∧ (countEv s e).drawn = s.drawn ∧
      (countEv s e).cu = s.cu ∧ (countEv s e).seq = s.seq ∧ (countEv s e).mem = s.mem ∧ (countEv s e).stash = s.stash ∧
      (countEv s e).link = s.link ∧ (countEv s e).time = s.time ∧ (countEv s e).coll = s.coll ∧
      (countEv s e).commit = s.commit ∧ (countEv s e).rsl = s.rsl ∧ (countEv s e).eth = s.eth ∧ (countEv s e).sec = s.sec ∧
      (countEv s e).pwr = s.pwr ∧ (countEv s e).outbox = s.outbox := by
  unfold countEv; (repeat' split) <;> simp

@[simp] theorem markWord_keeps (s : State) (a : Nat) (b : Bool) :
    (markWord s a b).pending = s.pending ∧ (markWord s a b).uptime = s.uptime ∧ (markWord s a b).drawn = s.drawn ∧
      (markWord s a b).cu = s.cu ∧ (markWord s a b).seq = s.seq ∧ (markWord s a b).stash = s.stash ∧
      (markWord s a b).link = s.link ∧ (markWord s a b).time = s.time ∧ (markWord s a b).coll = s.coll ∧
      (markWord s a b).commit = s.commit ∧ (markWord s a b).rsl = s.rsl ∧ (markWord s a b).eth = s.eth ∧
      (markWord s a b).sec = s.sec ∧ (markWord s a b).pwr = s.pwr ∧ (markWord s a b).mon = s.mon ∧
      (markWord s a b).outbox = s.outbox := by
  unfold markWord; simp

@[simp] theorem freshen_keeps (s : State) (a n : Nat) :
    (freshen s a n).pending = s.pending ∧ (freshen s a n).uptime = s.uptime ∧ (freshen s a n).drawn = s.drawn ∧
      (freshen s a n).cu = s.cu ∧ (freshen s a n).seq = s.seq ∧ (freshen s a n).stash = s.stash ∧
      (freshen s a n).link = s.link ∧ (freshen s a n).time = s.time ∧ (freshen s a n).coll = s.coll ∧
      (freshen s a n).commit = s.commit ∧ (freshen s a n).rsl = s.rsl ∧ (freshen s a n).eth = s.eth ∧
      (freshen s a n).sec = s.sec ∧ (freshen s a n).pwr = s.pwr ∧ (freshen s a n).mon = s.mon ∧
      (freshen s a n).outbox = s.outbox := by
  unfold freshen; (repeat' split) <;> simp

@[simp] theorem writePhys_keeps (s : State) (a : Nat) (bs : List Byte) :
    (writePhys s a bs).pending = s.pending ∧ (writePhys s a bs).uptime = s.uptime ∧ (writePhys s a bs).drawn = s.drawn ∧
      (writePhys s a bs).cu = s.cu ∧ (writePhys s a bs).seq = s.seq ∧ (writePhys s a bs).stash = s.stash ∧
      (writePhys s a bs).link = s.link ∧ (writePhys s a bs).time = s.time ∧ (writePhys s a bs).coll = s.coll ∧
      (writePhys s a bs).commit = s.commit ∧ (writePhys s a bs).rsl = s.rsl ∧ (writePhys s a bs).eth = s.eth ∧
      (writePhys s a bs).sec = s.sec ∧ (writePhys s a bs).pwr = s.pwr ∧ (writePhys s a bs).mon = s.mon ∧
      (writePhys s a bs).outbox = s.outbox := by
  unfold writePhys; simp

@[simp] theorem writeMemFuel_keeps (n : Nat) (s : State) (a : Nat) (bs : List Byte) :
    (writeMemFuel n s a bs).pending = s.pending ∧ (writeMemFuel n s a bs).uptime = s.uptime ∧
      (writeMemFuel n s a bs).drawn = s.drawn ∧ (writeMemFuel n s a bs).cu = s.cu ∧ (writeMemFuel n s a bs).seq = s.seq ∧
      (writeMemFuel n s a bs).stash = s.stash ∧ (writeMemFuel n s a bs).link = s.link ∧
      (writeMemFuel n s a bs).time = s.time ∧ (writeMemFuel n s a bs).coll = s.coll ∧
      (writeMemFuel n s a bs).commit = s.commit ∧ (writeMemFuel n s a bs).rsl = s.rsl ∧ (writeMemFuel n s a bs).eth = s.eth ∧
      (writeMemFuel n s a bs).sec = s.sec ∧ (writeMemFuel n s a bs).pwr = s.pwr ∧ (writeMemFuel n s a bs).mon = s.mon ∧
      (writeMemFuel n s a bs).outbox = s.outbox := by
  induction n generalizing s a bs with
  | zero => simp [writeMemFuel]
  | succ n ih =>
    unfold writeMemFuel; split <;> simp [ih]

@[simp] theorem writeMem_keeps (s : State) (a : Nat) (bs : List Byte) :
    (writeMem s a bs).pending = s.pending ∧ (writeMem s a bs).uptime = s.uptime ∧ (writeMem s a bs).drawn = s.drawn ∧
      (writeMem s a bs).cu = s.cu ∧ (writeMem s a bs).seq = s.seq ∧ (writeMem s a bs).stash = s.stash ∧
      (writeMem s a bs).link = s.link ∧ (writeMem s a bs).time = s.time ∧ (writeMem s a bs).coll = s.coll ∧
      (writeMem s a bs).commit = s.commit ∧ (writeMem s a bs).rsl = s.rsl ∧ (writeMem s a bs).eth = s.eth ∧
      (writeMem s a bs).sec = s.sec ∧ (writeMem s a bs).pwr = s.pwr ∧ (writeMem s a bs).mon = s.mon ∧
      (writeMem s a bs).outbox = s.outbox := by
  unfold writeMem; simp

@[simp] theorem loadScaleSlot_keeps (s : State) (core n : Nat) :
    (loadScaleSlot s core n).pending = s.pending ∧ (loadScaleSlot s core n).uptime = s.uptime ∧
      (loadScaleSlot s core n).drawn = s.drawn ∧ (loadScaleSlot s core n).seq = s.seq ∧
      (loadScaleSlot s core n).mem = s.mem ∧ (loadScaleSlot s core n).stash = s.stash ∧
      (loadScaleSlot s core n).link = s.link ∧ (loadScaleSlot s core n).time = s.time ∧
      (loadScaleSlot s core n).coll = s.coll ∧ (loadScaleSlot s core n).commit = s.commit ∧
      (loadScaleSlot s core n).rsl = s.rsl ∧ (loadScaleSlot s core n).eth = s.eth ∧ (loadScaleSlot s core n).sec = s.sec ∧
      (loadScaleSlot s core n).pwr = s.pwr ∧ (loadScaleSlot s core n).mon = s.mon ∧
      (loadScaleSlot s core n).outbox = s.outbox := by
  unfold loadScaleSlot; (repeat' split) <;> simp

@[simp] theorem loadScaleSlots_keeps (s : State) :
    (loadScaleSlots s).pending = s.pending ∧ (loadScaleSlots s).uptime = s.uptime ∧ (loadScaleSlots s).drawn = s.drawn ∧
      (loadScaleSlots s).seq = s.seq ∧ (loadScaleSlots s).mem = s.mem ∧ (loadScaleSlots s).stash = s.stash ∧
      (loadScaleSlots s).link = s.link ∧ (loadScaleSlots s).time = s.time ∧ (loadScaleSlots s).coll = s.coll ∧
      (loadScaleSlots s).commit = s.commit ∧ (loadScaleSlots s).rsl = s.rsl ∧ (loadScaleSlots s).eth = s.eth ∧
      (loadScaleSlots s).sec = s.sec ∧ (loadScaleSlots s).pwr = s.pwr ∧ (loadScaleSlots s).mon = s.mon ∧
      (loadScaleSlots s).outbox = s.outbox := by
  unfold loadScaleSlots; simp

@[simp] theorem loadGenerators_keeps (s : State) (core : Nat) :
    (loadGenerators s core).pending = s.pending ∧ (loadGenerators s core).uptime = s.uptime ∧
      (loadGenerators s core).drawn = s.drawn ∧ (loadGenerators s core).seq = s.seq ∧ (loadGenerators s core).mem = s.mem ∧
      (loadGenerators s core).stash = s.stash ∧ (loadGenerators s core).link = s.link ∧
      (loadGenerators s core).time = s.time ∧ (loadGenerators s core).coll = s.coll ∧
      (loadGenerators s core).commit = s.commit ∧ (loadGenerators s core).rsl = s.rsl ∧ (loadGenerators s core).eth = s.eth ∧
      (loadGenerators s core).sec = s.sec ∧ (loadGenerators s core).pwr = s.pwr ∧ (loadGenerators s core).mon = s.mon ∧
      (loadGenerators s core).outbox = s.outbox := by
  unfold loadGenerators; simp

@[simp] theorem setPort_keeps (s : State) (p : Nat) (f : Port → Port) :
    (setPort s p f).pending = s.pending ∧ (setPort s p f).uptime = s.uptime ∧ (setPort s p f).drawn = s.drawn ∧
      (setPort s p f).cu = s.cu ∧ (setPort s p f).seq = s.seq ∧ (setPort s p f).mem = s.mem ∧
      (setPort s p f).stash = s.stash ∧ (setPort s p f).time = s.time ∧ (setPort s p f).coll = s.coll ∧
      (setPort s p f).commit = s.commit ∧ (setPort s p f).rsl = s.rsl ∧ (setPort s p f).eth = s.eth ∧
      (setPort s p f).sec = s.sec ∧ (setPort s p f).pwr = s.pwr ∧ (setPort s p f).mon = s.mon ∧
      (setPort s p f).outbox = s.outbox := by
  unfold setPort; simp

@[simp] theorem sendIdentity_keeps (s : State) (ps : List Nat) :
    (sendIdentity s ps).pending = s.pending ∧ (sendIdentity s ps).uptime = s.uptime ∧ (sendIdentity s ps).drawn = s.drawn ∧
      (sendIdentity s ps).cu = s.cu ∧ (sendIdentity s ps).seq = s.seq ∧ (sendIdentity s ps).mem = s.mem ∧
      (sendIdentity s ps).stash = s.stash ∧ (sendIdentity s ps).link = s.link ∧ (sendIdentity s ps).time = s.time ∧
      (sendIdentity s ps).coll = s.coll ∧ (sendIdentity s ps).commit = s.commit ∧ (sendIdentity s ps).rsl = s.rsl ∧
      (sendIdentity s ps).eth = s.eth ∧ (sendIdentity s ps).sec = s.sec ∧ (sendIdentity s ps).pwr = s.pwr ∧
      (sendIdentity s ps).mon = s.mon := by
  unfold sendIdentity; simp

@[simp] theorem leaveLink_keeps (s : State) (p : Nat) :
    (leaveLink s p).pending = s.pending ∧ (leaveLink s p).uptime = s.uptime ∧ (leaveLink s p).drawn = s.drawn ∧
      (leaveLink s p).cu = s.cu ∧ (leaveLink s p).seq = s.seq ∧ (leaveLink s p).mem = s.mem ∧
      (leaveLink s p).stash = s.stash ∧ (leaveLink s p).time = s.time ∧ (leaveLink s p).coll = s.coll ∧
      (leaveLink s p).commit = s.commit ∧ (leaveLink s p).rsl = s.rsl ∧ (leaveLink s p).eth = s.eth ∧
      (leaveLink s p).sec = s.sec ∧ (leaveLink s p).pwr = s.pwr ∧ (leaveLink s p).mon = s.mon ∧
      (leaveLink s p).outbox = s.outbox := by
  unfold leaveLink; (repeat' split) <;> simp

@[simp] theorem endRemap_keeps (s : State) (p : Nat) :
    (endRemap s p).pending = s.pending ∧ (endRemap s p).uptime = s.uptime ∧ (endRemap s p).drawn = s.drawn ∧
      (endRemap s p).cu = s.cu ∧ (endRemap s p).seq = s.seq ∧ (endRemap s p).mem = s.mem ∧ (endRemap s p).stash = s.stash ∧
      (endRemap s p).time = s.time ∧ (endRemap s p).coll = s.coll ∧ (endRemap s p).commit = s.commit ∧
      (endRemap s p).rsl = s.rsl ∧ (endRemap s p).eth = s.eth ∧ (endRemap s p).sec = s.sec ∧ (endRemap s p).pwr = s.pwr ∧
      (endRemap s p).mon = s.mon := by
  unfold endRemap; (repeat' split) <;> simp

@[simp] theorem enterTrain_keeps (s : State) (p : Nat) :
    (enterTrain s p).pending = s.pending ∧ (enterTrain s p).uptime = s.uptime ∧ (enterTrain s p).drawn = s.drawn ∧
      (enterTrain s p).cu = s.cu ∧ (enterTrain s p).seq = s.seq ∧ (enterTrain s p).mem = s.mem ∧
      (enterTrain s p).stash = s.stash ∧ (enterTrain s p).time = s.time ∧ (enterTrain s p).coll = s.coll ∧
      (enterTrain s p).commit = s.commit ∧ (enterTrain s p).rsl = s.rsl ∧ (enterTrain s p).eth = s.eth ∧
      (enterTrain s p).sec = s.sec ∧ (enterTrain s p).pwr = s.pwr ∧ (enterTrain s p).mon = s.mon := by
  unfold enterTrain; simp

@[simp] theorem takeDown_keeps (s : State) (p cause : Nat) :
    (takeDown s p cause).pending = s.pending ∧ (takeDown s p cause).uptime = s.uptime ∧
      (takeDown s p cause).drawn = s.drawn ∧ (takeDown s p cause).cu = s.cu ∧ (takeDown s p cause).seq = s.seq ∧
      (takeDown s p cause).mem = s.mem ∧ (takeDown s p cause).stash = s.stash ∧ (takeDown s p cause).time = s.time ∧
      (takeDown s p cause).coll = s.coll ∧ (takeDown s p cause).commit = s.commit ∧ (takeDown s p cause).rsl = s.rsl ∧
      (takeDown s p cause).eth = s.eth ∧ (takeDown s p cause).sec = s.sec ∧ (takeDown s p cause).pwr = s.pwr ∧
      (takeDown s p cause).mon = s.mon ∧ (takeDown s p cause).outbox = s.outbox := by
  unfold takeDown; simp

@[simp] theorem settlePort_keeps (s : State) (p : Nat) :
    (settlePort s p).pending = s.pending ∧ (settlePort s p).uptime = s.uptime ∧ (settlePort s p).drawn = s.drawn ∧
      (settlePort s p).cu = s.cu ∧ (settlePort s p).seq = s.seq ∧ (settlePort s p).mem = s.mem ∧
      (settlePort s p).stash = s.stash ∧ (settlePort s p).time = s.time ∧ (settlePort s p).coll = s.coll ∧
      (settlePort s p).commit = s.commit ∧ (settlePort s p).rsl = s.rsl ∧ (settlePort s p).sec = s.sec ∧
      (settlePort s p).pwr = s.pwr ∧ (settlePort s p).mon = s.mon ∧ (settlePort s p).outbox = s.outbox := by
  unfold settlePort; dsimp only; (repeat' split) <;> simp only [setPort_keeps, leaveLink_keeps, report_keeps, and_self
      ]

@[simp] theorem recheckPorts_keeps (s : State) :
    (recheckPorts s).pending = s.pending ∧ (recheckPorts s).uptime = s.uptime ∧ (recheckPorts s).drawn = s.drawn ∧
      (recheckPorts s).cu = s.cu ∧ (recheckPorts s).seq = s.seq ∧ (recheckPorts s).mem = s.mem ∧
      (recheckPorts s).stash = s.stash ∧ (recheckPorts s).time = s.time ∧ (recheckPorts s).coll = s.coll ∧
      (recheckPorts s).commit = s.commit ∧ (recheckPorts s).rsl = s.rsl ∧ (recheckPorts s).sec = s.sec ∧
      (recheckPorts s).pwr = s.pwr ∧ (recheckPorts s).mon = s.mon ∧ (recheckPorts s).outbox = s.outbox := by
  unfold recheckPorts; simp

@[simp] theorem leaseIdentity_keeps (s : State) :
    (leaseIdentity s).pending = s.pending ∧ (leaseIdentity s).uptime = s.uptime ∧ (leaseIdentity s).drawn = s.drawn ∧
      (leaseIdentity s).cu = s.cu ∧ (leaseIdentity s).seq = s.seq ∧ (leaseIdentity s).mem = s.mem ∧
      (leaseIdentity s).stash = s.stash ∧ (leaseIdentity s).time = s.time ∧ (leaseIdentity s).coll = s.coll ∧
      (leaseIdentity s).commit = s.commit ∧ (leaseIdentity s).rsl = s.rsl ∧ (leaseIdentity s).sec = s.sec ∧
      (leaseIdentity s).pwr = s.pwr ∧ (leaseIdentity s).mon = s.mon := by
  unfold leaseIdentity; simp

@[simp] theorem releaseChecked_keeps (s : State) :
    (releaseChecked s).pending = s.pending ∧ (releaseChecked s).uptime = s.uptime ∧ (releaseChecked s).drawn = s.drawn ∧
      (releaseChecked s).cu = s.cu ∧ (releaseChecked s).seq = s.seq ∧ (releaseChecked s).mem = s.mem ∧
      (releaseChecked s).stash = s.stash ∧ (releaseChecked s).time = s.time ∧ (releaseChecked s).coll = s.coll ∧
      (releaseChecked s).commit = s.commit ∧ (releaseChecked s).rsl = s.rsl ∧ (releaseChecked s).sec = s.sec ∧
      (releaseChecked s).pwr = s.pwr ∧ (releaseChecked s).mon = s.mon ∧ (releaseChecked s).outbox = s.outbox := by
  unfold releaseChecked; simp

@[simp] theorem putOut_keeps (s : State) (port : Nat) (p : Packet) :
    (putOut s port p).pending = s.pending ∧ (putOut s port p).uptime = s.uptime ∧ (putOut s port p).drawn = s.drawn ∧
      (putOut s port p).cu = s.cu ∧ (putOut s port p).seq = s.seq ∧ (putOut s port p).mem = s.mem ∧
      (putOut s port p).stash = s.stash ∧ (putOut s port p).link = s.link ∧ (putOut s port p).time = s.time ∧
      (putOut s port p).coll = s.coll ∧ (putOut s port p).commit = s.commit ∧ (putOut s port p).rsl = s.rsl ∧
      (putOut s port p).eth = s.eth ∧ (putOut s port p).sec = s.sec ∧ (putOut s port p).pwr = s.pwr := by
  unfold putOut; (repeat' split) <;> simp

@[simp] theorem sendNow_keeps (s : State) (port : Nat) (p0 : Packet) :
    (sendNow s port p0).pending = s.pending ∧ (sendNow s port p0).uptime = s.uptime ∧ (sendNow s port p0).drawn = s.drawn ∧
      (sendNow s port p0).cu = s.cu ∧ (sendNow s port p0).seq = s.seq ∧ (sendNow s port p0).mem = s.mem ∧
      (sendNow s port p0).stash = s.stash ∧ (sendNow s port p0).time = s.time ∧ (sendNow s port p0).coll = s.coll ∧
      (sendNow s port p0).commit = s.commit ∧ (sendNow s port p0).rsl = s.rsl ∧ (sendNow s port p0).eth = s.eth ∧
      (sendNow s port p0).sec = s.sec ∧ (sendNow s port p0).pwr = s.pwr := by
  unfold sendNow; (repeat' split) <;> simp

@[simp] theorem drainPort_keeps (x0 : Nat) (s : State) (x2 : Nat) :
    (drainPort x0 s x2).pending = s.pending ∧ (drainPort x0 s x2).uptime = s.uptime ∧ (drainPort x0 s x2).drawn = s.drawn ∧
      (drainPort x0 s x2).cu = s.cu ∧ (drainPort x0 s x2).seq = s.seq ∧ (drainPort x0 s x2).mem = s.mem ∧
      (drainPort x0 s x2).stash = s.stash ∧ (drainPort x0 s x2).time = s.time ∧ (drainPort x0 s x2).coll = s.coll ∧
      (drainPort x0 s x2).commit = s.commit ∧ (drainPort x0 s x2).rsl = s.rsl ∧ (drainPort x0 s x2).eth = s.eth ∧
      (drainPort x0 s x2).sec = s.sec ∧ (drainPort x0 s x2).pwr = s.pwr := by
  induction x0 generalizing s with
  | zero => simp [drainPort]
  | succ n ih => unfold drainPort; (repeat' split) <;> simp [ih]

@[simp] theorem transmit_keeps (s : State) (port : Nat) (p : Packet) :
    (transmit s port p).pending = s.pending ∧ (transmit s port p).uptime = s.uptime ∧ (transmit s port p).drawn = s.drawn ∧
      (transmit s port p).cu = s.cu ∧ (transmit s port p).seq = s.seq ∧ (transmit s port p).mem = s.mem ∧
      (transmit s port p).stash = s.stash ∧ (transmit s port p).time = s.time ∧ (transmit s port p).coll = s.coll ∧
      (transmit s port p).commit = s.commit ∧ (transmit s port p).rsl = s.rsl ∧ (transmit s port p).eth = s.eth ∧
      (transmit s port p).sec = s.sec ∧ (transmit s port p).pwr = s.pwr := by
  unfold transmit; (repeat' split) <;> simp [apply_ite]

@[simp] theorem takeAck_keeps (s : State) (port : Nat) (lseq : Word) :
    (takeAck s port lseq).pending = s.pending ∧ (takeAck s port lseq).uptime = s.uptime ∧
      (takeAck s port lseq).drawn = s.drawn ∧ (takeAck s port lseq).cu = s.cu ∧ (takeAck s port lseq).seq = s.seq ∧
      (takeAck s port lseq).mem = s.mem ∧ (takeAck s port lseq).stash = s.stash ∧ (takeAck s port lseq).time = s.time ∧
      (takeAck s port lseq).coll = s.coll ∧ (takeAck s port lseq).commit = s.commit ∧ (takeAck s port lseq).rsl = s.rsl ∧
      (takeAck s port lseq).eth = s.eth ∧ (takeAck s port lseq).sec = s.sec ∧ (takeAck s port lseq).pwr = s.pwr := by
  unfold takeAck; simp

@[simp] theorem drainPorts_keeps (s : State) :
    (drainPorts s).pending = s.pending ∧ (drainPorts s).uptime = s.uptime ∧ (drainPorts s).drawn = s.drawn ∧
      (drainPorts s).cu = s.cu ∧ (drainPorts s).seq = s.seq ∧ (drainPorts s).mem = s.mem ∧ (drainPorts s).stash = s.stash ∧
      (drainPorts s).time = s.time ∧ (drainPorts s).coll = s.coll ∧ (drainPorts s).commit = s.commit ∧
      (drainPorts s).rsl = s.rsl ∧ (drainPorts s).eth = s.eth ∧ (drainPorts s).sec = s.sec ∧ (drainPorts s).pwr = s.pwr := by
  unfold drainPorts; (repeat' split) <;> simp

@[simp] theorem dropPacket_keeps (s : State) :
    (dropPacket s).pending = s.pending ∧ (dropPacket s).uptime = s.uptime ∧ (dropPacket s).drawn = s.drawn ∧
      (dropPacket s).cu = s.cu ∧ (dropPacket s).seq = s.seq ∧ (dropPacket s).mem = s.mem ∧ (dropPacket s).stash = s.stash ∧
      (dropPacket s).time = s.time ∧ (dropPacket s).coll = s.coll ∧ (dropPacket s).commit = s.commit ∧
      (dropPacket s).rsl = s.rsl ∧ (dropPacket s).eth = s.eth ∧ (dropPacket s).sec = s.sec ∧ (dropPacket s).pwr = s.pwr ∧
      (dropPacket s).mon = s.mon ∧ (dropPacket s).outbox = s.outbox := by
  unfold dropPacket; simp

@[simp] theorem route_keeps (s : State) (p : Packet) :
    (route s p).pending = s.pending ∧ (route s p).uptime = s.uptime ∧ (route s p).drawn = s.drawn ∧ (route s p).cu = s.cu ∧
      (route s p).seq = s.seq ∧ (route s p).mem = s.mem ∧ (route s p).stash = s.stash ∧ (route s p).time = s.time ∧
      (route s p).coll = s.coll ∧ (route s p).commit = s.commit ∧ (route s p).rsl = s.rsl ∧ (route s p).eth = s.eth ∧
      (route s p).sec = s.sec ∧ (route s p).pwr = s.pwr := by
  unfold route; (repeat' split) <;> simp

@[simp] theorem rememberNotice_keeps (s : State) (n : Notice) :
    (rememberNotice s n).pending = s.pending ∧ (rememberNotice s n).uptime = s.uptime ∧
      (rememberNotice s n).drawn = s.drawn ∧ (rememberNotice s n).cu = s.cu ∧ (rememberNotice s n).seq = s.seq ∧
      (rememberNotice s n).mem = s.mem ∧ (rememberNotice s n).stash = s.stash ∧ (rememberNotice s n).time = s.time ∧
      (rememberNotice s n).coll = s.coll ∧ (rememberNotice s n).commit = s.commit ∧ (rememberNotice s n).rsl = s.rsl ∧
      (rememberNotice s n).eth = s.eth ∧ (rememberNotice s n).sec = s.sec ∧ (rememberNotice s n).pwr = s.pwr ∧
      (rememberNotice s n).mon = s.mon ∧ (rememberNotice s n).outbox = s.outbox := by
  unfold rememberNotice; simp

@[simp] theorem sendNotice_keeps (n : Notice) (s : State) (p : Nat) :
    (sendNotice n s p).pending = s.pending ∧ (sendNotice n s p).uptime = s.uptime ∧ (sendNotice n s p).drawn = s.drawn ∧
      (sendNotice n s p).cu = s.cu ∧ (sendNotice n s p).seq = s.seq ∧ (sendNotice n s p).mem = s.mem ∧
      (sendNotice n s p).stash = s.stash ∧ (sendNotice n s p).time = s.time ∧ (sendNotice n s p).coll = s.coll ∧
      (sendNotice n s p).commit = s.commit ∧ (sendNotice n s p).rsl = s.rsl ∧ (sendNotice n s p).eth = s.eth ∧
      (sendNotice n s p).sec = s.sec ∧ (sendNotice n s p).pwr = s.pwr := by
  unfold sendNotice; simp

@[simp] theorem floodNotice_keeps (s : State) (n : Notice) :
    (floodNotice s n).pending = s.pending ∧ (floodNotice s n).uptime = s.uptime ∧ (floodNotice s n).drawn = s.drawn ∧
      (floodNotice s n).cu = s.cu ∧ (floodNotice s n).seq = s.seq ∧ (floodNotice s n).mem = s.mem ∧
      (floodNotice s n).stash = s.stash ∧ (floodNotice s n).time = s.time ∧ (floodNotice s n).coll = s.coll ∧
      (floodNotice s n).commit = s.commit ∧ (floodNotice s n).rsl = s.rsl ∧ (floodNotice s n).eth = s.eth ∧
      (floodNotice s n).sec = s.sec ∧ (floodNotice s n).pwr = s.pwr := by
  unfold floodNotice; simp

@[simp] theorem portDown_keeps (s : State) (p cause : Nat) :
    (portDown s p cause).pending = s.pending ∧ (portDown s p cause).uptime = s.uptime ∧
      (portDown s p cause).drawn = s.drawn ∧ (portDown s p cause).cu = s.cu ∧ (portDown s p cause).seq = s.seq ∧
      (portDown s p cause).mem = s.mem ∧ (portDown s p cause).stash = s.stash ∧ (portDown s p cause).time = s.time ∧
      (portDown s p cause).coll = s.coll ∧ (portDown s p cause).commit = s.commit ∧ (portDown s p cause).rsl = s.rsl ∧
      (portDown s p cause).eth = s.eth ∧ (portDown s p cause).sec = s.sec ∧ (portDown s p cause).pwr = s.pwr := by
  unfold portDown; simp

@[simp] theorem changePort_keeps (new : List Byte) (s : State) (p : Nat) :
    (changePort new s p).pending = s.pending ∧ (changePort new s p).uptime = s.uptime ∧
      (changePort new s p).drawn = s.drawn ∧ (changePort new s p).cu = s.cu ∧ (changePort new s p).seq = s.seq ∧
      (changePort new s p).mem = s.mem ∧ (changePort new s p).stash = s.stash ∧ (changePort new s p).time = s.time ∧
      (changePort new s p).coll = s.coll ∧ (changePort new s p).commit = s.commit ∧ (changePort new s p).rsl = s.rsl ∧
      (changePort new s p).eth = s.eth ∧ (changePort new s p).sec = s.sec ∧ (changePort new s p).pwr = s.pwr := by
  unfold changePort; (repeat' split) <;> simp

@[simp] theorem applyTopology_keeps (s : State) (path : Path) (new : List Byte) :
    (applyTopology s path new).pending = s.pending ∧ (applyTopology s path new).uptime = s.uptime ∧
      (applyTopology s path new).drawn = s.drawn ∧ (applyTopology s path new).cu = s.cu ∧
      (applyTopology s path new).seq = s.seq ∧ (applyTopology s path new).mem = s.mem ∧
      (applyTopology s path new).stash = s.stash ∧ (applyTopology s path new).time = s.time ∧
      (applyTopology s path new).coll = s.coll ∧ (applyTopology s path new).commit = s.commit ∧
      (applyTopology s path new).rsl = s.rsl ∧ (applyTopology s path new).eth = s.eth ∧
      (applyTopology s path new).pwr = s.pwr := by
  unfold applyTopology; simp

@[simp] theorem applyWaiting_keeps (s : State) :
    (applyWaiting s).pending = s.pending ∧ (applyWaiting s).uptime = s.uptime ∧ (applyWaiting s).drawn = s.drawn ∧
      (applyWaiting s).cu = s.cu ∧ (applyWaiting s).seq = s.seq ∧ (applyWaiting s).mem = s.mem ∧
      (applyWaiting s).stash = s.stash ∧ (applyWaiting s).time = s.time ∧ (applyWaiting s).coll = s.coll ∧
      (applyWaiting s).commit = s.commit ∧ (applyWaiting s).rsl = s.rsl ∧ (applyWaiting s).eth = s.eth ∧
      (applyWaiting s).pwr = s.pwr := by
  unfold applyWaiting; (repeat' split) <;> simp

@[simp] theorem connect_keeps (s : State) (p : Peer) :
    (connect s p).pending = s.pending ∧ (connect s p).uptime = s.uptime ∧ (connect s p).drawn = s.drawn ∧
      (connect s p).cu = s.cu ∧ (connect s p).seq = s.seq ∧ (connect s p).mem = s.mem ∧ (connect s p).stash = s.stash ∧
      (connect s p).link = s.link ∧ (connect s p).time = s.time ∧ (connect s p).coll = s.coll ∧
      (connect s p).commit = s.commit ∧ (connect s p).rsl = s.rsl ∧ (connect s p).sec = s.sec ∧ (connect s p).pwr = s.pwr ∧
      (connect s p).mon = s.mon ∧ (connect s p).outbox = s.outbox := by
  unfold connect; (repeat' split) <;> simp

@[simp] theorem disconnect_keeps (s : State) (p : Peer) :
    (disconnect s p).pending = s.pending ∧ (disconnect s p).uptime = s.uptime ∧ (disconnect s p).drawn = s.drawn ∧
      (disconnect s p).cu = s.cu ∧ (disconnect s p).seq = s.seq ∧ (disconnect s p).mem = s.mem ∧
      (disconnect s p).stash = s.stash ∧ (disconnect s p).link = s.link ∧ (disconnect s p).time = s.time ∧
      (disconnect s p).coll = s.coll ∧ (disconnect s p).commit = s.commit ∧ (disconnect s p).rsl = s.rsl ∧
      (disconnect s p).sec = s.sec ∧ (disconnect s p).pwr = s.pwr ∧ (disconnect s p).mon = s.mon ∧
      (disconnect s p).outbox = s.outbox := by
  unfold disconnect; simp

@[simp] theorem answerMark_keeps (s : State) (p : Option Peer) (marked : Bool) :
    (answerMark s p marked).pending = s.pending ∧ (answerMark s p marked).uptime = s.uptime ∧
      (answerMark s p marked).drawn = s.drawn ∧ (answerMark s p marked).cu = s.cu ∧ (answerMark s p marked).seq = s.seq ∧
      (answerMark s p marked).mem = s.mem ∧ (answerMark s p marked).stash = s.stash ∧ (answerMark s p marked).link = s.link ∧
      (answerMark s p marked).time = s.time ∧ (answerMark s p marked).coll = s.coll ∧
      (answerMark s p marked).commit = s.commit ∧ (answerMark s p marked).rsl = s.rsl ∧ (answerMark s p marked).eth = s.eth ∧
      (answerMark s p marked).sec = s.sec ∧ (answerMark s p marked).pwr = s.pwr ∧ (answerMark s p marked).mon = s.mon := by
  unfold answerMark; (repeat' split) <;> simp

@[simp] theorem countFrame_keeps (s : State) :
    (countFrame s).pending = s.pending ∧ (countFrame s).uptime = s.uptime ∧ (countFrame s).drawn = s.drawn ∧
      (countFrame s).cu = s.cu ∧ (countFrame s).seq = s.seq ∧ (countFrame s).mem = s.mem ∧ (countFrame s).stash = s.stash ∧
      (countFrame s).link = s.link ∧ (countFrame s).time = s.time ∧ (countFrame s).coll = s.coll ∧
      (countFrame s).commit = s.commit ∧ (countFrame s).rsl = s.rsl ∧ (countFrame s).sec = s.sec ∧
      (countFrame s).pwr = s.pwr ∧ (countFrame s).mon = s.mon ∧ (countFrame s).outbox = s.outbox := by
  unfold countFrame; simp

@[simp] theorem sendCapsule_keeps (s : State) (p : Peer) (target : Nat) (c : Capsule) :
    (sendCapsule s p target c).pending = s.pending ∧ (sendCapsule s p target c).uptime = s.uptime ∧
      (sendCapsule s p target c).drawn = s.drawn ∧ (sendCapsule s p target c).cu = s.cu ∧
      (sendCapsule s p target c).seq = s.seq ∧ (sendCapsule s p target c).mem = s.mem ∧
      (sendCapsule s p target c).stash = s.stash ∧ (sendCapsule s p target c).link = s.link ∧
      (sendCapsule s p target c).time = s.time ∧ (sendCapsule s p target c).coll = s.coll ∧
      (sendCapsule s p target c).commit = s.commit ∧ (sendCapsule s p target c).rsl = s.rsl ∧
      (sendCapsule s p target c).eth = s.eth ∧ (sendCapsule s p target c).sec = s.sec ∧
      (sendCapsule s p target c).pwr = s.pwr ∧ (sendCapsule s p target c).mon = s.mon := by
  unfold sendCapsule; simp

@[simp] theorem connectQueue_keeps (s : State) (p : Peer) (target : Nat) :
    (connectQueue s p target).pending = s.pending ∧ (connectQueue s p target).uptime = s.uptime ∧
      (connectQueue s p target).drawn = s.drawn ∧ (connectQueue s p target).cu = s.cu ∧
      (connectQueue s p target).seq = s.seq ∧ (connectQueue s p target).mem = s.mem ∧
      (connectQueue s p target).stash = s.stash ∧ (connectQueue s p target).link = s.link ∧
      (connectQueue s p target).time = s.time ∧ (connectQueue s p target).coll = s.coll ∧
      (connectQueue s p target).commit = s.commit ∧ (connectQueue s p target).rsl = s.rsl ∧
      (connectQueue s p target).sec = s.sec ∧ (connectQueue s p target).pwr = s.pwr ∧ (connectQueue s p target).mon = s.mon := by
  unfold connectQueue; (repeat' split) <;> simp [apply_ite]

@[simp] theorem identify_keeps (s : State) (target ns : Nat) :
    (identify s target ns).pending = s.pending ∧ (identify s target ns).uptime = s.uptime ∧
      (identify s target ns).drawn = s.drawn ∧ (identify s target ns).cu = s.cu ∧ (identify s target ns).seq = s.seq ∧
      (identify s target ns).mem = s.mem ∧ (identify s target ns).stash = s.stash ∧ (identify s target ns).link = s.link ∧
      (identify s target ns).time = s.time ∧ (identify s target ns).coll = s.coll ∧
      (identify s target ns).commit = s.commit ∧ (identify s target ns).rsl = s.rsl ∧ (identify s target ns).sec = s.sec ∧
      (identify s target ns).pwr = s.pwr ∧ (identify s target ns).mon = s.mon := by
  unfold identify; (repeat' split) <;> simp

@[simp] theorem connectTo_keeps (s : State) (target ns : Nat) :
    (connectTo s target ns).pending = s.pending ∧ (connectTo s target ns).uptime = s.uptime ∧
      (connectTo s target ns).drawn = s.drawn ∧ (connectTo s target ns).cu = s.cu ∧ (connectTo s target ns).seq = s.seq ∧
      (connectTo s target ns).mem = s.mem ∧ (connectTo s target ns).stash = s.stash ∧ (connectTo s target ns).link = s.link ∧
      (connectTo s target ns).time = s.time ∧ (connectTo s target ns).coll = s.coll ∧
      (connectTo s target ns).commit = s.commit ∧ (connectTo s target ns).rsl = s.rsl ∧ (connectTo s target ns).sec = s.sec ∧
      (connectTo s target ns).pwr = s.pwr ∧ (connectTo s target ns).mon = s.mon := by
  unfold connectTo; (repeat' split) <;> simp

@[simp] theorem keepAlive_keeps (s : State) :
    (keepAlive s).pending = s.pending ∧ (keepAlive s).uptime = s.uptime ∧ (keepAlive s).drawn = s.drawn ∧
      (keepAlive s).cu = s.cu ∧ (keepAlive s).seq = s.seq ∧ (keepAlive s).mem = s.mem ∧ (keepAlive s).stash = s.stash ∧
      (keepAlive s).link = s.link ∧ (keepAlive s).time = s.time ∧ (keepAlive s).coll = s.coll ∧
      (keepAlive s).commit = s.commit ∧ (keepAlive s).rsl = s.rsl ∧ (keepAlive s).eth = s.eth ∧ (keepAlive s).sec = s.sec ∧
      (keepAlive s).pwr = s.pwr ∧ (keepAlive s).mon = s.mon := by
  unfold keepAlive; simp

@[simp] theorem setTransfer_keeps (s : State) (id : Nat) (f : Pending → Pending) :
    (setTransfer s id f).pending = s.pending ∧ (setTransfer s id f).uptime = s.uptime ∧
      (setTransfer s id f).drawn = s.drawn ∧ (setTransfer s id f).cu = s.cu ∧ (setTransfer s id f).seq = s.seq ∧
      (setTransfer s id f).mem = s.mem ∧ (setTransfer s id f).stash = s.stash ∧ (setTransfer s id f).link = s.link ∧
      (setTransfer s id f).time = s.time ∧ (setTransfer s id f).coll = s.coll ∧ (setTransfer s id f).commit = s.commit ∧
      (setTransfer s id f).rsl = s.rsl ∧ (setTransfer s id f).sec = s.sec ∧ (setTransfer s id f).pwr = s.pwr ∧
      (setTransfer s id f).mon = s.mon ∧ (setTransfer s id f).outbox = s.outbox := by
  unfold setTransfer; simp

@[simp] theorem setReach_keeps (s : State) (target : Nat) (up : Bool) :
    (setReach s target up).pending = s.pending ∧ (setReach s target up).uptime = s.uptime ∧
      (setReach s target up).drawn = s.drawn ∧ (setReach s target up).cu = s.cu ∧ (setReach s target up).seq = s.seq ∧
      (setReach s target up).mem = s.mem ∧ (setReach s target up).stash = s.stash ∧ (setReach s target up).link = s.link ∧
      (setReach s target up).time = s.time ∧ (setReach s target up).coll = s.coll ∧
      (setReach s target up).commit = s.commit ∧ (setReach s target up).rsl = s.rsl ∧ (setReach s target up).sec = s.sec ∧
      (setReach s target up).pwr = s.pwr ∧ (setReach s target up).mon = s.mon ∧ (setReach s target up).outbox = s.outbox := by
  unfold setReach; (repeat' split) <;> simp

@[simp] theorem park_keeps (s : State) (t : Pending) :
    (park s t).pending = s.pending ∧ (park s t).uptime = s.uptime ∧ (park s t).drawn = s.drawn ∧ (park s t).cu = s.cu ∧
      (park s t).seq = s.seq ∧ (park s t).mem = s.mem ∧ (park s t).stash = s.stash ∧ (park s t).link = s.link ∧
      (park s t).time = s.time ∧ (park s t).coll = s.coll ∧ (park s t).commit = s.commit ∧ (park s t).rsl = s.rsl ∧
      (park s t).sec = s.sec ∧ (park s t).pwr = s.pwr ∧ (park s t).mon = s.mon ∧ (park s t).outbox = s.outbox := by
  unfold park; simp

@[simp] theorem issueTransfer_keeps (s : State) (t : Pending) :
    (issueTransfer s t).pending = s.pending ∧ (issueTransfer s t).uptime = s.uptime ∧ (issueTransfer s t).drawn = s.drawn ∧
      (issueTransfer s t).cu = s.cu ∧ (issueTransfer s t).seq = s.seq ∧ (issueTransfer s t).mem = s.mem ∧
      (issueTransfer s t).stash = s.stash ∧ (issueTransfer s t).link = s.link ∧ (issueTransfer s t).time = s.time ∧
      (issueTransfer s t).coll = s.coll ∧ (issueTransfer s t).commit = s.commit ∧ (issueTransfer s t).rsl = s.rsl ∧
      (issueTransfer s t).sec = s.sec ∧ (issueTransfer s t).pwr = s.pwr ∧ (issueTransfer s t).mon = s.mon := by
  unfold issueTransfer; (repeat' split) <;> simp

@[simp] theorem startTransfer_keeps (s : State) (target : Nat) (use : TransferUse) (addr : Nat) (bytes : List Byte) :
    (startTransfer s target use addr bytes).pending = s.pending ∧ (startTransfer s target use addr bytes).uptime = s.uptime ∧
      (startTransfer s target use addr bytes).drawn = s.drawn ∧ (startTransfer s target use addr bytes).cu = s.cu ∧
      (startTransfer s target use addr bytes).seq = s.seq ∧ (startTransfer s target use addr bytes).mem = s.mem ∧
      (startTransfer s target use addr bytes).stash = s.stash ∧ (startTransfer s target use addr bytes).link = s.link ∧
      (startTransfer s target use addr bytes).time = s.time ∧ (startTransfer s target use addr bytes).coll = s.coll ∧
      (startTransfer s target use addr bytes).commit = s.commit ∧ (startTransfer s target use addr bytes).rsl = s.rsl ∧
      (startTransfer s target use addr bytes).sec = s.sec ∧ (startTransfer s target use addr bytes).pwr = s.pwr ∧
      (startTransfer s target use addr bytes).mon = s.mon := by
  unfold startTransfer; (repeat' split) <;> simp [apply_ite]

@[simp] theorem refreshRails_keeps (s : State) :
    (refreshRails s).pending = s.pending ∧ (refreshRails s).uptime = s.uptime ∧ (refreshRails s).drawn = s.drawn ∧
      (refreshRails s).cu = s.cu ∧ (refreshRails s).seq = s.seq ∧ (refreshRails s).mem = s.mem ∧
      (refreshRails s).stash = s.stash ∧ (refreshRails s).link = s.link ∧ (refreshRails s).time = s.time ∧
      (refreshRails s).coll = s.coll ∧ (refreshRails s).commit = s.commit ∧ (refreshRails s).rsl = s.rsl ∧
      (refreshRails s).eth = s.eth ∧ (refreshRails s).sec = s.sec ∧ (refreshRails s).mon = s.mon ∧
      (refreshRails s).outbox = s.outbox := by
  unfold refreshRails; simp

@[simp] theorem railTick_keeps (s : State) :
    (railTick s).pending = s.pending ∧ (railTick s).uptime = s.uptime ∧ (railTick s).drawn = s.drawn ∧
      (railTick s).cu = s.cu ∧ (railTick s).seq = s.seq ∧ (railTick s).mem = s.mem ∧ (railTick s).stash = s.stash ∧
      (railTick s).link = s.link ∧ (railTick s).time = s.time ∧ (railTick s).coll = s.coll ∧ (railTick s).commit = s.commit ∧
      (railTick s).rsl = s.rsl ∧ (railTick s).eth = s.eth ∧ (railTick s).sec = s.sec ∧ (railTick s).mon = s.mon ∧
      (railTick s).outbox = s.outbox := by
  unfold railTick; dsimp only; (repeat' split) <;> simp only [refreshRails_keeps, and_self]

@[simp] theorem writeSample_keeps (s : State) (x : Sample) (done lat holds flags : Nat) :
    (writeSample s x done lat holds flags).pending = s.pending ∧ (writeSample s x done lat holds flags).uptime = s.uptime ∧
      (writeSample s x done lat holds flags).drawn = s.drawn ∧ (writeSample s x done lat holds flags).cu = s.cu ∧
      (writeSample s x done lat holds flags).seq = s.seq ∧ (writeSample s x done lat holds flags).mem = s.mem ∧
      (writeSample s x done lat holds flags).stash = s.stash ∧ (writeSample s x done lat holds flags).link = s.link ∧
      (writeSample s x done lat holds flags).time = s.time ∧ (writeSample s x done lat holds flags).coll = s.coll ∧
      (writeSample s x done lat holds flags).commit = s.commit ∧ (writeSample s x done lat holds flags).rsl = s.rsl ∧
      (writeSample s x done lat holds flags).eth = s.eth ∧ (writeSample s x done lat holds flags).sec = s.sec ∧
      (writeSample s x done lat holds flags).pwr = s.pwr ∧ (writeSample s x done lat holds flags).outbox = s.outbox := by
  unfold writeSample; (repeat' split) <;> simp [apply_ite]

@[simp] theorem finishSample_keeps (s : State) (x : Sample) (done early : Nat) :
    (finishSample s x done early).pending = s.pending ∧ (finishSample s x done early).uptime = s.uptime ∧
      (finishSample s x done early).drawn = s.drawn ∧ (finishSample s x done early).cu = s.cu ∧
      (finishSample s x done early).seq = s.seq ∧ (finishSample s x done early).mem = s.mem ∧
      (finishSample s x done early).stash = s.stash ∧ (finishSample s x done early).link = s.link ∧
      (finishSample s x done early).time = s.time ∧ (finishSample s x done early).coll = s.coll ∧
      (finishSample s x done early).commit = s.commit ∧ (finishSample s x done early).rsl = s.rsl ∧
      (finishSample s x done early).eth = s.eth ∧ (finishSample s x done early).sec = s.sec ∧
      (finishSample s x done early).pwr = s.pwr ∧ (finishSample s x done early).outbox = s.outbox := by
  unfold finishSample; simp

@[simp] theorem cancelSamples_keeps (s : State) :
    (cancelSamples s).pending = s.pending ∧ (cancelSamples s).uptime = s.uptime ∧ (cancelSamples s).drawn = s.drawn ∧
      (cancelSamples s).cu = s.cu ∧ (cancelSamples s).seq = s.seq ∧ (cancelSamples s).mem = s.mem ∧
      (cancelSamples s).stash = s.stash ∧ (cancelSamples s).link = s.link ∧ (cancelSamples s).time = s.time ∧
      (cancelSamples s).coll = s.coll ∧ (cancelSamples s).commit = s.commit ∧ (cancelSamples s).rsl = s.rsl ∧
      (cancelSamples s).eth = s.eth ∧ (cancelSamples s).sec = s.sec ∧ (cancelSamples s).pwr = s.pwr ∧
      (cancelSamples s).outbox = s.outbox := by
  unfold cancelSamples; simp

@[simp] theorem dropElastic_keeps (s : State) :
    (dropElastic s).pending = s.pending ∧ (dropElastic s).uptime = s.uptime ∧ (dropElastic s).drawn = s.drawn ∧
      (dropElastic s).seq = s.seq ∧ (dropElastic s).link = s.link ∧ (dropElastic s).time = s.time ∧
      (dropElastic s).rsl = s.rsl ∧ (dropElastic s).eth = s.eth ∧ (dropElastic s).sec = s.sec ∧ (dropElastic s).pwr = s.pwr ∧
      (dropElastic s).mon = s.mon ∧ (dropElastic s).outbox = s.outbox := by
  unfold dropElastic; simp

@[simp] theorem cancelElastic_keeps (s : State) :
    (cancelElastic s).pending = s.pending ∧ (cancelElastic s).uptime = s.uptime ∧ (cancelElastic s).drawn = s.drawn ∧
      (cancelElastic s).seq = s.seq ∧ (cancelElastic s).link = s.link ∧ (cancelElastic s).time = s.time ∧
      (cancelElastic s).rsl = s.rsl ∧ (cancelElastic s).eth = s.eth ∧ (cancelElastic s).sec = s.sec ∧
      (cancelElastic s).pwr = s.pwr ∧ (cancelElastic s).outbox = s.outbox := by
  unfold cancelElastic; simp

@[simp] theorem elasticIssue_keeps (s t : State) :
    (elasticIssue s t).pending = t.pending ∧ (elasticIssue s t).uptime = t.uptime ∧ (elasticIssue s t).drawn = t.drawn ∧
      (elasticIssue s t).seq = t.seq ∧ (elasticIssue s t).link = t.link ∧ (elasticIssue s t).time = t.time ∧
      (elasticIssue s t).rsl = t.rsl ∧ (elasticIssue s t).eth = t.eth ∧ (elasticIssue s t).sec = t.sec ∧
      (elasticIssue s t).pwr = t.pwr ∧ (elasticIssue s t).mon = t.mon ∧ (elasticIssue s t).outbox = t.outbox := by
  unfold elasticIssue; split <;> simp

@[simp] theorem dropStep_keeps (s : State) :
    (dropStep s).pending = s.pending ∧ (dropStep s).uptime = s.uptime ∧ (dropStep s).drawn = s.drawn ∧
      (dropStep s).link = s.link ∧ (dropStep s).time = s.time ∧ (dropStep s).eth = s.eth ∧ (dropStep s).sec = s.sec ∧
      (dropStep s).pwr = s.pwr ∧ (dropStep s).outbox = s.outbox := by
  unfold dropStep; simp

@[simp] theorem abandonStep_keeps (s : State) (cause : Nat) :
    (abandonStep s cause).pending = s.pending ∧ (abandonStep s cause).uptime = s.uptime ∧
      (abandonStep s cause).drawn = s.drawn ∧ (abandonStep s cause).time = s.time ∧ (abandonStep s cause).pwr = s.pwr := by
  unfold abandonStep; (repeat' split) <;> simp

@[simp] theorem abandonForRelease_keeps (s : State) :
    (abandonForRelease s).pending = s.pending ∧ (abandonForRelease s).uptime = s.uptime ∧
      (abandonForRelease s).drawn = s.drawn ∧ (abandonForRelease s).time = s.time ∧ (abandonForRelease s).eth = s.eth ∧
      (abandonForRelease s).sec = s.sec ∧ (abandonForRelease s).pwr = s.pwr := by
  unfold abandonForRelease; (repeat' split) <;> simp

@[simp] theorem portLost_keeps (s : State) (p cause : Nat) :
    (portLost s p cause).pending = s.pending ∧ (portLost s p cause).uptime = s.uptime ∧
      (portLost s p cause).drawn = s.drawn ∧ (portLost s p cause).time = s.time ∧ (portLost s p cause).pwr = s.pwr := by
  unfold portLost; (repeat' split) <;> simp

@[simp] theorem setPosition_keeps (s : State) (p : Nat) (f : Position → Position) :
    (setPosition s p f).pending = s.pending ∧ (setPosition s p f).uptime = s.uptime ∧ (setPosition s p f).drawn = s.drawn ∧
      (setPosition s p f).cu = s.cu ∧ (setPosition s p f).seq = s.seq ∧ (setPosition s p f).mem = s.mem ∧
      (setPosition s p f).stash = s.stash ∧ (setPosition s p f).link = s.link ∧ (setPosition s p f).time = s.time ∧
      (setPosition s p f).coll = s.coll ∧ (setPosition s p f).commit = s.commit ∧ (setPosition s p f).rsl = s.rsl ∧
      (setPosition s p f).eth = s.eth ∧ (setPosition s p f).sec = s.sec ∧ (setPosition s p f).mon = s.mon ∧
      (setPosition s p f).outbox = s.outbox := by
  unfold setPosition; simp

@[simp] theorem zeroCore_keeps (s : State) (core : Nat) :
    (zeroCore s core).pending = s.pending ∧ (zeroCore s core).uptime = s.uptime ∧ (zeroCore s core).drawn = s.drawn ∧
      (zeroCore s core).seq = s.seq ∧ (zeroCore s core).mem = s.mem ∧ (zeroCore s core).stash = s.stash ∧
      (zeroCore s core).link = s.link ∧ (zeroCore s core).time = s.time ∧ (zeroCore s core).coll = s.coll ∧
      (zeroCore s core).commit = s.commit ∧ (zeroCore s core).rsl = s.rsl ∧ (zeroCore s core).eth = s.eth ∧
      (zeroCore s core).sec = s.sec ∧ (zeroCore s core).pwr = s.pwr ∧ (zeroCore s core).mon = s.mon ∧
      (zeroCore s core).outbox = s.outbox := by
  unfold zeroCore; simp

@[simp] theorem lateTags_keeps (s : State) (core : Nat) :
    (lateTags s core).pending = s.pending ∧ (lateTags s core).uptime = s.uptime ∧ (lateTags s core).drawn = s.drawn ∧
      (lateTags s core).cu = s.cu ∧ (lateTags s core).seq = s.seq ∧ (lateTags s core).stash = s.stash ∧
      (lateTags s core).link = s.link ∧ (lateTags s core).time = s.time ∧ (lateTags s core).coll = s.coll ∧
      (lateTags s core).commit = s.commit ∧ (lateTags s core).rsl = s.rsl ∧ (lateTags s core).eth = s.eth ∧
      (lateTags s core).sec = s.sec ∧ (lateTags s core).pwr = s.pwr ∧ (lateTags s core).mon = s.mon ∧
      (lateTags s core).outbox = s.outbox := by
  unfold lateTags; simp

@[simp] theorem dropStreams_keeps (s : State) (core : Nat) :
    (dropStreams s core).pending = s.pending ∧ (dropStreams s core).uptime = s.uptime ∧
      (dropStreams s core).drawn = s.drawn ∧ (dropStreams s core).seq = s.seq ∧ (dropStreams s core).stash = s.stash ∧
      (dropStreams s core).link = s.link ∧ (dropStreams s core).time = s.time ∧ (dropStreams s core).coll = s.coll ∧
      (dropStreams s core).commit = s.commit ∧ (dropStreams s core).rsl = s.rsl ∧ (dropStreams s core).eth = s.eth ∧
      (dropStreams s core).sec = s.sec ∧ (dropStreams s core).pwr = s.pwr ∧ (dropStreams s core).mon = s.mon ∧
      (dropStreams s core).outbox = s.outbox := by
  unfold dropStreams; simp

@[simp] theorem stopChip_keeps (s : State) :
    (stopChip s).pending = s.pending ∧ (stopChip s).uptime = s.uptime ∧ (stopChip s).drawn = s.drawn ∧
      (stopChip s).mem = s.mem ∧ (stopChip s).stash = s.stash ∧ (stopChip s).link = s.link ∧ (stopChip s).time = s.time ∧
      (stopChip s).coll = s.coll ∧ (stopChip s).commit = s.commit ∧ (stopChip s).rsl = s.rsl ∧ (stopChip s).eth = s.eth ∧
      (stopChip s).sec = s.sec ∧ (stopChip s).pwr = s.pwr ∧ (stopChip s).mon = s.mon ∧ (stopChip s).outbox = s.outbox := by
  unfold stopChip; (repeat' split) <;> simp

set_option maxRecDepth 20000 in
@[simp] theorem fencePosition_keeps (s : State) (p cause : Nat) :
    (fencePosition s p cause).pending = s.pending ∧ (fencePosition s p cause).uptime = s.uptime ∧
      (fencePosition s p cause).drawn = s.drawn ∧ (fencePosition s p cause).time = s.time := by
  unfold fencePosition; dsimp only
  repeat' split
  all_goals simp only [report_keeps, setPosition_keeps, dropStreams_keeps, zeroCore_keeps, abandonStep_keeps,
      stopChip_keeps, lateTags_keeps, and_self]

@[simp] theorem sramError_keeps (s : State) (core : Nat) (ecc : Ecc) :
    (sramError s core ecc).pending = s.pending ∧ (sramError s core ecc).uptime = s.uptime ∧
      (sramError s core ecc).drawn = s.drawn ∧ (sramError s core ecc).time = s.time := by
  unfold sramError; dsimp only; (repeat' split) <;> simp only [setPosition_keeps, abandonStep_keeps, lateTags_keeps,
      fencePosition_keeps, and_self]

@[simp] theorem setDomains_keeps (s : State) (d : BitVec 40) :
    (setDomains s d).pending = s.pending ∧ (setDomains s d).uptime = s.uptime ∧ (setDomains s d).drawn = s.drawn ∧
      (setDomains s d).cu = s.cu ∧ (setDomains s d).seq = s.seq ∧ (setDomains s d).mem = s.mem ∧
      (setDomains s d).stash = s.stash ∧ (setDomains s d).link = s.link ∧ (setDomains s d).time = s.time ∧
      (setDomains s d).coll = s.coll ∧ (setDomains s d).commit = s.commit ∧ (setDomains s d).rsl = s.rsl ∧
      (setDomains s d).eth = s.eth ∧ (setDomains s d).sec = s.sec ∧ (setDomains s d).mon = s.mon ∧
      (setDomains s d).outbox = s.outbox := by
  unfold setDomains; simp

@[simp] theorem discardJob_keeps (s : State) :
    (discardJob s).pending = s.pending ∧ (discardJob s).uptime = s.uptime ∧ (discardJob s).drawn = s.drawn ∧
      (discardJob s).link = s.link ∧ (discardJob s).eth = s.eth ∧ (discardJob s).sec = s.sec ∧ (discardJob s).pwr = s.pwr ∧
      (discardJob s).outbox = s.outbox := by
  unfold discardJob; simp

@[simp] theorem coresOff_keeps (s : State) :
    (coresOff s).pending = s.pending ∧ (coresOff s).uptime = s.uptime ∧ (coresOff s).drawn = s.drawn ∧
      (coresOff s).cu = s.cu ∧ (coresOff s).seq = s.seq ∧ (coresOff s).mem = s.mem ∧ (coresOff s).stash = s.stash ∧
      (coresOff s).link = s.link ∧ (coresOff s).time = s.time ∧ (coresOff s).coll = s.coll ∧ (coresOff s).commit = s.commit ∧
      (coresOff s).rsl = s.rsl ∧ (coresOff s).eth = s.eth ∧ (coresOff s).sec = s.sec ∧ (coresOff s).mon = s.mon ∧
      (coresOff s).outbox = s.outbox := by
  unfold coresOff; (repeat' split) <;> simp

@[simp] theorem releaseLease_keeps (s : State) (lost : Bool) :
    (releaseLease s lost).pending = s.pending ∧ (releaseLease s lost).uptime = s.uptime ∧
      (releaseLease s lost).drawn = s.drawn := by
  unfold releaseLease; (repeat' split) <;> simp

@[simp] theorem advanceDraw_keeps (s : State) (core slot n0 nmax : Nat) :
    (advanceDraw s core slot n0 nmax).pending = s.pending ∧ (advanceDraw s core slot n0 nmax).uptime = s.uptime ∧
      (advanceDraw s core slot n0 nmax).drawn = s.drawn ∧ (advanceDraw s core slot n0 nmax).seq = s.seq ∧
      (advanceDraw s core slot n0 nmax).mem = s.mem ∧ (advanceDraw s core slot n0 nmax).stash = s.stash ∧
      (advanceDraw s core slot n0 nmax).link = s.link ∧ (advanceDraw s core slot n0 nmax).time = s.time ∧
      (advanceDraw s core slot n0 nmax).coll = s.coll ∧ (advanceDraw s core slot n0 nmax).commit = s.commit ∧
      (advanceDraw s core slot n0 nmax).rsl = s.rsl ∧ (advanceDraw s core slot n0 nmax).eth = s.eth ∧
      (advanceDraw s core slot n0 nmax).sec = s.sec ∧ (advanceDraw s core slot n0 nmax).pwr = s.pwr ∧
      (advanceDraw s core slot n0 nmax).mon = s.mon ∧ (advanceDraw s core slot n0 nmax).outbox = s.outbox := by
  unfold advanceDraw; (repeat' split) <;> simp [apply_ite]

@[simp] theorem raisePending_keeps (s : State) (core n mag : Nat) :
    (raisePending s core n mag).pending = s.pending ∧ (raisePending s core n mag).uptime = s.uptime ∧
      (raisePending s core n mag).drawn = s.drawn ∧ (raisePending s core n mag).seq = s.seq ∧
      (raisePending s core n mag).mem = s.mem ∧ (raisePending s core n mag).stash = s.stash ∧
      (raisePending s core n mag).link = s.link ∧ (raisePending s core n mag).time = s.time ∧
      (raisePending s core n mag).coll = s.coll ∧ (raisePending s core n mag).commit = s.commit ∧
      (raisePending s core n mag).rsl = s.rsl ∧ (raisePending s core n mag).eth = s.eth ∧
      (raisePending s core n mag).sec = s.sec ∧ (raisePending s core n mag).pwr = s.pwr ∧
      (raisePending s core n mag).mon = s.mon ∧ (raisePending s core n mag).outbox = s.outbox := by
  unfold raisePending; (repeat' split) <;> simp

@[simp] theorem raiseFault_keeps (s : State) (o : Origin) (f : Flt) :
    (raiseFault s o f).pending = s.pending ∧ (raiseFault s o f).uptime = s.uptime ∧ (raiseFault s o f).drawn = s.drawn ∧
      (raiseFault s o f).time = s.time ∧ (raiseFault s o f).pwr = s.pwr := by
  unfold raiseFault; (repeat' split) <;> simp

@[simp] theorem sampleOp_keeps (s : State) (x : Sample) (bit : Nat) (ends : SampleEnd) :
    (sampleOp s x bit ends).pending = s.pending ∧ (sampleOp s x bit ends).uptime = s.uptime ∧
      (sampleOp s x bit ends).drawn = s.drawn ∧ (sampleOp s x bit ends).cu = s.cu ∧ (sampleOp s x bit ends).seq = s.seq ∧
      (sampleOp s x bit ends).mem = s.mem ∧ (sampleOp s x bit ends).stash = s.stash ∧ (sampleOp s x bit ends).link = s.link ∧
      (sampleOp s x bit ends).time = s.time ∧ (sampleOp s x bit ends).coll = s.coll ∧
      (sampleOp s x bit ends).commit = s.commit ∧ (sampleOp s x bit ends).rsl = s.rsl ∧ (sampleOp s x bit ends).eth = s.eth ∧
      (sampleOp s x bit ends).sec = s.sec ∧ (sampleOp s x bit ends).pwr = s.pwr ∧ (sampleOp s x bit ends).outbox = s.outbox := by
  unfold sampleOp; dsimp only
  repeat' split
  all_goals simp only [writeSample_keeps, and_self]

set_option maxRecDepth 20000 in
@[simp] theorem noteCoreOp_keeps (s0 s : State) (op : CoreOp) (faulted : Bool) :
    (noteCoreOp s0 s op faulted).pending = s.pending ∧ (noteCoreOp s0 s op faulted).uptime = s.uptime ∧
      (noteCoreOp s0 s op faulted).drawn = s.drawn ∧ (noteCoreOp s0 s op faulted).cu = s.cu ∧
      (noteCoreOp s0 s op faulted).seq = s.seq ∧ (noteCoreOp s0 s op faulted).mem = s.mem ∧
      (noteCoreOp s0 s op faulted).stash = s.stash ∧ (noteCoreOp s0 s op faulted).link = s.link ∧
      (noteCoreOp s0 s op faulted).time = s.time ∧ (noteCoreOp s0 s op faulted).coll = s.coll ∧
      (noteCoreOp s0 s op faulted).commit = s.commit ∧ (noteCoreOp s0 s op faulted).rsl = s.rsl ∧
      (noteCoreOp s0 s op faulted).eth = s.eth ∧ (noteCoreOp s0 s op faulted).sec = s.sec ∧
      (noteCoreOp s0 s op faulted).pwr = s.pwr ∧ (noteCoreOp s0 s op faulted).outbox = s.outbox := by
  unfold noteCoreOp; dsimp only
  repeat' split
  all_goals first | (and_intros <;> rfl) | simp only [sampleOp_keeps, countEv_keeps, and_self]

@[simp] theorem finishOp_keeps (s : State) (core slot issue done : Nat) :
    (finishOp s core slot issue done).pending = s.pending ∧ (finishOp s core slot issue done).uptime = s.uptime ∧
      (finishOp s core slot issue done).drawn = s.drawn ∧ (finishOp s core slot issue done).cu = s.cu ∧
      (finishOp s core slot issue done).seq = s.seq ∧ (finishOp s core slot issue done).mem = s.mem ∧
      (finishOp s core slot issue done).stash = s.stash ∧ (finishOp s core slot issue done).link = s.link ∧
      (finishOp s core slot issue done).time = s.time ∧ (finishOp s core slot issue done).coll = s.coll ∧
      (finishOp s core slot issue done).commit = s.commit ∧ (finishOp s core slot issue done).rsl = s.rsl ∧
      (finishOp s core slot issue done).eth = s.eth ∧ (finishOp s core slot issue done).sec = s.sec ∧
      (finishOp s core slot issue done).pwr = s.pwr ∧ (finishOp s core slot issue done).outbox = s.outbox := by
  unfold finishOp; (repeat' split) <;> simp

@[simp] theorem finishRegion_keeps (s : State) (core region : Nat) (elastic : Bool) (done early : Nat) :
    (finishRegion s core region elastic done early).pending = s.pending ∧
      (finishRegion s core region elastic done early).uptime = s.uptime ∧
      (finishRegion s core region elastic done early).drawn = s.drawn ∧
      (finishRegion s core region elastic done early).cu = s.cu ∧
      (finishRegion s core region elastic done early).seq = s.seq ∧
      (finishRegion s core region elastic done early).mem = s.mem ∧
      (finishRegion s core region elastic done early).stash = s.stash ∧
      (finishRegion s core region elastic done early).link = s.link ∧
      (finishRegion s core region elastic done early).time = s.time ∧
      (finishRegion s core region elastic done early).coll = s.coll ∧
      (finishRegion s core region elastic done early).commit = s.commit ∧
      (finishRegion s core region elastic done early).rsl = s.rsl ∧
      (finishRegion s core region elastic done early).eth = s.eth ∧
      (finishRegion s core region elastic done early).sec = s.sec ∧
      (finishRegion s core region elastic done early).pwr = s.pwr ∧
      (finishRegion s core region elastic done early).outbox = s.outbox := by
  unfold finishRegion; (repeat' split) <;> simp

@[simp] theorem finishLaunch_keeps (s : State) (opcode desc : Nat) :
    (finishLaunch s opcode desc).pending = s.pending ∧ (finishLaunch s opcode desc).uptime = s.uptime ∧
      (finishLaunch s opcode desc).drawn = s.drawn ∧ (finishLaunch s opcode desc).cu = s.cu ∧
      (finishLaunch s opcode desc).seq = s.seq ∧ (finishLaunch s opcode desc).mem = s.mem ∧
      (finishLaunch s opcode desc).stash = s.stash ∧ (finishLaunch s opcode desc).link = s.link ∧
      (finishLaunch s opcode desc).time = s.time ∧ (finishLaunch s opcode desc).coll = s.coll ∧
      (finishLaunch s opcode desc).commit = s.commit ∧ (finishLaunch s opcode desc).rsl = s.rsl ∧
      (finishLaunch s opcode desc).eth = s.eth ∧ (finishLaunch s opcode desc).sec = s.sec ∧
      (finishLaunch s opcode desc).pwr = s.pwr ∧ (finishLaunch s opcode desc).outbox = s.outbox := by
  unfold finishLaunch; (repeat' split) <;> simp

@[simp] theorem setBankRow_keeps (s : State) (core n b i : Nat) (es : List Entry) :
    (setBankRow s core n b i es).pending = s.pending ∧ (setBankRow s core n b i es).uptime = s.uptime ∧
      (setBankRow s core n b i es).drawn = s.drawn ∧ (setBankRow s core n b i es).seq = s.seq ∧
      (setBankRow s core n b i es).mem = s.mem ∧ (setBankRow s core n b i es).stash = s.stash ∧
      (setBankRow s core n b i es).link = s.link ∧ (setBankRow s core n b i es).time = s.time ∧
      (setBankRow s core n b i es).coll = s.coll ∧ (setBankRow s core n b i es).commit = s.commit ∧
      (setBankRow s core n b i es).rsl = s.rsl ∧ (setBankRow s core n b i es).eth = s.eth ∧
      (setBankRow s core n b i es).sec = s.sec ∧ (setBankRow s core n b i es).pwr = s.pwr ∧
      (setBankRow s core n b i es).mon = s.mon ∧ (setBankRow s core n b i es).outbox = s.outbox := by
  unfold setBankRow; simp

@[simp] theorem setStatus_keeps (s : State) (core n b : Nat) (w : Word) :
    (setStatus s core n b w).pending = s.pending ∧ (setStatus s core n b w).uptime = s.uptime ∧
      (setStatus s core n b w).drawn = s.drawn ∧ (setStatus s core n b w).seq = s.seq ∧
      (setStatus s core n b w).mem = s.mem ∧ (setStatus s core n b w).stash = s.stash ∧
      (setStatus s core n b w).link = s.link ∧ (setStatus s core n b w).time = s.time ∧
      (setStatus s core n b w).coll = s.coll ∧ (setStatus s core n b w).commit = s.commit ∧
      (setStatus s core n b w).rsl = s.rsl ∧ (setStatus s core n b w).eth = s.eth ∧ (setStatus s core n b w).sec = s.sec ∧
      (setStatus s core n b w).pwr = s.pwr ∧ (setStatus s core n b w).mon = s.mon ∧
      (setStatus s core n b w).outbox = s.outbox := by
  unfold setStatus; simp

@[simp] theorem clearBankRows_keeps (s : State) (core n b lo hi : Nat) :
    (clearBankRows s core n b lo hi).pending = s.pending ∧ (clearBankRows s core n b lo hi).uptime = s.uptime ∧
      (clearBankRows s core n b lo hi).drawn = s.drawn ∧ (clearBankRows s core n b lo hi).seq = s.seq ∧
      (clearBankRows s core n b lo hi).mem = s.mem ∧ (clearBankRows s core n b lo hi).stash = s.stash ∧
      (clearBankRows s core n b lo hi).link = s.link ∧ (clearBankRows s core n b lo hi).time = s.time ∧
      (clearBankRows s core n b lo hi).coll = s.coll ∧ (clearBankRows s core n b lo hi).commit = s.commit ∧
      (clearBankRows s core n b lo hi).rsl = s.rsl ∧ (clearBankRows s core n b lo hi).eth = s.eth ∧
      (clearBankRows s core n b lo hi).sec = s.sec ∧ (clearBankRows s core n b lo hi).pwr = s.pwr ∧
      (clearBankRows s core n b lo hi).mon = s.mon ∧ (clearBankRows s core n b lo hi).outbox = s.outbox := by
  unfold clearBankRows; simp

@[simp] theorem landPreloadRow_keeps (s : State) (b : BankInit) (i n : Nat) :
    (landPreloadRow s b i n).pending = s.pending ∧ (landPreloadRow s b i n).uptime = s.uptime ∧
      (landPreloadRow s b i n).drawn = s.drawn ∧ (landPreloadRow s b i n).seq = s.seq ∧
      (landPreloadRow s b i n).mem = s.mem ∧ (landPreloadRow s b i n).stash = s.stash ∧
      (landPreloadRow s b i n).link = s.link ∧ (landPreloadRow s b i n).time = s.time ∧
      (landPreloadRow s b i n).coll = s.coll ∧ (landPreloadRow s b i n).commit = s.commit ∧
      (landPreloadRow s b i n).rsl = s.rsl ∧ (landPreloadRow s b i n).eth = s.eth ∧ (landPreloadRow s b i n).sec = s.sec ∧
      (landPreloadRow s b i n).pwr = s.pwr ∧ (landPreloadRow s b i n).mon = s.mon ∧
      (landPreloadRow s b i n).outbox = s.outbox := by
  unfold landPreloadRow; (repeat' split) <;> simp [apply_ite]

@[simp] theorem initEvent_keeps (u : Nat) (s : State) (b : BankInit) :
    (initEvent u s b).pending = s.pending ∧ (initEvent u s b).uptime = s.uptime ∧ (initEvent u s b).drawn = s.drawn ∧
      (initEvent u s b).seq = s.seq ∧ (initEvent u s b).mem = s.mem ∧ (initEvent u s b).stash = s.stash ∧
      (initEvent u s b).link = s.link ∧ (initEvent u s b).time = s.time ∧ (initEvent u s b).coll = s.coll ∧
      (initEvent u s b).commit = s.commit ∧ (initEvent u s b).rsl = s.rsl ∧ (initEvent u s b).eth = s.eth ∧
      (initEvent u s b).sec = s.sec ∧ (initEvent u s b).pwr = s.pwr ∧ (initEvent u s b).mon = s.mon ∧
      (initEvent u s b).outbox = s.outbox := by
  unfold initEvent; (repeat' split) <;> simp

@[simp] theorem landInits_keeps (core : Nat) (s : State) (u : Nat) :
    (landInits core s u).pending = s.pending ∧ (landInits core s u).uptime = s.uptime ∧
      (landInits core s u).drawn = s.drawn ∧ (landInits core s u).seq = s.seq ∧ (landInits core s u).mem = s.mem ∧
      (landInits core s u).stash = s.stash ∧ (landInits core s u).link = s.link ∧ (landInits core s u).time = s.time ∧
      (landInits core s u).coll = s.coll ∧ (landInits core s u).commit = s.commit ∧ (landInits core s u).rsl = s.rsl ∧
      (landInits core s u).eth = s.eth ∧ (landInits core s u).sec = s.sec ∧ (landInits core s u).pwr = s.pwr ∧
      (landInits core s u).mon = s.mon ∧ (landInits core s u).outbox = s.outbox := by
  unfold landInits; simp

@[simp] theorem settleRows_keeps (s : State) (core w : Nat) :
    (settleRows s core w).pending = s.pending ∧ (settleRows s core w).uptime = s.uptime ∧
      (settleRows s core w).drawn = s.drawn ∧ (settleRows s core w).seq = s.seq ∧ (settleRows s core w).mem = s.mem ∧
      (settleRows s core w).stash = s.stash ∧ (settleRows s core w).link = s.link ∧ (settleRows s core w).time = s.time ∧
      (settleRows s core w).coll = s.coll ∧ (settleRows s core w).commit = s.commit ∧ (settleRows s core w).rsl = s.rsl ∧
      (settleRows s core w).eth = s.eth ∧ (settleRows s core w).sec = s.sec ∧ (settleRows s core w).pwr = s.pwr ∧
      (settleRows s core w).mon = s.mon ∧ (settleRows s core w).outbox = s.outbox := by
  unfold settleRows; simp

@[simp] theorem writeGroup_keeps (s : State) (w : Sweep) (j n : Nat) :
    (writeGroup s w j n).pending = s.pending ∧ (writeGroup s w j n).uptime = s.uptime ∧
      (writeGroup s w j n).drawn = s.drawn ∧ (writeGroup s w j n).seq = s.seq ∧ (writeGroup s w j n).mem = s.mem ∧
      (writeGroup s w j n).stash = s.stash ∧ (writeGroup s w j n).link = s.link ∧ (writeGroup s w j n).time = s.time ∧
      (writeGroup s w j n).coll = s.coll ∧ (writeGroup s w j n).commit = s.commit ∧ (writeGroup s w j n).rsl = s.rsl ∧
      (writeGroup s w j n).eth = s.eth ∧ (writeGroup s w j n).sec = s.sec ∧ (writeGroup s w j n).pwr = s.pwr ∧
      (writeGroup s w j n).mon = s.mon ∧ (writeGroup s w j n).outbox = s.outbox := by
  unfold writeGroup; (repeat' split) <;> simp

@[simp] theorem drainClear_keeps (s : State) (d : Drain) (i : Nat) :
    (drainClear s d i).pending = s.pending ∧ (drainClear s d i).uptime = s.uptime ∧ (drainClear s d i).drawn = s.drawn ∧
      (drainClear s d i).seq = s.seq ∧ (drainClear s d i).mem = s.mem ∧ (drainClear s d i).stash = s.stash ∧
      (drainClear s d i).link = s.link ∧ (drainClear s d i).time = s.time ∧ (drainClear s d i).coll = s.coll ∧
      (drainClear s d i).commit = s.commit ∧ (drainClear s d i).rsl = s.rsl ∧ (drainClear s d i).eth = s.eth ∧
      (drainClear s d i).sec = s.sec ∧ (drainClear s d i).pwr = s.pwr ∧ (drainClear s d i).mon = s.mon ∧
      (drainClear s d i).outbox = s.outbox := by
  unfold drainClear; (repeat' split) <;> simp

@[simp] theorem drainReadRow_keeps (s : State) (k : Nat) :
    (drainReadRow s k).pending = s.pending ∧ (drainReadRow s k).uptime = s.uptime ∧ (drainReadRow s k).drawn = s.drawn ∧
      (drainReadRow s k).seq = s.seq ∧ (drainReadRow s k).mem = s.mem ∧ (drainReadRow s k).stash = s.stash ∧
      (drainReadRow s k).link = s.link ∧ (drainReadRow s k).time = s.time ∧ (drainReadRow s k).coll = s.coll ∧
      (drainReadRow s k).commit = s.commit ∧ (drainReadRow s k).rsl = s.rsl ∧ (drainReadRow s k).eth = s.eth ∧
      (drainReadRow s k).sec = s.sec ∧ (drainReadRow s k).pwr = s.pwr ∧ (drainReadRow s k).mon = s.mon ∧
      (drainReadRow s k).outbox = s.outbox := by
  unfold drainReadRow; (repeat' split) <;> simp

@[simp] theorem drainReads_keeps (core u : Nat) (s : State) :
    (drainReads core u s).pending = s.pending ∧ (drainReads core u s).uptime = s.uptime ∧
      (drainReads core u s).drawn = s.drawn ∧ (drainReads core u s).seq = s.seq ∧ (drainReads core u s).mem = s.mem ∧
      (drainReads core u s).stash = s.stash ∧ (drainReads core u s).link = s.link ∧ (drainReads core u s).time = s.time ∧
      (drainReads core u s).coll = s.coll ∧ (drainReads core u s).commit = s.commit ∧ (drainReads core u s).rsl = s.rsl ∧
      (drainReads core u s).eth = s.eth ∧ (drainReads core u s).sec = s.sec ∧ (drainReads core u s).pwr = s.pwr ∧
      (drainReads core u s).mon = s.mon ∧ (drainReads core u s).outbox = s.outbox := by
  unfold drainReads
  and_intros <;>
    (apply foldl_keep; intro s a; (repeat' split) <;> simp)

@[simp] theorem statusClear_keeps (core u : Nat) (s : State) :
    (statusClear core u s).pending = s.pending ∧ (statusClear core u s).uptime = s.uptime ∧
      (statusClear core u s).drawn = s.drawn ∧ (statusClear core u s).seq = s.seq ∧ (statusClear core u s).mem = s.mem ∧
      (statusClear core u s).stash = s.stash ∧ (statusClear core u s).link = s.link ∧ (statusClear core u s).time = s.time ∧
      (statusClear core u s).coll = s.coll ∧ (statusClear core u s).commit = s.commit ∧ (statusClear core u s).rsl = s.rsl ∧
      (statusClear core u s).eth = s.eth ∧ (statusClear core u s).sec = s.sec ∧ (statusClear core u s).pwr = s.pwr ∧
      (statusClear core u s).mon = s.mon ∧ (statusClear core u s).outbox = s.outbox := by
  unfold statusClear; simp

@[simp] theorem settleClk_keeps (core : Nat) (s : State) (u : Nat) :
    (settleClk core s u).pending = s.pending ∧ (settleClk core s u).uptime = s.uptime ∧
      (settleClk core s u).drawn = s.drawn ∧ (settleClk core s u).seq = s.seq ∧ (settleClk core s u).mem = s.mem ∧
      (settleClk core s u).stash = s.stash ∧ (settleClk core s u).link = s.link ∧ (settleClk core s u).time = s.time ∧
      (settleClk core s u).coll = s.coll ∧ (settleClk core s u).commit = s.commit ∧ (settleClk core s u).rsl = s.rsl ∧
      (settleClk core s u).eth = s.eth ∧ (settleClk core s u).sec = s.sec ∧ (settleClk core s u).pwr = s.pwr ∧
      (settleClk core s u).mon = s.mon ∧ (settleClk core s u).outbox = s.outbox := by
  unfold settleClk; simp

@[simp] theorem settle_keeps (s : State) (core upto : Nat) :
    (settle s core upto).pending = s.pending ∧ (settle s core upto).uptime = s.uptime ∧
      (settle s core upto).drawn = s.drawn ∧ (settle s core upto).seq = s.seq ∧ (settle s core upto).mem = s.mem ∧
      (settle s core upto).stash = s.stash ∧ (settle s core upto).link = s.link ∧ (settle s core upto).time = s.time ∧
      (settle s core upto).coll = s.coll ∧ (settle s core upto).commit = s.commit ∧ (settle s core upto).rsl = s.rsl ∧
      (settle s core upto).eth = s.eth ∧ (settle s core upto).sec = s.sec ∧ (settle s core upto).pwr = s.pwr ∧
      (settle s core upto).mon = s.mon ∧ (settle s core upto).outbox = s.outbox := by
  unfold settle; (repeat' split) <;> simp

@[simp] theorem readTo_keeps (s : State) (core r : Nat) :
    (readTo s core r).pending = s.pending ∧ (readTo s core r).uptime = s.uptime ∧ (readTo s core r).drawn = s.drawn ∧
      (readTo s core r).seq = s.seq ∧ (readTo s core r).mem = s.mem ∧ (readTo s core r).stash = s.stash ∧
      (readTo s core r).link = s.link ∧ (readTo s core r).time = s.time ∧ (readTo s core r).coll = s.coll ∧
      (readTo s core r).commit = s.commit ∧ (readTo s core r).rsl = s.rsl ∧ (readTo s core r).eth = s.eth ∧
      (readTo s core r).sec = s.sec ∧ (readTo s core r).pwr = s.pwr ∧ (readTo s core r).mon = s.mon ∧
      (readTo s core r).outbox = s.outbox := by
  unfold readTo; (repeat' split) <;> simp

@[simp] theorem startSweep_keeps (s : State) (op : CoreOp) :
    (startSweep s op).pending = s.pending ∧ (startSweep s op).uptime = s.uptime ∧ (startSweep s op).drawn = s.drawn ∧
      (startSweep s op).seq = s.seq ∧ (startSweep s op).mem = s.mem ∧ (startSweep s op).stash = s.stash ∧
      (startSweep s op).link = s.link ∧ (startSweep s op).time = s.time ∧ (startSweep s op).coll = s.coll ∧
      (startSweep s op).commit = s.commit ∧ (startSweep s op).rsl = s.rsl ∧ (startSweep s op).eth = s.eth ∧
      (startSweep s op).sec = s.sec ∧ (startSweep s op).pwr = s.pwr ∧ (startSweep s op).mon = s.mon ∧
      (startSweep s op).outbox = s.outbox := by
  unfold startSweep; simp

@[simp] theorem markPort_keeps (s : State) (d : Drain) :
    (markPort s d).pending = s.pending ∧ (markPort s d).uptime = s.uptime ∧ (markPort s d).drawn = s.drawn ∧
      (markPort s d).seq = s.seq ∧ (markPort s d).mem = s.mem ∧ (markPort s d).stash = s.stash ∧
      (markPort s d).link = s.link ∧ (markPort s d).time = s.time ∧ (markPort s d).coll = s.coll ∧
      (markPort s d).commit = s.commit ∧ (markPort s d).rsl = s.rsl ∧ (markPort s d).eth = s.eth ∧
      (markPort s d).sec = s.sec ∧ (markPort s d).pwr = s.pwr ∧ (markPort s d).mon = s.mon ∧ (markPort s d).outbox = s.outbox := by
  unfold markPort; (repeat' split) <;> simp

@[simp] theorem startDrain_keeps (s : State) (op : CoreOp) (copy : Bool) :
    (startDrain s op copy).pending = s.pending ∧ (startDrain s op copy).uptime = s.uptime ∧
      (startDrain s op copy).drawn = s.drawn ∧ (startDrain s op copy).seq = s.seq ∧ (startDrain s op copy).mem = s.mem ∧
      (startDrain s op copy).stash = s.stash ∧ (startDrain s op copy).link = s.link ∧ (startDrain s op copy).time = s.time ∧
      (startDrain s op copy).coll = s.coll ∧ (startDrain s op copy).commit = s.commit ∧ (startDrain s op copy).rsl = s.rsl ∧
      (startDrain s op copy).eth = s.eth ∧ (startDrain s op copy).sec = s.sec ∧ (startDrain s op copy).pwr = s.pwr ∧
      (startDrain s op copy).mon = s.mon ∧ (startDrain s op copy).outbox = s.outbox := by
  unfold startDrain; (repeat' split) <;> simp [apply_ite]

@[simp] theorem writeNextGroup_keeps (s : State) (k : Nat) (w : Sweep) :
    (writeNextGroup s k w).pending = s.pending ∧ (writeNextGroup s k w).uptime = s.uptime ∧
      (writeNextGroup s k w).drawn = s.drawn ∧ (writeNextGroup s k w).seq = s.seq ∧ (writeNextGroup s k w).mem = s.mem ∧
      (writeNextGroup s k w).stash = s.stash ∧ (writeNextGroup s k w).link = s.link ∧ (writeNextGroup s k w).time = s.time ∧
      (writeNextGroup s k w).coll = s.coll ∧ (writeNextGroup s k w).commit = s.commit ∧ (writeNextGroup s k w).rsl = s.rsl ∧
      (writeNextGroup s k w).eth = s.eth ∧ (writeNextGroup s k w).sec = s.sec ∧ (writeNextGroup s k w).pwr = s.pwr ∧
      (writeNextGroup s k w).mon = s.mon ∧ (writeNextGroup s k w).outbox = s.outbox := by
  unfold writeNextGroup; (repeat' split) <;> simp [apply_ite]

@[simp] theorem countGroupEvents_keeps (s : State) (w : Sweep) :
    (countGroupEvents s w).pending = s.pending ∧ (countGroupEvents s w).uptime = s.uptime ∧
      (countGroupEvents s w).drawn = s.drawn ∧ (countGroupEvents s w).cu = s.cu ∧ (countGroupEvents s w).seq = s.seq ∧
      (countGroupEvents s w).mem = s.mem ∧ (countGroupEvents s w).stash = s.stash ∧ (countGroupEvents s w).link = s.link ∧
      (countGroupEvents s w).time = s.time ∧ (countGroupEvents s w).coll = s.coll ∧
      (countGroupEvents s w).commit = s.commit ∧ (countGroupEvents s w).rsl = s.rsl ∧ (countGroupEvents s w).eth = s.eth ∧
      (countGroupEvents s w).sec = s.sec ∧ (countGroupEvents s w).pwr = s.pwr ∧ (countGroupEvents s w).outbox = s.outbox := by
  unfold countGroupEvents; simp

@[simp] theorem arriveBuffer_keeps (s : State) (d : Drain) (i n t : Nat) (es : List Entry) :
    (arriveBuffer s d i n t es).pending = s.pending ∧ (arriveBuffer s d i n t es).uptime = s.uptime ∧
      (arriveBuffer s d i n t es).drawn = s.drawn ∧ (arriveBuffer s d i n t es).seq = s.seq ∧
      (arriveBuffer s d i n t es).mem = s.mem ∧ (arriveBuffer s d i n t es).stash = s.stash ∧
      (arriveBuffer s d i n t es).link = s.link ∧ (arriveBuffer s d i n t es).time = s.time ∧
      (arriveBuffer s d i n t es).coll = s.coll ∧ (arriveBuffer s d i n t es).commit = s.commit ∧
      (arriveBuffer s d i n t es).rsl = s.rsl ∧ (arriveBuffer s d i n t es).eth = s.eth ∧
      (arriveBuffer s d i n t es).sec = s.sec ∧ (arriveBuffer s d i n t es).pwr = s.pwr ∧
      (arriveBuffer s d i n t es).mon = s.mon ∧ (arriveBuffer s d i n t es).outbox = s.outbox := by
  unfold arriveBuffer; (repeat' split) <;> simp [apply_ite]

@[simp] theorem arrivePort_keeps (s : State) (d : Drain) (i n : Nat) (es : List Entry) :
    (arrivePort s d i n es).pending = s.pending ∧ (arrivePort s d i n es).uptime = s.uptime ∧
      (arrivePort s d i n es).drawn = s.drawn ∧ (arrivePort s d i n es).seq = s.seq ∧ (arrivePort s d i n es).mem = s.mem ∧
      (arrivePort s d i n es).stash = s.stash ∧ (arrivePort s d i n es).link = s.link ∧
      (arrivePort s d i n es).time = s.time ∧ (arrivePort s d i n es).coll = s.coll ∧
      (arrivePort s d i n es).commit = s.commit ∧ (arrivePort s d i n es).rsl = s.rsl ∧ (arrivePort s d i n es).eth = s.eth ∧
      (arrivePort s d i n es).sec = s.sec ∧ (arrivePort s d i n es).pwr = s.pwr ∧ (arrivePort s d i n es).mon = s.mon ∧
      (arrivePort s d i n es).outbox = s.outbox := by
  unfold arrivePort; simp

@[simp] theorem arriveTile_keeps (s : State) (d : Drain) (i n t : Nat) (es : List Entry) :
    (arriveTile s d i n t es).pending = s.pending ∧ (arriveTile s d i n t es).uptime = s.uptime ∧
      (arriveTile s d i n t es).drawn = s.drawn ∧ (arriveTile s d i n t es).seq = s.seq ∧
      (arriveTile s d i n t es).mem = s.mem ∧ (arriveTile s d i n t es).stash = s.stash ∧
      (arriveTile s d i n t es).link = s.link ∧ (arriveTile s d i n t es).time = s.time ∧
      (arriveTile s d i n t es).coll = s.coll ∧ (arriveTile s d i n t es).commit = s.commit ∧
      (arriveTile s d i n t es).rsl = s.rsl ∧ (arriveTile s d i n t es).eth = s.eth ∧ (arriveTile s d i n t es).sec = s.sec ∧
      (arriveTile s d i n t es).pwr = s.pwr ∧ (arriveTile s d i n t es).mon = s.mon ∧
      (arriveTile s d i n t es).outbox = s.outbox := by
  unfold arriveTile; (repeat' split) <;> simp [apply_ite]

@[simp] theorem arriveRow_keeps (s : State) (k : Nat) (d : Drain) :
    (arriveRow s k d).pending = s.pending ∧ (arriveRow s k d).uptime = s.uptime ∧ (arriveRow s k d).drawn = s.drawn ∧
      (arriveRow s k d).seq = s.seq ∧ (arriveRow s k d).mem = s.mem ∧ (arriveRow s k d).stash = s.stash ∧
      (arriveRow s k d).link = s.link ∧ (arriveRow s k d).time = s.time ∧ (arriveRow s k d).coll = s.coll ∧
      (arriveRow s k d).commit = s.commit ∧ (arriveRow s k d).rsl = s.rsl ∧ (arriveRow s k d).eth = s.eth ∧
      (arriveRow s k d).sec = s.sec ∧ (arriveRow s k d).pwr = s.pwr ∧ (arriveRow s k d).mon = s.mon ∧
      (arriveRow s k d).outbox = s.outbox := by
  unfold arriveRow; (repeat' split) <;> simp [apply_ite]

@[simp] theorem takeDraw_keeps (s : State) (op : CoreOp) (draws : Bool) (slot n0 nmax : Nat) :
    (takeDraw s op draws slot n0 nmax).pending = s.pending ∧ (takeDraw s op draws slot n0 nmax).uptime = s.uptime ∧
      (takeDraw s op draws slot n0 nmax).drawn = s.drawn ∧ (takeDraw s op draws slot n0 nmax).seq = s.seq ∧
      (takeDraw s op draws slot n0 nmax).mem = s.mem ∧ (takeDraw s op draws slot n0 nmax).stash = s.stash ∧
      (takeDraw s op draws slot n0 nmax).link = s.link ∧ (takeDraw s op draws slot n0 nmax).time = s.time ∧
      (takeDraw s op draws slot n0 nmax).coll = s.coll ∧ (takeDraw s op draws slot n0 nmax).commit = s.commit ∧
      (takeDraw s op draws slot n0 nmax).rsl = s.rsl ∧ (takeDraw s op draws slot n0 nmax).eth = s.eth ∧
      (takeDraw s op draws slot n0 nmax).sec = s.sec ∧ (takeDraw s op draws slot n0 nmax).pwr = s.pwr ∧
      (takeDraw s op draws slot n0 nmax).mon = s.mon ∧ (takeDraw s op draws slot n0 nmax).outbox = s.outbox := by
  unfold takeDraw; (repeat' split) <;> simp

@[simp] theorem putStoreByte_keeps (s : State) (core space a : Nat) (b : Byte) :
    (putStoreByte s core space a b).pending = s.pending ∧ (putStoreByte s core space a b).uptime = s.uptime ∧
      (putStoreByte s core space a b).drawn = s.drawn ∧ (putStoreByte s core space a b).seq = s.seq ∧
      (putStoreByte s core space a b).mem = s.mem ∧ (putStoreByte s core space a b).stash = s.stash ∧
      (putStoreByte s core space a b).link = s.link ∧ (putStoreByte s core space a b).time = s.time ∧
      (putStoreByte s core space a b).coll = s.coll ∧ (putStoreByte s core space a b).commit = s.commit ∧
      (putStoreByte s core space a b).rsl = s.rsl ∧ (putStoreByte s core space a b).eth = s.eth ∧
      (putStoreByte s core space a b).sec = s.sec ∧ (putStoreByte s core space a b).pwr = s.pwr ∧
      (putStoreByte s core space a b).mon = s.mon ∧ (putStoreByte s core space a b).outbox = s.outbox := by
  unfold putStoreByte; (repeat' split) <;> simp

@[simp] theorem putStore_keeps (s : State) (core space a : Nat) (bs : List Byte) :
    (putStore s core space a bs).pending = s.pending ∧ (putStore s core space a bs).uptime = s.uptime ∧
      (putStore s core space a bs).drawn = s.drawn ∧ (putStore s core space a bs).seq = s.seq ∧
      (putStore s core space a bs).mem = s.mem ∧ (putStore s core space a bs).stash = s.stash ∧
      (putStore s core space a bs).link = s.link ∧ (putStore s core space a bs).time = s.time ∧
      (putStore s core space a bs).coll = s.coll ∧ (putStore s core space a bs).commit = s.commit ∧
      (putStore s core space a bs).rsl = s.rsl ∧ (putStore s core space a bs).eth = s.eth ∧
      (putStore s core space a bs).sec = s.sec ∧ (putStore s core space a bs).pwr = s.pwr ∧
      (putStore s core space a bs).mon = s.mon ∧ (putStore s core space a bs).outbox = s.outbox := by
  unfold putStore; simp

@[simp] theorem putRegionBits_keeps (s : State) (core : Nat) (d : BitVec 128) (e0 k v : Nat) :
    (putRegionBits s core d e0 k v).pending = s.pending ∧ (putRegionBits s core d e0 k v).uptime = s.uptime ∧
      (putRegionBits s core d e0 k v).drawn = s.drawn ∧ (putRegionBits s core d e0 k v).seq = s.seq ∧
      (putRegionBits s core d e0 k v).mem = s.mem ∧ (putRegionBits s core d e0 k v).stash = s.stash ∧
      (putRegionBits s core d e0 k v).link = s.link ∧ (putRegionBits s core d e0 k v).time = s.time ∧
      (putRegionBits s core d e0 k v).coll = s.coll ∧ (putRegionBits s core d e0 k v).commit = s.commit ∧
      (putRegionBits s core d e0 k v).rsl = s.rsl ∧ (putRegionBits s core d e0 k v).eth = s.eth ∧
      (putRegionBits s core d e0 k v).sec = s.sec ∧ (putRegionBits s core d e0 k v).pwr = s.pwr ∧
      (putRegionBits s core d e0 k v).mon = s.mon ∧ (putRegionBits s core d e0 k v).outbox = s.outbox := by
  unfold putRegionBits; (repeat' split) <;> simp [apply_ite]

@[simp] theorem captureStream_keeps (s : State) (core e t n : Nat) :
    (captureStream s core e t n).pending = s.pending ∧ (captureStream s core e t n).uptime = s.uptime ∧
      (captureStream s core e t n).drawn = s.drawn ∧ (captureStream s core e t n).seq = s.seq ∧
      (captureStream s core e t n).mem = s.mem ∧ (captureStream s core e t n).stash = s.stash ∧
      (captureStream s core e t n).link = s.link ∧ (captureStream s core e t n).time = s.time ∧
      (captureStream s core e t n).coll = s.coll ∧ (captureStream s core e t n).commit = s.commit ∧
      (captureStream s core e t n).rsl = s.rsl ∧ (captureStream s core e t n).eth = s.eth ∧
      (captureStream s core e t n).sec = s.sec ∧ (captureStream s core e t n).pwr = s.pwr ∧
      (captureStream s core e t n).mon = s.mon ∧ (captureStream s core e t n).outbox = s.outbox := by
  unfold captureStream; (repeat' split) <;> simp [apply_ite]

@[simp] theorem loadStream_keeps (s : State) (core e t : Nat) (d : BitVec 256) :
    (loadStream s core e t d).pending = s.pending ∧ (loadStream s core e t d).uptime = s.uptime ∧
      (loadStream s core e t d).drawn = s.drawn ∧ (loadStream s core e t d).seq = s.seq ∧
      (loadStream s core e t d).mem = s.mem ∧ (loadStream s core e t d).stash = s.stash ∧
      (loadStream s core e t d).link = s.link ∧ (loadStream s core e t d).time = s.time ∧
      (loadStream s core e t d).coll = s.coll ∧ (loadStream s core e t d).commit = s.commit ∧
      (loadStream s core e t d).rsl = s.rsl ∧ (loadStream s core e t d).eth = s.eth ∧ (loadStream s core e t d).sec = s.sec ∧
      (loadStream s core e t d).pwr = s.pwr ∧ (loadStream s core e t d).mon = s.mon ∧
      (loadStream s core e t d).outbox = s.outbox := by
  unfold loadStream; simp

@[simp] theorem putMemBits_keeps (s : State) (c : Captured) (k v : Nat) :
    (putMemBits s c k v).pending = s.pending ∧ (putMemBits s c k v).uptime = s.uptime ∧
      (putMemBits s c k v).drawn = s.drawn ∧ (putMemBits s c k v).cu = s.cu ∧ (putMemBits s c k v).seq = s.seq ∧
      (putMemBits s c k v).stash = s.stash ∧ (putMemBits s c k v).link = s.link ∧ (putMemBits s c k v).time = s.time ∧
      (putMemBits s c k v).coll = s.coll ∧ (putMemBits s c k v).commit = s.commit ∧ (putMemBits s c k v).rsl = s.rsl ∧
      (putMemBits s c k v).eth = s.eth ∧ (putMemBits s c k v).sec = s.sec ∧ (putMemBits s c k v).pwr = s.pwr ∧
      (putMemBits s c k v).mon = s.mon ∧ (putMemBits s c k v).outbox = s.outbox := by
  unfold putMemBits; simp

@[simp] theorem fillElem_keeps (c : Captured) (get : Nat → Byte) (s : State) (k : Nat) :
    (fillElem c get s k).pending = s.pending ∧ (fillElem c get s k).uptime = s.uptime ∧
      (fillElem c get s k).drawn = s.drawn ∧ (fillElem c get s k).seq = s.seq ∧ (fillElem c get s k).mem = s.mem ∧
      (fillElem c get s k).stash = s.stash ∧ (fillElem c get s k).link = s.link ∧ (fillElem c get s k).time = s.time ∧
      (fillElem c get s k).coll = s.coll ∧ (fillElem c get s k).commit = s.commit ∧ (fillElem c get s k).rsl = s.rsl ∧
      (fillElem c get s k).eth = s.eth ∧ (fillElem c get s k).sec = s.sec ∧ (fillElem c get s k).pwr = s.pwr ∧
      (fillElem c get s k).mon = s.mon ∧ (fillElem c get s k).outbox = s.outbox := by
  unfold fillElem; (repeat' split) <;> simp [apply_ite]

set_option maxRecDepth 20000 in
@[simp] theorem spillElem_keeps (c : Captured) (sector : Nat) (mask : BitVec 512) (whole : Bool) (s : State) (k : Nat) :
    (spillElem c sector mask whole s k).pending = s.pending ∧ (spillElem c sector mask whole s k).uptime = s.uptime ∧
      (spillElem c sector mask whole s k).drawn = s.drawn ∧ (spillElem c sector mask whole s k).seq = s.seq ∧
      (spillElem c sector mask whole s k).stash = s.stash ∧ (spillElem c sector mask whole s k).link = s.link ∧
      (spillElem c sector mask whole s k).time = s.time ∧ (spillElem c sector mask whole s k).coll = s.coll ∧
      (spillElem c sector mask whole s k).commit = s.commit ∧ (spillElem c sector mask whole s k).rsl = s.rsl ∧
      (spillElem c sector mask whole s k).eth = s.eth ∧ (spillElem c sector mask whole s k).sec = s.sec ∧
      (spillElem c sector mask whole s k).pwr = s.pwr ∧ (spillElem c sector mask whole s k).mon = s.mon ∧
      (spillElem c sector mask whole s k).outbox = s.outbox := by
  unfold spillElem; (repeat' split) <;> simp [apply_ite]

@[simp] theorem updateCaptured_keeps (s : State) (old new : Captured) :
    (updateCaptured s old new).pending = s.pending ∧ (updateCaptured s old new).uptime = s.uptime ∧
      (updateCaptured s old new).drawn = s.drawn ∧ (updateCaptured s old new).seq = s.seq ∧
      (updateCaptured s old new).mem = s.mem ∧ (updateCaptured s old new).stash = s.stash ∧
      (updateCaptured s old new).link = s.link ∧ (updateCaptured s old new).time = s.time ∧
      (updateCaptured s old new).coll = s.coll ∧ (updateCaptured s old new).commit = s.commit ∧
      (updateCaptured s old new).rsl = s.rsl ∧ (updateCaptured s old new).eth = s.eth ∧
      (updateCaptured s old new).sec = s.sec ∧ (updateCaptured s old new).pwr = s.pwr ∧
      (updateCaptured s old new).mon = s.mon ∧ (updateCaptured s old new).outbox = s.outbox := by
  unfold updateCaptured; simp

@[simp] theorem moveSector_keeps (kind : MemKind) (sector : Nat) (mask : BitVec 512) (limit : Nat) (s0 : State) (c : Captured) :
    (moveSector kind sector mask limit s0 c).pending = s0.pending ∧
      (moveSector kind sector mask limit s0 c).uptime = s0.uptime ∧
      (moveSector kind sector mask limit s0 c).drawn = s0.drawn ∧ (moveSector kind sector mask limit s0 c).seq = s0.seq ∧
      (moveSector kind sector mask limit s0 c).stash = s0.stash ∧ (moveSector kind sector mask limit s0 c).link = s0.link ∧
      (moveSector kind sector mask limit s0 c).time = s0.time ∧ (moveSector kind sector mask limit s0 c).coll = s0.coll ∧
      (moveSector kind sector mask limit s0 c).commit = s0.commit ∧ (moveSector kind sector mask limit s0 c).rsl = s0.rsl ∧
      (moveSector kind sector mask limit s0 c).eth = s0.eth ∧ (moveSector kind sector mask limit s0 c).sec = s0.sec ∧
      (moveSector kind sector mask limit s0 c).pwr = s0.pwr ∧ (moveSector kind sector mask limit s0 c).mon = s0.mon ∧
      (moveSector kind sector mask limit s0 c).outbox = s0.outbox := by
  unfold moveSector; (repeat' split) <;> simp [apply_ite]

@[simp] theorem streamSector_keeps (s : State) (core engine : Nat) (kind : MemKind) (sector : Nat) (mask : BitVec 512) :
    (streamSector s core engine kind sector mask).pending = s.pending ∧
      (streamSector s core engine kind sector mask).uptime = s.uptime ∧
      (streamSector s core engine kind sector mask).drawn = s.drawn ∧
      (streamSector s core engine kind sector mask).seq = s.seq ∧
      (streamSector s core engine kind sector mask).stash = s.stash ∧
      (streamSector s core engine kind sector mask).link = s.link ∧
      (streamSector s core engine kind sector mask).time = s.time ∧
      (streamSector s core engine kind sector mask).coll = s.coll ∧
      (streamSector s core engine kind sector mask).commit = s.commit ∧
      (streamSector s core engine kind sector mask).rsl = s.rsl ∧ (streamSector s core engine kind sector mask).eth = s.eth ∧
      (streamSector s core engine kind sector mask).sec = s.sec ∧ (streamSector s core engine kind sector mask).pwr = s.pwr ∧
      (streamSector s core engine kind sector mask).mon = s.mon ∧
      (streamSector s core engine kind sector mask).outbox = s.outbox := by
  unfold streamSector; dsimp only; (repeat' split) <;> simp only [moveSector_keeps, and_self]

@[simp] theorem dropDone_keeps (s : State) :
    (dropDone s).pending = s.pending ∧ (dropDone s).uptime = s.uptime ∧ (dropDone s).drawn = s.drawn ∧
      (dropDone s).seq = s.seq ∧ (dropDone s).mem = s.mem ∧ (dropDone s).stash = s.stash ∧ (dropDone s).link = s.link ∧
      (dropDone s).time = s.time ∧ (dropDone s).coll = s.coll ∧ (dropDone s).commit = s.commit ∧ (dropDone s).rsl = s.rsl ∧
      (dropDone s).eth = s.eth ∧ (dropDone s).sec = s.sec ∧ (dropDone s).pwr = s.pwr ∧ (dropDone s).mon = s.mon ∧
      (dropDone s).outbox = s.outbox := by
  unfold dropDone; simp

@[simp] theorem decideGroup_keeps (s : State) (op : CoreOp) :
    (decideGroup s op).pending = s.pending ∧ (decideGroup s op).uptime = s.uptime ∧ (decideGroup s op).drawn = s.drawn ∧
      (decideGroup s op).cu = s.cu ∧ (decideGroup s op).seq = s.seq ∧ (decideGroup s op).mem = s.mem ∧
      (decideGroup s op).link = s.link ∧ (decideGroup s op).time = s.time ∧ (decideGroup s op).coll = s.coll ∧
      (decideGroup s op).commit = s.commit ∧ (decideGroup s op).rsl = s.rsl ∧ (decideGroup s op).eth = s.eth ∧
      (decideGroup s op).sec = s.sec ∧ (decideGroup s op).pwr = s.pwr ∧ (decideGroup s op).mon = s.mon ∧
      (decideGroup s op).outbox = s.outbox := by
  unfold decideGroup; simp

@[simp] theorem dropPush_keeps (s : State) (op : CoreOp) :
    (dropPush s op).pending = s.pending ∧ (dropPush s op).uptime = s.uptime ∧ (dropPush s op).drawn = s.drawn ∧
      (dropPush s op).cu = s.cu ∧ (dropPush s op).seq = s.seq ∧ (dropPush s op).mem = s.mem ∧ (dropPush s op).link = s.link ∧
      (dropPush s op).time = s.time ∧ (dropPush s op).coll = s.coll ∧ (dropPush s op).commit = s.commit ∧
      (dropPush s op).rsl = s.rsl ∧ (dropPush s op).eth = s.eth ∧ (dropPush s op).sec = s.sec ∧ (dropPush s op).pwr = s.pwr ∧
      (dropPush s op).mon = s.mon ∧ (dropPush s op).outbox = s.outbox := by
  unfold dropPush; (repeat' split) <;> simp

@[simp] theorem countPush_keeps (s : State) (set outcome : Nat) :
    (countPush s set outcome).pending = s.pending ∧ (countPush s set outcome).uptime = s.uptime ∧
      (countPush s set outcome).drawn = s.drawn ∧ (countPush s set outcome).cu = s.cu ∧
      (countPush s set outcome).seq = s.seq ∧ (countPush s set outcome).mem = s.mem ∧
      (countPush s set outcome).link = s.link ∧ (countPush s set outcome).time = s.time ∧
      (countPush s set outcome).coll = s.coll ∧ (countPush s set outcome).commit = s.commit ∧
      (countPush s set outcome).rsl = s.rsl ∧ (countPush s set outcome).eth = s.eth ∧ (countPush s set outcome).sec = s.sec ∧
      (countPush s set outcome).pwr = s.pwr ∧ (countPush s set outcome).mon = s.mon ∧
      (countPush s set outcome).outbox = s.outbox := by
  unfold countPush; simp

@[simp] theorem plannedPush_keeps (s : State) (op : CoreOp) :
    (plannedPush s op).pending = s.pending ∧ (plannedPush s op).uptime = s.uptime ∧ (plannedPush s op).drawn = s.drawn ∧
      (plannedPush s op).cu = s.cu ∧ (plannedPush s op).seq = s.seq ∧ (plannedPush s op).mem = s.mem ∧
      (plannedPush s op).link = s.link ∧ (plannedPush s op).time = s.time ∧ (plannedPush s op).coll = s.coll ∧
      (plannedPush s op).commit = s.commit ∧ (plannedPush s op).rsl = s.rsl ∧ (plannedPush s op).eth = s.eth ∧
      (plannedPush s op).sec = s.sec ∧ (plannedPush s op).pwr = s.pwr ∧ (plannedPush s op).mon = s.mon ∧
      (plannedPush s op).outbox = s.outbox := by
  unfold plannedPush; (repeat' split) <;> simp

@[simp] theorem groupFaulted_keeps (s : State) (set : Nat) :
    (groupFaulted s set).pending = s.pending ∧ (groupFaulted s set).uptime = s.uptime ∧
      (groupFaulted s set).drawn = s.drawn ∧ (groupFaulted s set).cu = s.cu ∧ (groupFaulted s set).seq = s.seq ∧
      (groupFaulted s set).mem = s.mem ∧ (groupFaulted s set).link = s.link ∧ (groupFaulted s set).time = s.time ∧
      (groupFaulted s set).coll = s.coll ∧ (groupFaulted s set).commit = s.commit ∧ (groupFaulted s set).rsl = s.rsl ∧
      (groupFaulted s set).eth = s.eth ∧ (groupFaulted s set).sec = s.sec ∧ (groupFaulted s set).pwr = s.pwr ∧
      (groupFaulted s set).mon = s.mon ∧ (groupFaulted s set).outbox = s.outbox := by
  unfold groupFaulted; simp

@[simp] theorem pushEffect_keeps (s : State) (op : CoreOp) (p : PushPlan) :
    (pushEffect s op p).pending = s.pending ∧ (pushEffect s op p).uptime = s.uptime ∧ (pushEffect s op p).drawn = s.drawn ∧
      (pushEffect s op p).time = s.time ∧ (pushEffect s op p).pwr = s.pwr := by
  unfold pushEffect; (repeat' split) <;> simp

@[simp] theorem putEntryByte_keeps (s : State) (x : StashOp) (o : Nat) (b : Byte) :
    (putEntryByte s x o b).pending = s.pending ∧ (putEntryByte s x o b).uptime = s.uptime ∧
      (putEntryByte s x o b).drawn = s.drawn ∧ (putEntryByte s x o b).cu = s.cu ∧ (putEntryByte s x o b).seq = s.seq ∧
      (putEntryByte s x o b).link = s.link ∧ (putEntryByte s x o b).time = s.time ∧ (putEntryByte s x o b).coll = s.coll ∧
      (putEntryByte s x o b).commit = s.commit ∧ (putEntryByte s x o b).rsl = s.rsl ∧ (putEntryByte s x o b).eth = s.eth ∧
      (putEntryByte s x o b).sec = s.sec ∧ (putEntryByte s x o b).pwr = s.pwr ∧ (putEntryByte s x o b).mon = s.mon ∧
      (putEntryByte s x o b).outbox = s.outbox := by
  unfold putEntryByte; (repeat' split) <;> simp

@[simp] theorem popBytes_keeps (s : State) (x : StashOp) (q : Nat) (sel : List Nat) :
    (popBytes s x q sel).1.pending = s.pending ∧ (popBytes s x q sel).1.uptime = s.uptime ∧
      (popBytes s x q sel).1.drawn = s.drawn ∧ (popBytes s x q sel).1.seq = s.seq ∧ (popBytes s x q sel).1.mem = s.mem ∧
      (popBytes s x q sel).1.stash = s.stash ∧ (popBytes s x q sel).1.link = s.link ∧ (popBytes s x q sel).1.time = s.time ∧
      (popBytes s x q sel).1.coll = s.coll ∧ (popBytes s x q sel).1.commit = s.commit ∧ (popBytes s x q sel).1.rsl = s.rsl ∧
      (popBytes s x q sel).1.eth = s.eth ∧ (popBytes s x q sel).1.sec = s.sec ∧ (popBytes s x q sel).1.pwr = s.pwr ∧
      (popBytes s x q sel).1.mon = s.mon ∧ (popBytes s x q sel).1.outbox = s.outbox := by
  unfold popBytes; simp

@[simp] theorem stashSector_keeps (s : State) (x : StashOp) (q : Nat) (mask : BitVec 512) :
    (stashSector s x q mask).1.pending = s.pending ∧ (stashSector s x q mask).1.uptime = s.uptime ∧
      (stashSector s x q mask).1.drawn = s.drawn ∧ (stashSector s x q mask).1.seq = s.seq ∧
      (stashSector s x q mask).1.link = s.link ∧ (stashSector s x q mask).1.time = s.time ∧
      (stashSector s x q mask).1.coll = s.coll ∧ (stashSector s x q mask).1.commit = s.commit ∧
      (stashSector s x q mask).1.rsl = s.rsl ∧ (stashSector s x q mask).1.eth = s.eth ∧
      (stashSector s x q mask).1.sec = s.sec ∧ (stashSector s x q mask).1.pwr = s.pwr ∧
      (stashSector s x q mask).1.mon = s.mon ∧ (stashSector s x q mask).1.outbox = s.outbox := by
  unfold stashSector; (repeat' split) <;> simp

@[simp] theorem vetchSector_keeps (s : State) (kind : MemKind) (sector : Nat) (mask : BitVec 512) :
    (vetchSector s kind sector mask).pending = s.pending ∧ (vetchSector s kind sector mask).uptime = s.uptime ∧
      (vetchSector s kind sector mask).drawn = s.drawn ∧ (vetchSector s kind sector mask).seq = s.seq ∧
      (vetchSector s kind sector mask).link = s.link ∧ (vetchSector s kind sector mask).time = s.time ∧
      (vetchSector s kind sector mask).coll = s.coll ∧ (vetchSector s kind sector mask).commit = s.commit ∧
      (vetchSector s kind sector mask).rsl = s.rsl ∧ (vetchSector s kind sector mask).eth = s.eth ∧
      (vetchSector s kind sector mask).sec = s.sec ∧ (vetchSector s kind sector mask).pwr = s.pwr ∧
      (vetchSector s kind sector mask).mon = s.mon ∧ (vetchSector s kind sector mask).outbox = s.outbox := by
  unfold vetchSector; (repeat' split) <;> simp

@[simp] theorem sendSpilled_keeps (s : State) (x : StashOp) :
    (sendSpilled s x).pending = s.pending ∧ (sendSpilled s x).uptime = s.uptime ∧ (sendSpilled s x).drawn = s.drawn ∧
      (sendSpilled s x).cu = s.cu ∧ (sendSpilled s x).seq = s.seq ∧ (sendSpilled s x).mem = s.mem ∧
      (sendSpilled s x).stash = s.stash ∧ (sendSpilled s x).time = s.time ∧ (sendSpilled s x).coll = s.coll ∧
      (sendSpilled s x).commit = s.commit ∧ (sendSpilled s x).rsl = s.rsl ∧ (sendSpilled s x).eth = s.eth ∧
      (sendSpilled s x).sec = s.sec ∧ (sendSpilled s x).pwr = s.pwr := by
  unfold sendSpilled; simp

@[simp] theorem moveSpilled_keeps (s : State) (x : StashOp) :
    (moveSpilled s x).pending = s.pending ∧ (moveSpilled s x).uptime = s.uptime ∧ (moveSpilled s x).drawn = s.drawn ∧
      (moveSpilled s x).seq = s.seq ∧ (moveSpilled s x).time = s.time ∧ (moveSpilled s x).coll = s.coll ∧
      (moveSpilled s x).commit = s.commit ∧ (moveSpilled s x).rsl = s.rsl ∧ (moveSpilled s x).eth = s.eth ∧
      (moveSpilled s x).sec = s.sec ∧ (moveSpilled s x).pwr = s.pwr := by
  unfold moveSpilled; simp

@[simp] theorem stashLost_keeps (s : State) :
    (stashLost s).pending = s.pending ∧ (stashLost s).uptime = s.uptime ∧ (stashLost s).drawn = s.drawn ∧
      (stashLost s).time = s.time ∧ (stashLost s).pwr = s.pwr := by
  unfold stashLost; (repeat' split) <;> simp

@[simp] theorem setLoops_keeps (s : State) (loops : List Loop) (entered : Bool) :
    (setLoops s loops entered).pending = s.pending ∧ (setLoops s loops entered).uptime = s.uptime ∧
      (setLoops s loops entered).drawn = s.drawn ∧ (setLoops s loops entered).cu = s.cu ∧
      (setLoops s loops entered).mem = s.mem ∧ (setLoops s loops entered).stash = s.stash ∧
      (setLoops s loops entered).link = s.link ∧ (setLoops s loops entered).time = s.time ∧
      (setLoops s loops entered).coll = s.coll ∧ (setLoops s loops entered).commit = s.commit ∧
      (setLoops s loops entered).rsl = s.rsl ∧ (setLoops s loops entered).eth = s.eth ∧
      (setLoops s loops entered).sec = s.sec ∧ (setLoops s loops entered).pwr = s.pwr ∧
      (setLoops s loops entered).mon = s.mon ∧ (setLoops s loops entered).outbox = s.outbox := by
  unfold setLoops; simp

@[simp] theorem fillBuffer_keeps (s : State) (k : Nat) :
    (fillBuffer s k).pending = s.pending ∧ (fillBuffer s k).uptime = s.uptime ∧ (fillBuffer s k).drawn = s.drawn ∧
      (fillBuffer s k).cu = s.cu ∧ (fillBuffer s k).mem = s.mem ∧ (fillBuffer s k).stash = s.stash ∧
      (fillBuffer s k).link = s.link ∧ (fillBuffer s k).time = s.time ∧ (fillBuffer s k).coll = s.coll ∧
      (fillBuffer s k).commit = s.commit ∧ (fillBuffer s k).rsl = s.rsl ∧ (fillBuffer s k).eth = s.eth ∧
      (fillBuffer s k).sec = s.sec ∧ (fillBuffer s k).pwr = s.pwr ∧ (fillBuffer s k).mon = s.mon ∧
      (fillBuffer s k).outbox = s.outbox := by
  unfold fillBuffer; simp

@[simp] theorem redirectTo_keeps (s : State) (t : Nat) :
    (redirectTo s t).pending = s.pending ∧ (redirectTo s t).uptime = s.uptime ∧ (redirectTo s t).drawn = s.drawn ∧
      (redirectTo s t).cu = s.cu ∧ (redirectTo s t).mem = s.mem ∧ (redirectTo s t).stash = s.stash ∧
      (redirectTo s t).link = s.link ∧ (redirectTo s t).time = s.time ∧ (redirectTo s t).coll = s.coll ∧
      (redirectTo s t).commit = s.commit ∧ (redirectTo s t).rsl = s.rsl ∧ (redirectTo s t).eth = s.eth ∧
      (redirectTo s t).sec = s.sec ∧ (redirectTo s t).pwr = s.pwr ∧ (redirectTo s t).mon = s.mon ∧
      (redirectTo s t).outbox = s.outbox := by
  unfold redirectTo; simp

@[simp] theorem setSlot_keeps (s : State) (n : Nat) (f : Slot → Slot) :
    (setSlot s n f).pending = s.pending ∧ (setSlot s n f).uptime = s.uptime ∧ (setSlot s n f).drawn = s.drawn ∧
      (setSlot s n f).cu = s.cu ∧ (setSlot s n f).seq = s.seq ∧ (setSlot s n f).mem = s.mem ∧
      (setSlot s n f).stash = s.stash ∧ (setSlot s n f).link = s.link ∧ (setSlot s n f).time = s.time ∧
      (setSlot s n f).coll = s.coll ∧ (setSlot s n f).commit = s.commit ∧ (setSlot s n f).eth = s.eth ∧
      (setSlot s n f).sec = s.sec ∧ (setSlot s n f).pwr = s.pwr ∧ (setSlot s n f).mon = s.mon ∧
      (setSlot s n f).outbox = s.outbox := by
  unfold setSlot; simp

@[simp] theorem toPartner_keeps (s : State) (p : Packet) :
    (toPartner s p).pending = s.pending ∧ (toPartner s p).uptime = s.uptime ∧ (toPartner s p).drawn = s.drawn ∧
      (toPartner s p).cu = s.cu ∧ (toPartner s p).seq = s.seq ∧ (toPartner s p).mem = s.mem ∧
      (toPartner s p).stash = s.stash ∧ (toPartner s p).time = s.time ∧ (toPartner s p).coll = s.coll ∧
      (toPartner s p).commit = s.commit ∧ (toPartner s p).rsl = s.rsl ∧ (toPartner s p).eth = s.eth ∧
      (toPartner s p).sec = s.sec ∧ (toPartner s p).pwr = s.pwr := by
  unfold toPartner; (repeat' split) <;> simp

@[simp] theorem partnerWrite_keeps (s : State) (a : Nat) (n : Nat) (bs : Nat → List Byte) :
    (partnerWrite s a n bs).pending = s.pending ∧ (partnerWrite s a n bs).uptime = s.uptime ∧
      (partnerWrite s a n bs).drawn = s.drawn ∧ (partnerWrite s a n bs).cu = s.cu ∧ (partnerWrite s a n bs).seq = s.seq ∧
      (partnerWrite s a n bs).mem = s.mem ∧ (partnerWrite s a n bs).stash = s.stash ∧ (partnerWrite s a n bs).time = s.time ∧
      (partnerWrite s a n bs).coll = s.coll ∧ (partnerWrite s a n bs).commit = s.commit ∧
      (partnerWrite s a n bs).rsl = s.rsl ∧ (partnerWrite s a n bs).eth = s.eth ∧ (partnerWrite s a n bs).sec = s.sec ∧
      (partnerWrite s a n bs).pwr = s.pwr := by
  unfold partnerWrite; simp

@[simp] theorem writeFirst_keeps (s : State) (slot n : Nat) (img : Sparse 8) :
    (writeFirst s slot n img).pending = s.pending ∧ (writeFirst s slot n img).uptime = s.uptime ∧
      (writeFirst s slot n img).drawn = s.drawn ∧ (writeFirst s slot n img).cu = s.cu ∧
      (writeFirst s slot n img).seq = s.seq ∧ (writeFirst s slot n img).mem = s.mem ∧
      (writeFirst s slot n img).stash = s.stash ∧ (writeFirst s slot n img).time = s.time ∧
      (writeFirst s slot n img).coll = s.coll ∧ (writeFirst s slot n img).commit = s.commit ∧
      (writeFirst s slot n img).eth = s.eth ∧ (writeFirst s slot n img).sec = s.sec ∧ (writeFirst s slot n img).pwr = s.pwr := by
  unfold writeFirst; (repeat' split) <;> simp

@[simp] theorem unprotect_keeps (s : State) (p : Nat) :
    (unprotect s p).pending = s.pending ∧ (unprotect s p).uptime = s.uptime ∧ (unprotect s p).drawn = s.drawn ∧
      (unprotect s p).cu = s.cu ∧ (unprotect s p).seq = s.seq ∧ (unprotect s p).mem = s.mem ∧
      (unprotect s p).stash = s.stash ∧ (unprotect s p).link = s.link ∧ (unprotect s p).time = s.time ∧
      (unprotect s p).coll = s.coll ∧ (unprotect s p).commit = s.commit ∧ (unprotect s p).eth = s.eth ∧
      (unprotect s p).sec = s.sec ∧ (unprotect s p).pwr = s.pwr ∧ (unprotect s p).mon = s.mon ∧
      (unprotect s p).outbox = s.outbox := by
  unfold unprotect; simp

@[simp] theorem pageToFirst_keeps (s : State) (slot p : Nat) :
    (pageToFirst s slot p).pending = s.pending ∧ (pageToFirst s slot p).uptime = s.uptime ∧
      (pageToFirst s slot p).drawn = s.drawn ∧ (pageToFirst s slot p).cu = s.cu ∧ (pageToFirst s slot p).seq = s.seq ∧
      (pageToFirst s slot p).mem = s.mem ∧ (pageToFirst s slot p).stash = s.stash ∧ (pageToFirst s slot p).time = s.time ∧
      (pageToFirst s slot p).coll = s.coll ∧ (pageToFirst s slot p).commit = s.commit ∧ (pageToFirst s slot p).eth = s.eth ∧
      (pageToFirst s slot p).sec = s.sec ∧ (pageToFirst s slot p).pwr = s.pwr := by
  unfold pageToFirst; simp

@[simp] theorem copyPage_keeps (s : State) (slot p : Nat) :
    (copyPage s slot p).pending = s.pending ∧ (copyPage s slot p).uptime = s.uptime ∧ (copyPage s slot p).drawn = s.drawn ∧
      (copyPage s slot p).cu = s.cu ∧ (copyPage s slot p).seq = s.seq ∧ (copyPage s slot p).mem = s.mem ∧
      (copyPage s slot p).stash = s.stash ∧ (copyPage s slot p).time = s.time ∧ (copyPage s slot p).coll = s.coll ∧
      (copyPage s slot p).commit = s.commit ∧ (copyPage s slot p).eth = s.eth ∧ (copyPage s slot p).sec = s.sec ∧
      (copyPage s slot p).pwr = s.pwr := by
  unfold copyPage; simp

@[simp] theorem tellHeader_keeps (s : State) (n : Nat) :
    (tellHeader s n).pending = s.pending ∧ (tellHeader s n).uptime = s.uptime ∧ (tellHeader s n).drawn = s.drawn ∧
      (tellHeader s n).cu = s.cu ∧ (tellHeader s n).seq = s.seq ∧ (tellHeader s n).mem = s.mem ∧
      (tellHeader s n).stash = s.stash ∧ (tellHeader s n).time = s.time ∧ (tellHeader s n).coll = s.coll ∧
      (tellHeader s n).commit = s.commit ∧ (tellHeader s n).eth = s.eth ∧ (tellHeader s n).sec = s.sec ∧
      (tellHeader s n).pwr = s.pwr := by
  unfold tellHeader; (repeat' split) <;> simp

@[simp] theorem discardFilling_keeps (s : State) :
    (discardFilling s).pending = s.pending ∧ (discardFilling s).uptime = s.uptime ∧ (discardFilling s).drawn = s.drawn ∧
      (discardFilling s).cu = s.cu ∧ (discardFilling s).seq = s.seq ∧ (discardFilling s).mem = s.mem ∧
      (discardFilling s).stash = s.stash ∧ (discardFilling s).time = s.time ∧ (discardFilling s).coll = s.coll ∧
      (discardFilling s).commit = s.commit ∧ (discardFilling s).eth = s.eth ∧ (discardFilling s).sec = s.sec ∧
      (discardFilling s).pwr = s.pwr := by
  unfold discardFilling; (repeat' split) <;> simp

@[simp] theorem partnerRequest_keeps (s : State) (t : Pending) :
    (partnerRequest s t).pending = s.pending ∧ (partnerRequest s t).uptime = s.uptime ∧
      (partnerRequest s t).drawn = s.drawn ∧ (partnerRequest s t).cu = s.cu ∧ (partnerRequest s t).seq = s.seq ∧
      (partnerRequest s t).mem = s.mem ∧ (partnerRequest s t).stash = s.stash ∧ (partnerRequest s t).time = s.time ∧
      (partnerRequest s t).coll = s.coll ∧ (partnerRequest s t).commit = s.commit ∧ (partnerRequest s t).rsl = s.rsl ∧
      (partnerRequest s t).eth = s.eth ∧ (partnerRequest s t).sec = s.sec ∧ (partnerRequest s t).pwr = s.pwr := by
  unfold partnerRequest; (repeat' split) <;> simp [apply_ite]

@[simp] theorem innerTransfer_keeps (s : State) (target : Nat) (use : TransferUse) (addr count : Nat) :
    (innerTransfer s target use addr count).pending = s.pending ∧ (innerTransfer s target use addr count).uptime = s.uptime ∧
      (innerTransfer s target use addr count).drawn = s.drawn ∧ (innerTransfer s target use addr count).cu = s.cu ∧
      (innerTransfer s target use addr count).seq = s.seq ∧ (innerTransfer s target use addr count).mem = s.mem ∧
      (innerTransfer s target use addr count).stash = s.stash ∧ (innerTransfer s target use addr count).time = s.time ∧
      (innerTransfer s target use addr count).coll = s.coll ∧ (innerTransfer s target use addr count).commit = s.commit ∧
      (innerTransfer s target use addr count).rsl = s.rsl ∧ (innerTransfer s target use addr count).sec = s.sec ∧
      (innerTransfer s target use addr count).pwr = s.pwr := by
  unfold innerTransfer; (repeat' split) <;> simp

@[simp] theorem askPartner_keeps (s : State) (use : TransferUse) (addr count : Nat) :
    (askPartner s use addr count).pending = s.pending ∧ (askPartner s use addr count).uptime = s.uptime ∧
      (askPartner s use addr count).drawn = s.drawn ∧ (askPartner s use addr count).cu = s.cu ∧
      (askPartner s use addr count).seq = s.seq ∧ (askPartner s use addr count).mem = s.mem ∧
      (askPartner s use addr count).stash = s.stash ∧ (askPartner s use addr count).time = s.time ∧
      (askPartner s use addr count).coll = s.coll ∧ (askPartner s use addr count).commit = s.commit ∧
      (askPartner s use addr count).rsl = s.rsl ∧ (askPartner s use addr count).sec = s.sec ∧
      (askPartner s use addr count).pwr = s.pwr := by
  unfold askPartner; simp

@[simp] theorem partnerLost_keeps (s : State) :
    (partnerLost s).pending = s.pending ∧ (partnerLost s).uptime = s.uptime ∧ (partnerLost s).drawn = s.drawn ∧
      (partnerLost s).cu = s.cu ∧ (partnerLost s).seq = s.seq ∧ (partnerLost s).mem = s.mem ∧
      (partnerLost s).stash = s.stash ∧ (partnerLost s).time = s.time ∧ (partnerLost s).coll = s.coll ∧
      (partnerLost s).commit = s.commit ∧ (partnerLost s).sec = s.sec ∧ (partnerLost s).pwr = s.pwr := by
  unfold partnerLost; (repeat' split) <;> simp

@[simp] theorem countCe_keeps (s : State) (die addr : Nat) (job : Bool) :
    (countCe s die addr job).pending = s.pending ∧ (countCe s die addr job).uptime = s.uptime ∧
      (countCe s die addr job).drawn = s.drawn ∧ (countCe s die addr job).cu = s.cu ∧ (countCe s die addr job).seq = s.seq ∧
      (countCe s die addr job).stash = s.stash ∧ (countCe s die addr job).link = s.link ∧
      (countCe s die addr job).time = s.time ∧ (countCe s die addr job).coll = s.coll ∧
      (countCe s die addr job).commit = s.commit ∧ (countCe s die addr job).rsl = s.rsl ∧
      (countCe s die addr job).eth = s.eth ∧ (countCe s die addr job).sec = s.sec ∧ (countCe s die addr job).pwr = s.pwr ∧
      (countCe s die addr job).outbox = s.outbox := by
  unfold countCe; simp

@[simp] theorem recordUe_keeps (s : State) (a : Nat) :
    (recordUe s a).pending = s.pending ∧ (recordUe s a).uptime = s.uptime ∧ (recordUe s a).drawn = s.drawn ∧
      (recordUe s a).cu = s.cu ∧ (recordUe s a).seq = s.seq ∧ (recordUe s a).stash = s.stash ∧ (recordUe s a).link = s.link ∧
      (recordUe s a).time = s.time ∧ (recordUe s a).coll = s.coll ∧ (recordUe s a).commit = s.commit ∧
      (recordUe s a).rsl = s.rsl ∧ (recordUe s a).eth = s.eth ∧ (recordUe s a).sec = s.sec ∧ (recordUe s a).pwr = s.pwr ∧
      (recordUe s a).mon = s.mon ∧ (recordUe s a).outbox = s.outbox := by
  unfold recordUe; simp

@[simp] theorem damageTwinSlot_keeps (s : State) (slot : Nat) :
    (damageTwinSlot s slot).pending = s.pending ∧ (damageTwinSlot s slot).uptime = s.uptime ∧
      (damageTwinSlot s slot).drawn = s.drawn ∧ (damageTwinSlot s slot).cu = s.cu ∧ (damageTwinSlot s slot).seq = s.seq ∧
      (damageTwinSlot s slot).stash = s.stash ∧ (damageTwinSlot s slot).link = s.link ∧
      (damageTwinSlot s slot).time = s.time ∧ (damageTwinSlot s slot).coll = s.coll ∧
      (damageTwinSlot s slot).commit = s.commit ∧ (damageTwinSlot s slot).rsl = s.rsl ∧ (damageTwinSlot s slot).eth = s.eth ∧
      (damageTwinSlot s slot).sec = s.sec ∧ (damageTwinSlot s slot).pwr = s.pwr ∧ (damageTwinSlot s slot).mon = s.mon ∧
      (damageTwinSlot s slot).outbox = s.outbox := by
  unfold damageTwinSlot; simp

@[simp] theorem damageTwin_keeps (s : State) (a : Nat) :
    (damageTwin s a).pending = s.pending ∧ (damageTwin s a).uptime = s.uptime ∧ (damageTwin s a).drawn = s.drawn ∧
      (damageTwin s a).cu = s.cu ∧ (damageTwin s a).seq = s.seq ∧ (damageTwin s a).stash = s.stash ∧
      (damageTwin s a).link = s.link ∧ (damageTwin s a).time = s.time ∧ (damageTwin s a).coll = s.coll ∧
      (damageTwin s a).commit = s.commit ∧ (damageTwin s a).rsl = s.rsl ∧ (damageTwin s a).eth = s.eth ∧
      (damageTwin s a).sec = s.sec ∧ (damageTwin s a).pwr = s.pwr ∧ (damageTwin s a).mon = s.mon ∧
      (damageTwin s a).outbox = s.outbox := by
  unfold damageTwin; dsimp only; (repeat' split) <;> simp only [damageTwinSlot_keeps, and_self]

@[simp] theorem needRestore_keeps (s : State) (cause : Nat) :
    (needRestore s cause).pending = s.pending ∧ (needRestore s cause).uptime = s.uptime ∧
      (needRestore s cause).drawn = s.drawn ∧ (needRestore s cause).time = s.time ∧ (needRestore s cause).pwr = s.pwr := by
  unfold needRestore; (repeat' split) <;> simp

@[simp] theorem handleUe_keeps (s : State) (a : Nat) :
    (handleUe s a).pending = s.pending ∧ (handleUe s a).uptime = s.uptime ∧ (handleUe s a).drawn = s.drawn ∧
      (handleUe s a).time = s.time ∧ (handleUe s a).pwr = s.pwr := by
  unfold handleUe; (repeat' split) <;> simp

@[simp] theorem readMeets_keeps (s : State) (a n : Nat) :
    (readMeets s a n).pending = s.pending ∧ (readMeets s a n).uptime = s.uptime ∧ (readMeets s a n).drawn = s.drawn ∧
      (readMeets s a n).time = s.time ∧ (readMeets s a n).pwr = s.pwr := by
  unfold readMeets; simp

@[simp] theorem damageFilling_keeps (s : State) :
    (damageFilling s).pending = s.pending ∧ (damageFilling s).uptime = s.uptime ∧ (damageFilling s).drawn = s.drawn ∧
      (damageFilling s).cu = s.cu ∧ (damageFilling s).seq = s.seq ∧ (damageFilling s).mem = s.mem ∧
      (damageFilling s).stash = s.stash ∧ (damageFilling s).time = s.time ∧ (damageFilling s).coll = s.coll ∧
      (damageFilling s).commit = s.commit ∧ (damageFilling s).eth = s.eth ∧ (damageFilling s).sec = s.sec ∧
      (damageFilling s).pwr = s.pwr := by
  unfold damageFilling; (repeat' split) <;> simp

@[simp] theorem tansyWith_pending (copy : State → Nat → Nat → State) (h : ∀ s n p, (copy s n p).pending = s.pending) (s : State)
    (p : Nat) : (tansyWith copy s p).pending = s.pending := by
  unfold tansyWith; (repeat' split) <;> simp [h]
@[simp] theorem tansyWith_uptime (copy : State → Nat → Nat → State) (h : ∀ s n p, (copy s n p).uptime = s.uptime) (s : State)
    (p : Nat) : (tansyWith copy s p).uptime = s.uptime := by
  unfold tansyWith; (repeat' split) <;> simp [h]
@[simp] theorem tansyWith_drawn (copy : State → Nat → Nat → State) (h : ∀ s n p, (copy s n p).drawn = s.drawn) (s : State)
    (p : Nat) : (tansyWith copy s p).drawn = s.drawn := by
  unfold tansyWith; (repeat' split) <;> simp [h]
@[simp] theorem tansyWith_time (copy : State → Nat → Nat → State) (h : ∀ s n p, (copy s n p).time = s.time) (s : State)
    (p : Nat) : (tansyWith copy s p).time = s.time := by
  unfold tansyWith; (repeat' split) <;> simp [h]
@[simp] theorem tansyWith_pwr (copy : State → Nat → Nat → State) (h : ∀ s n p, (copy s n p).pwr = s.pwr) (s : State)
    (p : Nat) : (tansyWith copy s p).pwr = s.pwr := by
  unfold tansyWith; (repeat' split) <;> simp [h]

@[simp] theorem tansyCopy_keeps (s : State) (p : Nat) :
    (tansyCopy s p).pending = s.pending ∧ (tansyCopy s p).uptime = s.uptime ∧ (tansyCopy s p).drawn = s.drawn ∧
      (tansyCopy s p).time = s.time ∧ (tansyCopy s p).pwr = s.pwr := by
  unfold tansyCopy; simp

@[simp] theorem touchWrite_keeps (s : State) (phys : Nat) (e : Ev) :
    (touchWrite s phys e).pending = s.pending ∧ (touchWrite s phys e).uptime = s.uptime ∧
      (touchWrite s phys e).drawn = s.drawn ∧ (touchWrite s phys e).time = s.time ∧ (touchWrite s phys e).pwr = s.pwr := by
  unfold touchWrite; (repeat' split) <;> simp

@[simp] theorem protectAll_keeps (s : State) :
    (protectAll s).pending = s.pending ∧ (protectAll s).uptime = s.uptime ∧ (protectAll s).drawn = s.drawn ∧
      (protectAll s).cu = s.cu ∧ (protectAll s).seq = s.seq ∧ (protectAll s).stash = s.stash ∧ (protectAll s).link = s.link ∧
      (protectAll s).time = s.time ∧ (protectAll s).coll = s.coll ∧ (protectAll s).commit = s.commit ∧
      (protectAll s).eth = s.eth ∧ (protectAll s).sec = s.sec ∧ (protectAll s).pwr = s.pwr ∧ (protectAll s).mon = s.mon ∧
      (protectAll s).outbox = s.outbox := by
  unfold protectAll; (repeat' split) <;> simp

@[simp] theorem startSnapshot_keeps (s : State) :
    (startSnapshot s).pending = s.pending ∧ (startSnapshot s).uptime = s.uptime ∧ (startSnapshot s).drawn = s.drawn ∧
      (startSnapshot s).time = s.time ∧ (startSnapshot s).pwr = s.pwr := by
  unfold startSnapshot; simp

@[simp] theorem storeNext_keeps (s : State) (slot : Nat) :
    (storeNext s slot).pending = s.pending ∧ (storeNext s slot).uptime = s.uptime ∧ (storeNext s slot).drawn = s.drawn ∧
      (storeNext s slot).cu = s.cu ∧ (storeNext s slot).seq = s.seq ∧ (storeNext s slot).mem = s.mem ∧
      (storeNext s slot).stash = s.stash ∧ (storeNext s slot).link = s.link ∧ (storeNext s slot).time = s.time ∧
      (storeNext s slot).coll = s.coll ∧ (storeNext s slot).commit = s.commit ∧ (storeNext s slot).rsl = s.rsl ∧
      (storeNext s slot).sec = s.sec ∧ (storeNext s slot).pwr = s.pwr ∧ (storeNext s slot).mon = s.mon := by
  unfold storeNext; dsimp only; (repeat' split) <;> simp only [startTransfer_keeps, and_self]

@[simp] theorem storeWritten_keeps (s : State) (slot : Nat) :
    (storeWritten s slot).pending = s.pending ∧ (storeWritten s slot).uptime = s.uptime ∧
      (storeWritten s slot).drawn = s.drawn ∧ (storeWritten s slot).cu = s.cu ∧ (storeWritten s slot).seq = s.seq ∧
      (storeWritten s slot).mem = s.mem ∧ (storeWritten s slot).stash = s.stash ∧ (storeWritten s slot).link = s.link ∧
      (storeWritten s slot).time = s.time ∧ (storeWritten s slot).coll = s.coll ∧ (storeWritten s slot).commit = s.commit ∧
      (storeWritten s slot).sec = s.sec ∧ (storeWritten s slot).pwr = s.pwr ∧ (storeWritten s slot).mon = s.mon := by
  unfold storeWritten; simp

@[simp] theorem elasticEnd_keeps (s : State) (core region o : Nat) (d : BitVec 128) :
    (elasticEnd s core region o d).pending = s.pending ∧ (elasticEnd s core region o d).uptime = s.uptime ∧
      (elasticEnd s core region o d).drawn = s.drawn ∧ (elasticEnd s core region o d).seq = s.seq ∧
      (elasticEnd s core region o d).mem = s.mem ∧ (elasticEnd s core region o d).stash = s.stash ∧
      (elasticEnd s core region o d).link = s.link ∧ (elasticEnd s core region o d).time = s.time ∧
      (elasticEnd s core region o d).coll = s.coll ∧ (elasticEnd s core region o d).commit = s.commit ∧
      (elasticEnd s core region o d).rsl = s.rsl ∧ (elasticEnd s core region o d).eth = s.eth ∧
      (elasticEnd s core region o d).sec = s.sec ∧ (elasticEnd s core region o d).pwr = s.pwr ∧
      (elasticEnd s core region o d).outbox = s.outbox := by
  unfold elasticEnd; (repeat' split) <;> simp

@[simp] theorem scheduledEnd_keeps (s : State) (core region : Nat) (prod : Bool) (d : BitVec 128) :
    (scheduledEnd s core region prod d).pending = s.pending ∧ (scheduledEnd s core region prod d).uptime = s.uptime ∧
      (scheduledEnd s core region prod d).drawn = s.drawn ∧ (scheduledEnd s core region prod d).seq = s.seq ∧
      (scheduledEnd s core region prod d).mem = s.mem ∧ (scheduledEnd s core region prod d).stash = s.stash ∧
      (scheduledEnd s core region prod d).link = s.link ∧ (scheduledEnd s core region prod d).time = s.time ∧
      (scheduledEnd s core region prod d).coll = s.coll ∧ (scheduledEnd s core region prod d).commit = s.commit ∧
      (scheduledEnd s core region prod d).rsl = s.rsl ∧ (scheduledEnd s core region prod d).eth = s.eth ∧
      (scheduledEnd s core region prod d).sec = s.sec ∧ (scheduledEnd s core region prod d).pwr = s.pwr ∧
      (scheduledEnd s core region prod d).outbox = s.outbox := by
  unfold scheduledEnd; (repeat' split) <;> simp

@[simp] theorem countMemOp_keeps (s : State) (m : MemOp) (die : Nat) :
    (countMemOp s m die).pending = s.pending ∧ (countMemOp s m die).uptime = s.uptime ∧
      (countMemOp s m die).drawn = s.drawn ∧ (countMemOp s m die).cu = s.cu ∧ (countMemOp s m die).seq = s.seq ∧
      (countMemOp s m die).mem = s.mem ∧ (countMemOp s m die).stash = s.stash ∧ (countMemOp s m die).link = s.link ∧
      (countMemOp s m die).time = s.time ∧ (countMemOp s m die).coll = s.coll ∧ (countMemOp s m die).commit = s.commit ∧
      (countMemOp s m die).rsl = s.rsl ∧ (countMemOp s m die).eth = s.eth ∧ (countMemOp s m die).sec = s.sec ∧
      (countMemOp s m die).pwr = s.pwr ∧ (countMemOp s m die).outbox = s.outbox := by
  unfold countMemOp; (repeat' split) <;> simp

@[simp] theorem takeTag_keeps (s : State) (m : MemOp) (die : Fin 8) :
    (takeTag s m die).pending = s.pending ∧ (takeTag s m die).uptime = s.uptime ∧ (takeTag s m die).drawn = s.drawn ∧
      (takeTag s m die).cu = s.cu ∧ (takeTag s m die).seq = s.seq ∧ (takeTag s m die).stash = s.stash ∧
      (takeTag s m die).link = s.link ∧ (takeTag s m die).time = s.time ∧ (takeTag s m die).coll = s.coll ∧
      (takeTag s m die).commit = s.commit ∧ (takeTag s m die).rsl = s.rsl ∧ (takeTag s m die).eth = s.eth ∧
      (takeTag s m die).sec = s.sec ∧ (takeTag s m die).pwr = s.pwr ∧ (takeTag s m die).mon = s.mon ∧
      (takeTag s m die).outbox = s.outbox := by
  unfold takeTag; simp

@[simp] theorem firstTouch_keeps (s : State) (m : MemOp) (phys die : Nat) :
    (firstTouch s m phys die).pending = s.pending ∧ (firstTouch s m phys die).uptime = s.uptime ∧
      (firstTouch s m phys die).drawn = s.drawn ∧ (firstTouch s m phys die).time = s.time ∧
      (firstTouch s m phys die).pwr = s.pwr := by
  unfold firstTouch; (repeat' split) <;> simp

@[simp] theorem writeMasked_keeps (s : State) (phys : Nat) (m : MemOp) :
    (writeMasked s phys m).pending = s.pending ∧ (writeMasked s phys m).uptime = s.uptime ∧
      (writeMasked s phys m).drawn = s.drawn ∧ (writeMasked s phys m).cu = s.cu ∧ (writeMasked s phys m).seq = s.seq ∧
      (writeMasked s phys m).stash = s.stash ∧ (writeMasked s phys m).link = s.link ∧ (writeMasked s phys m).time = s.time ∧
      (writeMasked s phys m).coll = s.coll ∧ (writeMasked s phys m).commit = s.commit ∧ (writeMasked s phys m).rsl = s.rsl ∧
      (writeMasked s phys m).eth = s.eth ∧ (writeMasked s phys m).sec = s.sec ∧ (writeMasked s phys m).pwr = s.pwr ∧
      (writeMasked s phys m).mon = s.mon ∧ (writeMasked s phys m).outbox = s.outbox := by
  unfold writeMasked; simp

@[simp] theorem moveData_keeps (s : State) (m : MemOp) (phys : Nat) :
    (moveData s m phys).pending = s.pending ∧ (moveData s m phys).uptime = s.uptime ∧ (moveData s m phys).drawn = s.drawn ∧
      (moveData s m phys).seq = s.seq ∧ (moveData s m phys).link = s.link ∧ (moveData s m phys).time = s.time ∧
      (moveData s m phys).coll = s.coll ∧ (moveData s m phys).commit = s.commit ∧ (moveData s m phys).rsl = s.rsl ∧
      (moveData s m phys).eth = s.eth ∧ (moveData s m phys).sec = s.sec ∧ (moveData s m phys).pwr = s.pwr ∧
      (moveData s m phys).mon = s.mon ∧ (moveData s m phys).outbox = s.outbox := by
  unfold moveData; (repeat' split) <;> simp

@[simp] theorem settleWords_keeps (old s : State) (m : MemOp) (phys : Nat) (ue : List Nat) :
    (settleWords old s m phys ue).pending = s.pending ∧ (settleWords old s m phys ue).uptime = s.uptime ∧
      (settleWords old s m phys ue).drawn = s.drawn ∧ (settleWords old s m phys ue).cu = s.cu ∧
      (settleWords old s m phys ue).seq = s.seq ∧ (settleWords old s m phys ue).stash = s.stash ∧
      (settleWords old s m phys ue).link = s.link ∧ (settleWords old s m phys ue).time = s.time ∧
      (settleWords old s m phys ue).coll = s.coll ∧ (settleWords old s m phys ue).commit = s.commit ∧
      (settleWords old s m phys ue).rsl = s.rsl ∧ (settleWords old s m phys ue).eth = s.eth ∧
      (settleWords old s m phys ue).sec = s.sec ∧ (settleWords old s m phys ue).pwr = s.pwr ∧
      (settleWords old s m phys ue).mon = s.mon ∧ (settleWords old s m phys ue).outbox = s.outbox := by
  unfold settleWords; (repeat' split) <;> simp

@[simp] theorem serveMemOp_keeps (s : State) (m : MemOp) (die : Fin 8) :
    (serveMemOp s m die).pending = s.pending ∧ (serveMemOp s m die).uptime = s.uptime ∧
      (serveMemOp s m die).drawn = s.drawn ∧ (serveMemOp s m die).time = s.time := by
  unfold serveMemOp; dsimp only; (repeat' split) <;> simp only [firstTouch_keeps, markWord_keeps, settleWords_keeps,
      moveData_keeps, sramError_keeps, countCe_keeps, handleUe_keeps, foldl_pending, foldl_uptime, foldl_drawn,
      foldl_time, and_self, implies_true]

@[simp] theorem takeMemOp_keeps (s : State) (m : MemOp) (die : Fin 8) :
    (takeMemOp s m die).pending = s.pending ∧ (takeMemOp s m die).uptime = s.uptime ∧ (takeMemOp s m die).drawn = s.drawn ∧
      (takeMemOp s m die).time = s.time := by
  unfold takeMemOp; (repeat' split) <;> simp

@[simp] theorem serveWaiting_keeps (s : State) :
    (serveWaiting s).pending = s.pending ∧ (serveWaiting s).uptime = s.uptime ∧ (serveWaiting s).drawn = s.drawn ∧
      (serveWaiting s).time = s.time := by
  unfold serveWaiting
  and_intros <;>
    (apply foldl_keep; intro s a; (repeat' split) <;> simp)

@[simp] theorem holdForTag_keeps (s : State) (m : MemOp) :
    (holdForTag s m).pending = s.pending ∧ (holdForTag s m).uptime = s.uptime ∧ (holdForTag s m).drawn = s.drawn ∧
      (holdForTag s m).cu = s.cu ∧ (holdForTag s m).seq = s.seq ∧ (holdForTag s m).stash = s.stash ∧
      (holdForTag s m).link = s.link ∧ (holdForTag s m).time = s.time ∧ (holdForTag s m).coll = s.coll ∧
      (holdForTag s m).commit = s.commit ∧ (holdForTag s m).rsl = s.rsl ∧ (holdForTag s m).eth = s.eth ∧
      (holdForTag s m).sec = s.sec ∧ (holdForTag s m).pwr = s.pwr ∧ (holdForTag s m).outbox = s.outbox := by
  unfold holdForTag; (repeat' split) <;> simp

@[simp] theorem serveOne_keeps (opened : Bool) (s : State) (m : MemOp) :
    (serveOne opened s m).pending = s.pending ∧ (serveOne opened s m).uptime = s.uptime ∧
      (serveOne opened s m).drawn = s.drawn ∧ (serveOne opened s m).time = s.time := by
  unfold serveOne; (repeat' split) <;> simp

@[simp] theorem serveHeld_keeps (s : State) :
    (serveHeld s).pending = s.pending ∧ (serveHeld s).uptime = s.uptime ∧ (serveHeld s).drawn = s.drawn ∧
      (serveHeld s).time = s.time := by
  unfold serveHeld; (repeat' split) <;> and_intros <;> (try dsimp only) <;> (repeat' split) <;> simp

@[simp] theorem sendJoin_keeps (s : State) (exchange rank : Nat) (down : Bool) (bs : List Byte) :
    (sendJoin s exchange rank down bs).pending = s.pending ∧ (sendJoin s exchange rank down bs).uptime = s.uptime ∧
      (sendJoin s exchange rank down bs).drawn = s.drawn ∧ (sendJoin s exchange rank down bs).cu = s.cu ∧
      (sendJoin s exchange rank down bs).seq = s.seq ∧ (sendJoin s exchange rank down bs).mem = s.mem ∧
      (sendJoin s exchange rank down bs).stash = s.stash ∧ (sendJoin s exchange rank down bs).time = s.time ∧
      (sendJoin s exchange rank down bs).coll = s.coll ∧ (sendJoin s exchange rank down bs).commit = s.commit ∧
      (sendJoin s exchange rank down bs).rsl = s.rsl ∧ (sendJoin s exchange rank down bs).eth = s.eth ∧
      (sendJoin s exchange rank down bs).sec = s.sec ∧ (sendJoin s exchange rank down bs).pwr = s.pwr := by
  unfold sendJoin; dsimp only; (repeat' split) <;> simp only [dropPacket_keeps, transmit_keeps, foldl_pending,
      foldl_uptime, foldl_drawn, foldl_cu, foldl_seq, foldl_mem, foldl_stash, foldl_time, foldl_coll, foldl_commit,
      foldl_rsl, foldl_eth, foldl_sec, foldl_pwr,

      and_self, implies_true]

@[simp] theorem setJoin_keeps (s : State) (exchange : Nat) (j : TreeJoin) :
    (setJoin s exchange j).pending = s.pending ∧ (setJoin s exchange j).uptime = s.uptime ∧
      (setJoin s exchange j).drawn = s.drawn ∧ (setJoin s exchange j).cu = s.cu ∧ (setJoin s exchange j).seq = s.seq ∧
      (setJoin s exchange j).mem = s.mem ∧ (setJoin s exchange j).stash = s.stash ∧ (setJoin s exchange j).link = s.link ∧
      (setJoin s exchange j).time = s.time ∧ (setJoin s exchange j).commit = s.commit ∧ (setJoin s exchange j).rsl = s.rsl ∧
      (setJoin s exchange j).eth = s.eth ∧ (setJoin s exchange j).sec = s.sec ∧ (setJoin s exchange j).pwr = s.pwr ∧
      (setJoin s exchange j).mon = s.mon ∧ (setJoin s exchange j).outbox = s.outbox := by
  unfold setJoin; (repeat' split) <;> simp

@[simp] theorem joinDown_keeps (s : State) (exchange : Nat) (bs : List Byte) :
    (joinDown s exchange bs).pending = s.pending ∧ (joinDown s exchange bs).uptime = s.uptime ∧
      (joinDown s exchange bs).drawn = s.drawn ∧ (joinDown s exchange bs).cu = s.cu ∧ (joinDown s exchange bs).seq = s.seq ∧
      (joinDown s exchange bs).mem = s.mem ∧ (joinDown s exchange bs).stash = s.stash ∧
      (joinDown s exchange bs).time = s.time ∧ (joinDown s exchange bs).commit = s.commit ∧
      (joinDown s exchange bs).rsl = s.rsl ∧ (joinDown s exchange bs).eth = s.eth ∧ (joinDown s exchange bs).sec = s.sec ∧
      (joinDown s exchange bs).pwr = s.pwr := by
  unfold joinDown; simp

@[simp] theorem tryJoin_keeps (s : State) (exchange : Nat) :
    (tryJoin s exchange).pending = s.pending ∧ (tryJoin s exchange).uptime = s.uptime ∧
      (tryJoin s exchange).drawn = s.drawn ∧ (tryJoin s exchange).cu = s.cu ∧ (tryJoin s exchange).seq = s.seq ∧
      (tryJoin s exchange).mem = s.mem ∧ (tryJoin s exchange).stash = s.stash ∧ (tryJoin s exchange).time = s.time ∧
      (tryJoin s exchange).commit = s.commit ∧ (tryJoin s exchange).rsl = s.rsl ∧ (tryJoin s exchange).eth = s.eth ∧
      (tryJoin s exchange).sec = s.sec ∧ (tryJoin s exchange).pwr = s.pwr := by
  unfold tryJoin; dsimp only; (repeat' split) <;> simp only [setJoin_keeps, sendJoin_keeps, joinDown_keeps,



      and_self]

@[simp] theorem enterJoin_keeps (s : State) (exchange : Nat) (own : List Byte) :
    (enterJoin s exchange own).pending = s.pending ∧ (enterJoin s exchange own).uptime = s.uptime ∧
      (enterJoin s exchange own).drawn = s.drawn ∧ (enterJoin s exchange own).cu = s.cu ∧
      (enterJoin s exchange own).seq = s.seq ∧ (enterJoin s exchange own).mem = s.mem ∧
      (enterJoin s exchange own).stash = s.stash ∧ (enterJoin s exchange own).time = s.time ∧
      (enterJoin s exchange own).commit = s.commit ∧ (enterJoin s exchange own).rsl = s.rsl ∧
      (enterJoin s exchange own).eth = s.eth ∧ (enterJoin s exchange own).sec = s.sec ∧
      (enterJoin s exchange own).pwr = s.pwr := by
  unfold enterJoin; (repeat' split) <;> simp [apply_ite]

@[simp] theorem leaveJoin_keeps (s : State) (exchange : Nat) :
    (leaveJoin s exchange).pending = s.pending ∧ (leaveJoin s exchange).uptime = s.uptime ∧
      (leaveJoin s exchange).drawn = s.drawn ∧ (leaveJoin s exchange).cu = s.cu ∧ (leaveJoin s exchange).seq = s.seq ∧
      (leaveJoin s exchange).mem = s.mem ∧ (leaveJoin s exchange).stash = s.stash ∧ (leaveJoin s exchange).link = s.link ∧
      (leaveJoin s exchange).time = s.time ∧ (leaveJoin s exchange).commit = s.commit ∧ (leaveJoin s exchange).rsl = s.rsl ∧
      (leaveJoin s exchange).eth = s.eth ∧ (leaveJoin s exchange).sec = s.sec ∧ (leaveJoin s exchange).pwr = s.pwr ∧
      (leaveJoin s exchange).mon = s.mon ∧ (leaveJoin s exchange).outbox = s.outbox := by
  unfold leaveJoin; simp

@[simp] theorem joinFromChild_keeps (s : State) (exchange rank : Nat) (bs : List Byte) :
    (joinFromChild s exchange rank bs).pending = s.pending ∧ (joinFromChild s exchange rank bs).uptime = s.uptime ∧
      (joinFromChild s exchange rank bs).drawn = s.drawn ∧ (joinFromChild s exchange rank bs).cu = s.cu ∧
      (joinFromChild s exchange rank bs).seq = s.seq ∧ (joinFromChild s exchange rank bs).mem = s.mem ∧
      (joinFromChild s exchange rank bs).stash = s.stash ∧ (joinFromChild s exchange rank bs).time = s.time ∧
      (joinFromChild s exchange rank bs).commit = s.commit ∧ (joinFromChild s exchange rank bs).rsl = s.rsl ∧
      (joinFromChild s exchange rank bs).eth = s.eth ∧ (joinFromChild s exchange rank bs).sec = s.sec ∧
      (joinFromChild s exchange rank bs).pwr = s.pwr := by
  unfold joinFromChild; simp

@[simp] theorem joinFromParent_keeps (s : State) (exchange : Nat) (bs : List Byte) :
    (joinFromParent s exchange bs).pending = s.pending ∧ (joinFromParent s exchange bs).uptime = s.uptime ∧
      (joinFromParent s exchange bs).drawn = s.drawn ∧ (joinFromParent s exchange bs).cu = s.cu ∧
      (joinFromParent s exchange bs).seq = s.seq ∧ (joinFromParent s exchange bs).mem = s.mem ∧
      (joinFromParent s exchange bs).stash = s.stash ∧ (joinFromParent s exchange bs).time = s.time ∧
      (joinFromParent s exchange bs).commit = s.commit ∧ (joinFromParent s exchange bs).rsl = s.rsl ∧
      (joinFromParent s exchange bs).eth = s.eth ∧ (joinFromParent s exchange bs).sec = s.sec ∧
      (joinFromParent s exchange bs).pwr = s.pwr := by
  unfold joinFromParent; dsimp only; (repeat' split) <;> simp only [joinDown_keeps, setJoin_keeps, and_self]

@[simp] theorem joinPacket_keeps (s : State) (exchange rank : Nat) (down : Bool) (bs : List Byte) :
    (joinPacket s exchange rank down bs).pending = s.pending ∧ (joinPacket s exchange rank down bs).uptime = s.uptime ∧
      (joinPacket s exchange rank down bs).drawn = s.drawn ∧ (joinPacket s exchange rank down bs).cu = s.cu ∧
      (joinPacket s exchange rank down bs).seq = s.seq ∧ (joinPacket s exchange rank down bs).mem = s.mem ∧
      (joinPacket s exchange rank down bs).stash = s.stash ∧ (joinPacket s exchange rank down bs).time = s.time ∧
      (joinPacket s exchange rank down bs).commit = s.commit ∧ (joinPacket s exchange rank down bs).rsl = s.rsl ∧
      (joinPacket s exchange rank down bs).eth = s.eth ∧ (joinPacket s exchange rank down bs).sec = s.sec ∧
      (joinPacket s exchange rank down bs).pwr = s.pwr := by
  unfold joinPacket; (repeat' split) <;> simp [apply_ite]

@[simp] theorem attach_keeps (s : State) (desc issue : Nat) (send : Bool) (b : Binding) :
    (attach s desc issue send b).pending = s.pending ∧ (attach s desc issue send b).uptime = s.uptime ∧
      (attach s desc issue send b).drawn = s.drawn ∧ (attach s desc issue send b).cu = s.cu ∧
      (attach s desc issue send b).seq = s.seq ∧ (attach s desc issue send b).mem = s.mem ∧
      (attach s desc issue send b).stash = s.stash ∧ (attach s desc issue send b).link = s.link ∧
      (attach s desc issue send b).time = s.time ∧ (attach s desc issue send b).commit = s.commit ∧
      (attach s desc issue send b).rsl = s.rsl ∧ (attach s desc issue send b).eth = s.eth ∧
      (attach s desc issue send b).sec = s.sec ∧ (attach s desc issue send b).pwr = s.pwr ∧
      (attach s desc issue send b).mon = s.mon := by
  unfold attach; simp

@[simp] theorem emit_keeps (s : State) (desc rank : Nat) (down : Bool) (aux : Nat) (data : List Byte) :
    (emit s desc rank down aux data).pending = s.pending ∧ (emit s desc rank down aux data).uptime = s.uptime ∧
      (emit s desc rank down aux data).drawn = s.drawn ∧ (emit s desc rank down aux data).cu = s.cu ∧
      (emit s desc rank down aux data).seq = s.seq ∧ (emit s desc rank down aux data).mem = s.mem ∧
      (emit s desc rank down aux data).stash = s.stash ∧ (emit s desc rank down aux data).time = s.time ∧
      (emit s desc rank down aux data).coll = s.coll ∧ (emit s desc rank down aux data).commit = s.commit ∧
      (emit s desc rank down aux data).rsl = s.rsl ∧ (emit s desc rank down aux data).eth = s.eth ∧
      (emit s desc rank down aux data).sec = s.sec ∧ (emit s desc rank down aux data).pwr = s.pwr := by
  unfold emit; dsimp only; (repeat' split) <;> simp only [transmit_keeps, dropPacket_keeps, and_self]

@[simp] theorem sendChunk_keeps (s : State) (l : Launch) (rank : Nat) (down : Bool) (index : Nat) (data : List Byte) :
    (sendChunk s l rank down index data).pending = s.pending ∧ (sendChunk s l rank down index data).uptime = s.uptime ∧
      (sendChunk s l rank down index data).drawn = s.drawn ∧ (sendChunk s l rank down index data).cu = s.cu ∧
      (sendChunk s l rank down index data).seq = s.seq ∧ (sendChunk s l rank down index data).mem = s.mem ∧
      (sendChunk s l rank down index data).stash = s.stash ∧ (sendChunk s l rank down index data).time = s.time ∧
      (sendChunk s l rank down index data).commit = s.commit ∧ (sendChunk s l rank down index data).rsl = s.rsl ∧
      (sendChunk s l rank down index data).eth = s.eth ∧ (sendChunk s l rank down index data).sec = s.sec ∧
      (sendChunk s l rank down index data).pwr = s.pwr := by
  unfold sendChunk; dsimp only; (repeat' split) <;> simp only [emit_keeps, and_self]

@[simp] theorem takeCredit_keeps (s : State) (desc rank : Nat) (down : Bool) (more : Nat) :
    (takeCredit s desc rank down more).pending = s.pending ∧ (takeCredit s desc rank down more).uptime = s.uptime ∧
      (takeCredit s desc rank down more).drawn = s.drawn ∧ (takeCredit s desc rank down more).cu = s.cu ∧
      (takeCredit s desc rank down more).seq = s.seq ∧ (takeCredit s desc rank down more).mem = s.mem ∧
      (takeCredit s desc rank down more).stash = s.stash ∧ (takeCredit s desc rank down more).time = s.time ∧
      (takeCredit s desc rank down more).commit = s.commit ∧ (takeCredit s desc rank down more).rsl = s.rsl ∧
      (takeCredit s desc rank down more).eth = s.eth ∧ (takeCredit s desc rank down more).sec = s.sec ∧
      (takeCredit s desc rank down more).pwr = s.pwr := by
  unfold takeCredit; simp

@[simp] theorem setLaunch_keeps (s : State) (i : Nat) (l : Launch) :
    (setLaunch s i l).pending = s.pending ∧ (setLaunch s i l).uptime = s.uptime ∧ (setLaunch s i l).drawn = s.drawn ∧
      (setLaunch s i l).cu = s.cu ∧ (setLaunch s i l).seq = s.seq ∧ (setLaunch s i l).mem = s.mem ∧
      (setLaunch s i l).stash = s.stash ∧ (setLaunch s i l).link = s.link ∧ (setLaunch s i l).time = s.time ∧
      (setLaunch s i l).commit = s.commit ∧ (setLaunch s i l).rsl = s.rsl ∧ (setLaunch s i l).eth = s.eth ∧
      (setLaunch s i l).sec = s.sec ∧ (setLaunch s i l).pwr = s.pwr ∧ (setLaunch s i l).mon = s.mon ∧
      (setLaunch s i l).outbox = s.outbox := by
  unfold setLaunch; simp

@[simp] theorem flagColl_keeps (s : State) (bad : Bool) :
    (flagColl s bad).pending = s.pending ∧ (flagColl s bad).uptime = s.uptime ∧ (flagColl s bad).drawn = s.drawn ∧
      (flagColl s bad).cu = s.cu ∧ (flagColl s bad).seq = s.seq ∧ (flagColl s bad).mem = s.mem ∧
      (flagColl s bad).stash = s.stash ∧ (flagColl s bad).link = s.link ∧ (flagColl s bad).time = s.time ∧
      (flagColl s bad).commit = s.commit ∧ (flagColl s bad).rsl = s.rsl ∧ (flagColl s bad).eth = s.eth ∧
      (flagColl s bad).sec = s.sec ∧ (flagColl s bad).pwr = s.pwr ∧ (flagColl s bad).mon = s.mon ∧
      (flagColl s bad).outbox = s.outbox := by
  unfold flagColl; (repeat' split) <;> simp

@[simp] theorem deliverElem_keeps (d : BitVec 512) (l : Launch) (b : Binding) (acc : State × Bool) (k : Nat) :
    (deliverElem d l b acc k).1.pending = acc.1.pending ∧ (deliverElem d l b acc k).1.uptime = acc.1.uptime ∧
      (deliverElem d l b acc k).1.drawn = acc.1.drawn ∧ (deliverElem d l b acc k).1.seq = acc.1.seq ∧
      (deliverElem d l b acc k).1.mem = acc.1.mem ∧ (deliverElem d l b acc k).1.stash = acc.1.stash ∧
      (deliverElem d l b acc k).1.link = acc.1.link ∧ (deliverElem d l b acc k).1.time = acc.1.time ∧
      (deliverElem d l b acc k).1.coll = acc.1.coll ∧ (deliverElem d l b acc k).1.commit = acc.1.commit ∧
      (deliverElem d l b acc k).1.rsl = acc.1.rsl ∧ (deliverElem d l b acc k).1.eth = acc.1.eth ∧
      (deliverElem d l b acc k).1.sec = acc.1.sec ∧ (deliverElem d l b acc k).1.pwr = acc.1.pwr ∧
      (deliverElem d l b acc k).1.mon = acc.1.mon ∧ (deliverElem d l b acc k).1.outbox = acc.1.outbox := by
  unfold deliverElem; (repeat' split) <;> simp

set_option maxRecDepth 20000 in
@[simp] theorem deliver_keeps (s : State) (i : Nat) :
    (deliver s i).pending = s.pending ∧ (deliver s i).uptime = s.uptime ∧ (deliver s i).drawn = s.drawn ∧
      (deliver s i).seq = s.seq ∧ (deliver s i).mem = s.mem ∧ (deliver s i).stash = s.stash ∧ (deliver s i).time = s.time ∧
      (deliver s i).commit = s.commit ∧ (deliver s i).rsl = s.rsl ∧ (deliver s i).eth = s.eth ∧ (deliver s i).sec = s.sec ∧
      (deliver s i).pwr = s.pwr := by
  unfold deliver; dsimp only
  repeat' split
  all_goals simp only [sendChunk_keeps, flagColl_keeps, setLaunch_keeps, deliverElem_keeps, withStores_keeps,

      foldl_fst_pending, foldl_fst_uptime, foldl_fst_drawn, foldl_fst_seq, foldl_fst_mem,
      foldl_fst_stash, foldl_fst_time, foldl_fst_commit, foldl_fst_rsl, foldl_fst_eth, foldl_fst_sec, foldl_fst_pwr,
      and_self, implies_true]

@[simp] theorem addResult_keeps (s : State) (i index : Nat) (data : List Byte) :
    (addResult s i index data).pending = s.pending ∧ (addResult s i index data).uptime = s.uptime ∧
      (addResult s i index data).drawn = s.drawn ∧ (addResult s i index data).seq = s.seq ∧
      (addResult s i index data).mem = s.mem ∧ (addResult s i index data).stash = s.stash ∧
      (addResult s i index data).time = s.time ∧ (addResult s i index data).commit = s.commit ∧
      (addResult s i index data).rsl = s.rsl ∧ (addResult s i index data).eth = s.eth ∧
      (addResult s i index data).sec = s.sec ∧ (addResult s i index data).pwr = s.pwr := by
  unfold addResult; (repeat' split) <;> simp

@[simp] theorem sendDown_keeps (s : State) (l : Launch) (j : Nat) (data : List Byte) :
    (sendDown s l j data).pending = s.pending ∧ (sendDown s l j data).uptime = s.uptime ∧
      (sendDown s l j data).drawn = s.drawn ∧ (sendDown s l j data).cu = s.cu ∧ (sendDown s l j data).seq = s.seq ∧
      (sendDown s l j data).mem = s.mem ∧ (sendDown s l j data).stash = s.stash ∧ (sendDown s l j data).time = s.time ∧
      (sendDown s l j data).commit = s.commit ∧ (sendDown s l j data).rsl = s.rsl ∧ (sendDown s l j data).eth = s.eth ∧
      (sendDown s l j data).sec = s.sec ∧ (sendDown s l j data).pwr = s.pwr := by
  unfold sendDown; simp

@[simp] theorem rootResult_keeps (s : State) (i : Nat) (l : Launch) (j : Nat) (data : List Byte) :
    (rootResult s i l j data).pending = s.pending ∧ (rootResult s i l j data).uptime = s.uptime ∧
      (rootResult s i l j data).drawn = s.drawn ∧ (rootResult s i l j data).seq = s.seq ∧
      (rootResult s i l j data).mem = s.mem ∧ (rootResult s i l j data).stash = s.stash ∧
      (rootResult s i l j data).time = s.time ∧ (rootResult s i l j data).commit = s.commit ∧
      (rootResult s i l j data).rsl = s.rsl ∧ (rootResult s i l j data).eth = s.eth ∧ (rootResult s i l j data).sec = s.sec ∧
      (rootResult s i l j data).pwr = s.pwr := by
  unfold rootResult; (repeat' split) <;> simp

@[simp] theorem tryCombine_keeps (s : State) (i j : Nat) :
    (tryCombine s i j).pending = s.pending ∧ (tryCombine s i j).uptime = s.uptime ∧ (tryCombine s i j).drawn = s.drawn ∧
      (tryCombine s i j).seq = s.seq ∧ (tryCombine s i j).mem = s.mem ∧ (tryCombine s i j).stash = s.stash ∧
      (tryCombine s i j).time = s.time ∧ (tryCombine s i j).commit = s.commit ∧ (tryCombine s i j).rsl = s.rsl ∧
      (tryCombine s i j).eth = s.eth ∧ (tryCombine s i j).sec = s.sec ∧ (tryCombine s i j).pwr = s.pwr := by
  unfold tryCombine; dsimp only; (repeat' split) <;> simp only [flagColl_keeps, setLaunch_keeps, sendChunk_keeps,
      rootResult_keeps, and_self]

@[simp] theorem gatherUp_keeps (s : State) (i : Nat) (index : Nat) (data : List Byte) :
    (gatherUp s i index data).pending = s.pending ∧ (gatherUp s i index data).uptime = s.uptime ∧
      (gatherUp s i index data).drawn = s.drawn ∧ (gatherUp s i index data).seq = s.seq ∧
      (gatherUp s i index data).mem = s.mem ∧ (gatherUp s i index data).stash = s.stash ∧
      (gatherUp s i index data).time = s.time ∧ (gatherUp s i index data).commit = s.commit ∧
      (gatherUp s i index data).rsl = s.rsl ∧ (gatherUp s i index data).eth = s.eth ∧ (gatherUp s i index data).sec = s.sec ∧
      (gatherUp s i index data).pwr = s.pwr := by
  unfold gatherUp; (repeat' split) <;> simp

@[simp] theorem sendOn_keeps (s : State) (l : Launch) (index : Nat) (data : List Byte) :
    (sendOn s l index data).pending = s.pending ∧ (sendOn s l index data).uptime = s.uptime ∧
      (sendOn s l index data).drawn = s.drawn ∧ (sendOn s l index data).cu = s.cu ∧ (sendOn s l index data).seq = s.seq ∧
      (sendOn s l index data).mem = s.mem ∧ (sendOn s l index data).stash = s.stash ∧ (sendOn s l index data).time = s.time ∧
      (sendOn s l index data).commit = s.commit ∧ (sendOn s l index data).rsl = s.rsl ∧ (sendOn s l index data).eth = s.eth ∧
      (sendOn s l index data).sec = s.sec ∧ (sendOn s l index data).pwr = s.pwr := by
  unfold sendOn; (repeat' split) <;> simp

@[simp] theorem tryItem_keeps (s : State) (i : Nat) :
    (tryItem s i).pending = s.pending ∧ (tryItem s i).uptime = s.uptime ∧ (tryItem s i).drawn = s.drawn ∧
      (tryItem s i).cu = s.cu ∧ (tryItem s i).seq = s.seq ∧ (tryItem s i).mem = s.mem ∧ (tryItem s i).stash = s.stash ∧
      (tryItem s i).time = s.time ∧ (tryItem s i).commit = s.commit ∧ (tryItem s i).rsl = s.rsl ∧ (tryItem s i).eth = s.eth ∧
      (tryItem s i).sec = s.sec ∧ (tryItem s i).pwr = s.pwr := by
  unfold tryItem; (repeat' split) <;> simp [apply_ite]

@[simp] theorem landItem_keeps (s : State) (desc j : Nat) (data : List Byte) :
    (landItem s desc j data).pending = s.pending ∧ (landItem s desc j data).uptime = s.uptime ∧
      (landItem s desc j data).drawn = s.drawn ∧ (landItem s desc j data).cu = s.cu ∧ (landItem s desc j data).seq = s.seq ∧
      (landItem s desc j data).stash = s.stash ∧ (landItem s desc j data).link = s.link ∧
      (landItem s desc j data).time = s.time ∧ (landItem s desc j data).commit = s.commit ∧
      (landItem s desc j data).rsl = s.rsl ∧ (landItem s desc j data).eth = s.eth ∧ (landItem s desc j data).sec = s.sec ∧
      (landItem s desc j data).pwr = s.pwr ∧ (landItem s desc j data).mon = s.mon ∧
      (landItem s desc j data).outbox = s.outbox := by
  unfold landItem; simp

@[simp] theorem startLaunch_keeps (s : State) (i : Nat) :
    (startLaunch s i).pending = s.pending ∧ (startLaunch s i).uptime = s.uptime ∧ (startLaunch s i).drawn = s.drawn ∧
      (startLaunch s i).seq = s.seq ∧ (startLaunch s i).mem = s.mem ∧ (startLaunch s i).stash = s.stash ∧
      (startLaunch s i).time = s.time ∧ (startLaunch s i).commit = s.commit ∧ (startLaunch s i).rsl = s.rsl ∧
      (startLaunch s i).eth = s.eth ∧ (startLaunch s i).sec = s.sec ∧ (startLaunch s i).pwr = s.pwr := by
  unfold startLaunch; dsimp only; (repeat' split) <;> simp only [countEv_keeps, flagColl_keeps, setLaunch_keeps,
      gatherUp_keeps, sendDown_keeps, tryCombine_keeps, sendOn_keeps, tryItem_keeps, foldl_pending, foldl_uptime,
      foldl_drawn, foldl_seq, foldl_mem, foldl_stash, foldl_time, foldl_commit, foldl_rsl, foldl_eth, foldl_sec,
      foldl_pwr,
      and_self,
      implies_true]

@[simp] theorem grantEdge_keeps (i : Nat) (s : State) (e : Nat × Nat) :
    (grantEdge i s e).pending = s.pending ∧ (grantEdge i s e).uptime = s.uptime ∧ (grantEdge i s e).drawn = s.drawn ∧
      (grantEdge i s e).cu = s.cu ∧ (grantEdge i s e).seq = s.seq ∧ (grantEdge i s e).mem = s.mem ∧
      (grantEdge i s e).stash = s.stash ∧ (grantEdge i s e).time = s.time ∧ (grantEdge i s e).commit = s.commit ∧
      (grantEdge i s e).rsl = s.rsl ∧ (grantEdge i s e).eth = s.eth ∧ (grantEdge i s e).sec = s.sec ∧
      (grantEdge i s e).pwr = s.pwr := by
  unfold grantEdge; (repeat' split) <;> simp [apply_ite]

@[simp] theorem grantLaunch_keeps (s : State) (i : Nat) :
    (grantLaunch s i).pending = s.pending ∧ (grantLaunch s i).uptime = s.uptime ∧ (grantLaunch s i).drawn = s.drawn ∧
      (grantLaunch s i).cu = s.cu ∧ (grantLaunch s i).seq = s.seq ∧ (grantLaunch s i).mem = s.mem ∧
      (grantLaunch s i).stash = s.stash ∧ (grantLaunch s i).time = s.time ∧ (grantLaunch s i).commit = s.commit ∧
      (grantLaunch s i).rsl = s.rsl ∧ (grantLaunch s i).eth = s.eth ∧ (grantLaunch s i).sec = s.sec ∧
      (grantLaunch s i).pwr = s.pwr := by
  unfold grantLaunch; (repeat' split) <;> simp

@[simp] theorem settleColl_keeps (s : State) :
    (settleColl s).pending = s.pending ∧ (settleColl s).uptime = s.uptime ∧ (settleColl s).drawn = s.drawn ∧
      (settleColl s).seq = s.seq ∧ (settleColl s).mem = s.mem ∧ (settleColl s).stash = s.stash ∧
      (settleColl s).time = s.time ∧ (settleColl s).commit = s.commit ∧ (settleColl s).rsl = s.rsl ∧
      (settleColl s).eth = s.eth ∧ (settleColl s).sec = s.sec ∧ (settleColl s).pwr = s.pwr := by
  unfold settleColl; simp

@[simp] theorem slipLaunch_keeps (s : State) (i : Nat) (l : Launch) (by' : Nat) :
    (slipLaunch s i l by').pending = s.pending ∧ (slipLaunch s i l by').uptime = s.uptime ∧
      (slipLaunch s i l by').drawn = s.drawn ∧ (slipLaunch s i l by').cu = s.cu ∧ (slipLaunch s i l by').seq = s.seq ∧
      (slipLaunch s i l by').mem = s.mem ∧ (slipLaunch s i l by').stash = s.stash ∧ (slipLaunch s i l by').link = s.link ∧
      (slipLaunch s i l by').time = s.time ∧ (slipLaunch s i l by').commit = s.commit ∧ (slipLaunch s i l by').rsl = s.rsl ∧
      (slipLaunch s i l by').eth = s.eth ∧ (slipLaunch s i l by').sec = s.sec ∧ (slipLaunch s i l by').pwr = s.pwr ∧
      (slipLaunch s i l by').outbox = s.outbox := by
  unfold slipLaunch; (repeat' split) <;> simp

@[simp] theorem arriveUp_keeps (s : State) (i : Nat) (l : Launch) (c : Chunk) :
    (arriveUp s i l c).pending = s.pending ∧ (arriveUp s i l c).uptime = s.uptime ∧ (arriveUp s i l c).drawn = s.drawn ∧
      (arriveUp s i l c).seq = s.seq ∧ (arriveUp s i l c).mem = s.mem ∧ (arriveUp s i l c).stash = s.stash ∧
      (arriveUp s i l c).time = s.time ∧ (arriveUp s i l c).commit = s.commit ∧ (arriveUp s i l c).rsl = s.rsl ∧
      (arriveUp s i l c).eth = s.eth ∧ (arriveUp s i l c).sec = s.sec ∧ (arriveUp s i l c).pwr = s.pwr := by
  unfold arriveUp; dsimp only; (repeat' split) <;> simp only [setLaunch_keeps, gatherUp_keeps, sendOn_keeps,
      addResult_keeps, tryCombine_keeps, and_self]

@[simp] theorem arriveDown_keeps (s : State) (i : Nat) (l : Launch) (c : Chunk) :
    (arriveDown s i l c).pending = s.pending ∧ (arriveDown s i l c).uptime = s.uptime ∧
      (arriveDown s i l c).drawn = s.drawn ∧ (arriveDown s i l c).seq = s.seq ∧ (arriveDown s i l c).mem = s.mem ∧
      (arriveDown s i l c).stash = s.stash ∧ (arriveDown s i l c).time = s.time ∧ (arriveDown s i l c).commit = s.commit ∧
      (arriveDown s i l c).rsl = s.rsl ∧ (arriveDown s i l c).eth = s.eth ∧ (arriveDown s i l c).sec = s.sec ∧
      (arriveDown s i l c).pwr = s.pwr := by
  unfold arriveDown; simp

@[simp] theorem chunkArrives_keeps (s : State) (desc : Nat) (c : Chunk) :
    (chunkArrives s desc c).pending = s.pending ∧ (chunkArrives s desc c).uptime = s.uptime ∧
      (chunkArrives s desc c).drawn = s.drawn ∧ (chunkArrives s desc c).seq = s.seq ∧ (chunkArrives s desc c).mem = s.mem ∧
      (chunkArrives s desc c).stash = s.stash ∧ (chunkArrives s desc c).time = s.time ∧
      (chunkArrives s desc c).commit = s.commit ∧ (chunkArrives s desc c).rsl = s.rsl ∧ (chunkArrives s desc c).eth = s.eth ∧
      (chunkArrives s desc c).sec = s.sec ∧ (chunkArrives s desc c).pwr = s.pwr := by
  unfold chunkArrives; dsimp only; (repeat' split) <;> simp only [setLaunch_keeps, arriveDown_keeps, arriveUp_keeps,
      and_self]

@[simp] theorem returnCredit_keeps (s : State) (desc : Nat) :
    (returnCredit s desc).pending = s.pending ∧ (returnCredit s desc).uptime = s.uptime ∧
      (returnCredit s desc).drawn = s.drawn ∧ (returnCredit s desc).cu = s.cu ∧ (returnCredit s desc).seq = s.seq ∧
      (returnCredit s desc).mem = s.mem ∧ (returnCredit s desc).stash = s.stash ∧ (returnCredit s desc).time = s.time ∧
      (returnCredit s desc).commit = s.commit ∧ (returnCredit s desc).rsl = s.rsl ∧ (returnCredit s desc).eth = s.eth ∧
      (returnCredit s desc).sec = s.sec ∧ (returnCredit s desc).pwr = s.pwr := by
  unfold returnCredit; dsimp only; (repeat' split) <;> simp only [tryItem_keeps, and_self]

@[simp] theorem floodFence_keeps (s : State) (coord : BitVec 18) (tag : BitVec 16) :
    (floodFence s coord tag).pending = s.pending ∧ (floodFence s coord tag).uptime = s.uptime ∧
      (floodFence s coord tag).drawn = s.drawn ∧ (floodFence s coord tag).cu = s.cu ∧ (floodFence s coord tag).seq = s.seq ∧
      (floodFence s coord tag).mem = s.mem ∧ (floodFence s coord tag).stash = s.stash ∧
      (floodFence s coord tag).time = s.time ∧ (floodFence s coord tag).coll = s.coll ∧
      (floodFence s coord tag).commit = s.commit ∧ (floodFence s coord tag).rsl = s.rsl ∧
      (floodFence s coord tag).eth = s.eth ∧ (floodFence s coord tag).sec = s.sec ∧ (floodFence s coord tag).pwr = s.pwr := by
  unfold floodFence; simp

@[simp] theorem stalePacket_keeps (s : State) (src : BitVec 18) :
    (stalePacket s src).pending = s.pending ∧ (stalePacket s src).uptime = s.uptime ∧ (stalePacket s src).drawn = s.drawn ∧
      (stalePacket s src).time = s.time ∧ (stalePacket s src).pwr = s.pwr := by
  unfold stalePacket; (repeat' split) <;> simp

@[simp] theorem countExchange_keeps (s : State) (port : Nat) (count : Nat) :
    (countExchange s port count).pending = s.pending ∧ (countExchange s port count).uptime = s.uptime ∧
      (countExchange s port count).drawn = s.drawn ∧ (countExchange s port count).time = s.time ∧
      (countExchange s port count).pwr = s.pwr := by
  unfold countExchange; (repeat' split) <;> simp

@[simp] theorem fenceArrives_keeps (s : State) (coord : BitVec 18) (tag : BitVec 16) :
    (fenceArrives s coord tag).pending = s.pending ∧ (fenceArrives s coord tag).uptime = s.uptime ∧
      (fenceArrives s coord tag).drawn = s.drawn := by
  unfold fenceArrives; (repeat' split) <;> simp

@[simp] theorem drainedArrives_keeps (s : State) (src : BitVec 18) (epoch : BitVec 16) :
    (drainedArrives s src epoch).pending = s.pending ∧ (drainedArrives s src epoch).uptime = s.uptime ∧
      (drainedArrives s src epoch).drawn = s.drawn ∧ (drainedArrives s src epoch).cu = s.cu ∧
      (drainedArrives s src epoch).seq = s.seq ∧ (drainedArrives s src epoch).mem = s.mem ∧
      (drainedArrives s src epoch).stash = s.stash ∧ (drainedArrives s src epoch).link = s.link ∧
      (drainedArrives s src epoch).time = s.time ∧ (drainedArrives s src epoch).commit = s.commit ∧
      (drainedArrives s src epoch).rsl = s.rsl ∧ (drainedArrives s src epoch).eth = s.eth ∧
      (drainedArrives s src epoch).sec = s.sec ∧ (drainedArrives s src epoch).pwr = s.pwr ∧
      (drainedArrives s src epoch).mon = s.mon ∧ (drainedArrives s src epoch).outbox = s.outbox := by
  unfold drainedArrives; (repeat' split) <;> simp

@[simp] theorem systemArrives_keeps (s : State) (p : Packet) :
    (systemArrives s p).pending = s.pending ∧ (systemArrives s p).uptime = s.uptime ∧ (systemArrives s p).drawn = s.drawn ∧
      (systemArrives s p).cu = s.cu ∧ (systemArrives s p).seq = s.seq ∧ (systemArrives s p).mem = s.mem ∧
      (systemArrives s p).stash = s.stash ∧ (systemArrives s p).time = s.time ∧ (systemArrives s p).commit = s.commit ∧
      (systemArrives s p).rsl = s.rsl ∧ (systemArrives s p).eth = s.eth ∧ (systemArrives s p).sec = s.sec ∧
      (systemArrives s p).pwr = s.pwr := by
  unfold systemArrives; dsimp only; (repeat' split) <;> simp only [joinPacket_keeps, drainedArrives_keeps, and_self
      ]

@[simp] theorem dataArrives_keeps (s : State) (p : Packet) :
    (dataArrives s p).pending = s.pending ∧ (dataArrives s p).uptime = s.uptime ∧ (dataArrives s p).drawn = s.drawn ∧
      (dataArrives s p).seq = s.seq ∧ (dataArrives s p).stash = s.stash ∧ (dataArrives s p).time = s.time ∧
      (dataArrives s p).commit = s.commit ∧ (dataArrives s p).rsl = s.rsl ∧ (dataArrives s p).eth = s.eth ∧
      (dataArrives s p).sec = s.sec ∧ (dataArrives s p).pwr = s.pwr := by
  unfold dataArrives; dsimp only; (repeat' split) <;> simp only [returnCredit_keeps, settleColl_keeps, landItem_keeps,
      takeCredit_keeps, chunkArrives_keeps, and_self]

@[simp] theorem dataWith_keeps (s : State) (p : Packet) (ecc : Option (Fin 16 × Ecc)) :
    (dataWith s p ecc).pending = s.pending ∧ (dataWith s p ecc).uptime = s.uptime ∧ (dataWith s p ecc).drawn = s.drawn ∧
      (dataWith s p ecc).time = s.time := by
  unfold dataWith; (repeat' split) <;> simp [apply_ite]

@[simp] theorem tellDrained_keeps (s : State) :
    (tellDrained s).pending = s.pending ∧ (tellDrained s).uptime = s.uptime ∧ (tellDrained s).drawn = s.drawn ∧
      (tellDrained s).cu = s.cu ∧ (tellDrained s).seq = s.seq ∧ (tellDrained s).mem = s.mem ∧
      (tellDrained s).stash = s.stash ∧ (tellDrained s).time = s.time ∧ (tellDrained s).commit = s.commit ∧
      (tellDrained s).rsl = s.rsl ∧ (tellDrained s).eth = s.eth ∧ (tellDrained s).sec = s.sec ∧ (tellDrained s).pwr = s.pwr := by
  unfold tellDrained; (repeat' split) <;> simp

@[simp] theorem registerLaunch_keeps (s : State) (desc slot issue lane : Nat) :
    (registerLaunch s desc slot issue lane).pending = s.pending ∧ (registerLaunch s desc slot issue lane).uptime = s.uptime ∧
      (registerLaunch s desc slot issue lane).drawn = s.drawn ∧ (registerLaunch s desc slot issue lane).cu = s.cu ∧
      (registerLaunch s desc slot issue lane).seq = s.seq ∧ (registerLaunch s desc slot issue lane).mem = s.mem ∧
      (registerLaunch s desc slot issue lane).stash = s.stash ∧ (registerLaunch s desc slot issue lane).link = s.link ∧
      (registerLaunch s desc slot issue lane).time = s.time ∧ (registerLaunch s desc slot issue lane).commit = s.commit ∧
      (registerLaunch s desc slot issue lane).rsl = s.rsl ∧ (registerLaunch s desc slot issue lane).eth = s.eth ∧
      (registerLaunch s desc slot issue lane).sec = s.sec ∧ (registerLaunch s desc slot issue lane).pwr = s.pwr ∧
      (registerLaunch s desc slot issue lane).mon = s.mon ∧ (registerLaunch s desc slot issue lane).outbox = s.outbox := by
  unfold registerLaunch; simp

@[simp] theorem flagDie_keeps (s : State) (die : Nat) (bad : Bool) :
    (flagDie s die bad).pending = s.pending ∧ (flagDie s die bad).uptime = s.uptime ∧ (flagDie s die bad).drawn = s.drawn ∧
      (flagDie s die bad).cu = s.cu ∧ (flagDie s die bad).seq = s.seq ∧ (flagDie s die bad).stash = s.stash ∧
      (flagDie s die bad).link = s.link ∧ (flagDie s die bad).time = s.time ∧ (flagDie s die bad).coll = s.coll ∧
      (flagDie s die bad).commit = s.commit ∧ (flagDie s die bad).rsl = s.rsl ∧ (flagDie s die bad).eth = s.eth ∧
      (flagDie s die bad).sec = s.sec ∧ (flagDie s die bad).pwr = s.pwr ∧ (flagDie s die bad).mon = s.mon ∧
      (flagDie s die bad).outbox = s.outbox := by
  unfold flagDie; (repeat' split) <;> simp

@[simp] theorem writeOther_keeps (s : State) (a : Nat) (ws : List Word) :
    (writeOther s a ws).pending = s.pending ∧ (writeOther s a ws).uptime = s.uptime ∧ (writeOther s a ws).drawn = s.drawn ∧
      (writeOther s a ws).time = s.time ∧ (writeOther s a ws).pwr = s.pwr := by
  unfold writeOther; dsimp only; (repeat' split) <;> simp only [writePhys_keeps, touchWrite_keeps, and_self]

@[simp] theorem passOne_keeps (d : BitVec 512) (c : List Word) (s : State) (k : Nat) :
    (passOne d c s k).pending = s.pending ∧ (passOne d c s k).uptime = s.uptime ∧ (passOne d c s k).drawn = s.drawn ∧
      (passOne d c s k).cu = s.cu ∧ (passOne d c s k).seq = s.seq ∧ (passOne d c s k).stash = s.stash ∧
      (passOne d c s k).link = s.link ∧ (passOne d c s k).time = s.time ∧ (passOne d c s k).coll = s.coll ∧
      (passOne d c s k).commit = s.commit ∧ (passOne d c s k).rsl = s.rsl ∧ (passOne d c s k).eth = s.eth ∧
      (passOne d c s k).sec = s.sec ∧ (passOne d c s k).pwr = s.pwr ∧ (passOne d c s k).mon = s.mon ∧
      (passOne d c s k).outbox = s.outbox := by
  unfold passOne; simp

@[simp] theorem updateRecord_keeps (d : BitVec 512) (c : List Word) (ar : Word) (s : State) (k : Nat) :
    (updateRecord d c ar s k).pending = s.pending ∧ (updateRecord d c ar s k).uptime = s.uptime ∧
      (updateRecord d c ar s k).drawn = s.drawn ∧ (updateRecord d c ar s k).time = s.time ∧
      (updateRecord d c ar s k).pwr = s.pwr := by
  unfold updateRecord; (repeat' split) <;> simp [apply_ite]

@[simp] theorem finalPass_keeps (s : State) (d : BitVec 512) (c : List Word) (ar : Word) :
    (finalPass s d c ar).pending = s.pending ∧ (finalPass s d c ar).uptime = s.uptime ∧
      (finalPass s d c ar).drawn = s.drawn ∧ (finalPass s d c ar).time = s.time ∧ (finalPass s d c ar).pwr = s.pwr := by
  unfold finalPass; simp

@[simp] theorem setOptLaunch_keeps (s : State) (l : OptLaunch) :
    (setOptLaunch s l).pending = s.pending ∧ (setOptLaunch s l).uptime = s.uptime ∧ (setOptLaunch s l).drawn = s.drawn ∧
      (setOptLaunch s l).cu = s.cu ∧ (setOptLaunch s l).seq = s.seq ∧ (setOptLaunch s l).stash = s.stash ∧
      (setOptLaunch s l).link = s.link ∧ (setOptLaunch s l).time = s.time ∧ (setOptLaunch s l).coll = s.coll ∧
      (setOptLaunch s l).commit = s.commit ∧ (setOptLaunch s l).rsl = s.rsl ∧ (setOptLaunch s l).eth = s.eth ∧
      (setOptLaunch s l).sec = s.sec ∧ (setOptLaunch s l).pwr = s.pwr ∧ (setOptLaunch s l).mon = s.mon ∧
      (setOptLaunch s l).outbox = s.outbox := by
  unfold setOptLaunch; simp

@[simp] theorem setBanks_keeps (s : State) (desc : Nat) (busy : Bool) (pass : Nat) :
    (setBanks s desc busy pass).pending = s.pending ∧ (setBanks s desc busy pass).uptime = s.uptime ∧
      (setBanks s desc busy pass).drawn = s.drawn ∧ (setBanks s desc busy pass).cu = s.cu ∧
      (setBanks s desc busy pass).seq = s.seq ∧ (setBanks s desc busy pass).stash = s.stash ∧
      (setBanks s desc busy pass).link = s.link ∧ (setBanks s desc busy pass).time = s.time ∧
      (setBanks s desc busy pass).coll = s.coll ∧ (setBanks s desc busy pass).commit = s.commit ∧
      (setBanks s desc busy pass).rsl = s.rsl ∧ (setBanks s desc busy pass).eth = s.eth ∧
      (setBanks s desc busy pass).sec = s.sec ∧ (setBanks s desc busy pass).pwr = s.pwr ∧
      (setBanks s desc busy pass).mon = s.mon ∧ (setBanks s desc busy pass).outbox = s.outbox := by
  unfold setBanks; simp

@[simp] theorem jumpAfter_keeps (s : State) (x : Nat) :
    (jumpAfter s x).pending = s.pending ∧ (jumpAfter s x).uptime = s.uptime ∧ (jumpAfter s x).drawn = s.drawn ∧
      (jumpAfter s x).cu = s.cu ∧ (jumpAfter s x).mem = s.mem ∧ (jumpAfter s x).stash = s.stash ∧
      (jumpAfter s x).link = s.link ∧ (jumpAfter s x).time = s.time ∧ (jumpAfter s x).coll = s.coll ∧
      (jumpAfter s x).commit = s.commit ∧ (jumpAfter s x).rsl = s.rsl ∧ (jumpAfter s x).eth = s.eth ∧
      (jumpAfter s x).sec = s.sec ∧ (jumpAfter s x).pwr = s.pwr ∧ (jumpAfter s x).mon = s.mon ∧
      (jumpAfter s x).outbox = s.outbox := by
  unfold jumpAfter; simp

@[simp] theorem setQreg_keeps (s : State) (r : Nat) (v : Word) :
    (setQreg s r v).pending = s.pending ∧ (setQreg s r v).uptime = s.uptime ∧ (setQreg s r v).drawn = s.drawn ∧
      (setQreg s r v).cu = s.cu ∧ (setQreg s r v).mem = s.mem ∧ (setQreg s r v).stash = s.stash ∧
      (setQreg s r v).link = s.link ∧ (setQreg s r v).time = s.time ∧ (setQreg s r v).coll = s.coll ∧
      (setQreg s r v).commit = s.commit ∧ (setQreg s r v).rsl = s.rsl ∧ (setQreg s r v).eth = s.eth ∧
      (setQreg s r v).sec = s.sec ∧ (setQreg s r v).pwr = s.pwr ∧ (setQreg s r v).mon = s.mon ∧
      (setQreg s r v).outbox = s.outbox := by
  unfold setQreg; simp

@[simp] theorem gather_keeps (s : State) :
    (gather s).pending = s.pending ∧ (gather s).uptime = s.uptime ∧ (gather s).drawn = s.drawn ∧ (gather s).seq = s.seq ∧
      (gather s).mem = s.mem ∧ (gather s).stash = s.stash ∧ (gather s).link = s.link ∧ (gather s).time = s.time ∧
      (gather s).coll = s.coll ∧ (gather s).rsl = s.rsl ∧ (gather s).eth = s.eth ∧ (gather s).sec = s.sec ∧
      (gather s).pwr = s.pwr ∧ (gather s).mon = s.mon ∧ (gather s).outbox = s.outbox := by
  unfold gather; simp

@[simp] theorem firstBeat_keeps (s : State) :
    (firstBeat s).pending = s.pending ∧ (firstBeat s).uptime = s.uptime ∧ (firstBeat s).drawn = s.drawn ∧
      (firstBeat s).cu = s.cu ∧ (firstBeat s).seq = s.seq ∧ (firstBeat s).mem = s.mem ∧ (firstBeat s).stash = s.stash ∧
      (firstBeat s).link = s.link ∧ (firstBeat s).time = s.time ∧ (firstBeat s).coll = s.coll ∧
      (firstBeat s).commit = s.commit ∧ (firstBeat s).rsl = s.rsl ∧ (firstBeat s).eth = s.eth ∧ (firstBeat s).sec = s.sec ∧
      (firstBeat s).pwr = s.pwr ∧ (firstBeat s).outbox = s.outbox := by
  unfold firstBeat; (repeat' split) <;> simp

@[simp] theorem passBeat_keeps (s : State) :
    (passBeat s).pending = s.pending ∧ (passBeat s).uptime = s.uptime ∧ (passBeat s).drawn = s.drawn ∧
      (passBeat s).cu = s.cu ∧ (passBeat s).seq = s.seq ∧ (passBeat s).mem = s.mem ∧ (passBeat s).stash = s.stash ∧
      (passBeat s).link = s.link ∧ (passBeat s).time = s.time ∧ (passBeat s).coll = s.coll ∧ (passBeat s).commit = s.commit ∧
      (passBeat s).rsl = s.rsl ∧ (passBeat s).eth = s.eth ∧ (passBeat s).sec = s.sec ∧ (passBeat s).pwr = s.pwr ∧
      (passBeat s).outbox = s.outbox := by
  unfold passBeat; simp

@[simp] theorem holdBeat_keeps (s : State) (k : Nat) (fetch : Bool) (ts : List HoldTest) :
    (holdBeat s k fetch ts).pending = s.pending ∧ (holdBeat s k fetch ts).uptime = s.uptime ∧
      (holdBeat s k fetch ts).drawn = s.drawn ∧ (holdBeat s k fetch ts).mem = s.mem ∧
      (holdBeat s k fetch ts).stash = s.stash ∧ (holdBeat s k fetch ts).link = s.link ∧
      (holdBeat s k fetch ts).time = s.time ∧ (holdBeat s k fetch ts).coll = s.coll ∧
      (holdBeat s k fetch ts).commit = s.commit ∧ (holdBeat s k fetch ts).rsl = s.rsl ∧ (holdBeat s k fetch ts).eth = s.eth ∧
      (holdBeat s k fetch ts).sec = s.sec ∧ (holdBeat s k fetch ts).pwr = s.pwr ∧ (holdBeat s k fetch ts).outbox = s.outbox := by
  unfold holdBeat; simp

@[simp] theorem prune_keeps (s : State) (t : Nat) :
    (prune s t).pending = s.pending ∧ (prune s t).uptime = s.uptime ∧ (prune s t).drawn = s.drawn ∧ (prune s t).seq = s.seq ∧
      (prune s t).mem = s.mem ∧ (prune s t).link = s.link ∧ (prune s t).time = s.time ∧ (prune s t).coll = s.coll ∧
      (prune s t).commit = s.commit ∧ (prune s t).rsl = s.rsl ∧ (prune s t).eth = s.eth ∧ (prune s t).sec = s.sec ∧
      (prune s t).pwr = s.pwr ∧ (prune s t).mon = s.mon ∧ (prune s t).outbox = s.outbox := by
  unfold prune; simp

@[simp] theorem openStep_keeps (s : State) :
    (openStep s).pending = s.pending ∧ (openStep s).uptime = s.uptime ∧ (openStep s).drawn = s.drawn ∧
      (openStep s).mem = s.mem ∧ (openStep s).stash = s.stash ∧ (openStep s).link = s.link ∧ (openStep s).time = s.time ∧
      (openStep s).coll = s.coll ∧ (openStep s).commit = s.commit ∧ (openStep s).rsl = s.rsl ∧ (openStep s).sec = s.sec ∧
      (openStep s).pwr = s.pwr ∧ (openStep s).mon = s.mon ∧ (openStep s).outbox = s.outbox := by
  unfold openStep; (repeat' split) <;> simp

@[simp] theorem reservedOp_keeps (s : State) (x : Origin × DWord) :
    (reservedOp s x).pending = s.pending ∧ (reservedOp s x).uptime = s.uptime ∧ (reservedOp s x).drawn = s.drawn ∧
      (reservedOp s x).time = s.time ∧ (reservedOp s x).pwr = s.pwr := by
  unfold reservedOp; simp

@[simp] theorem reservedOps_keeps (s : State) (k : Nat) :
    (reservedOps s k).pending = s.pending ∧ (reservedOps s k).uptime = s.uptime ∧ (reservedOps s k).drawn = s.drawn ∧
      (reservedOps s k).time = s.time ∧ (reservedOps s k).pwr = s.pwr := by
  unfold reservedOps; simp

@[simp] theorem issueBundle_keeps (s : State) (k : Nat) (loops : List Loop) (ahead : Nat) :
    (issueBundle s k loops ahead).pending = s.pending ∧ (issueBundle s k loops ahead).uptime = s.uptime ∧
      (issueBundle s k loops ahead).drawn = s.drawn ∧ (issueBundle s k loops ahead).time = s.time ∧
      (issueBundle s k loops ahead).pwr = s.pwr := by
  unfold issueBundle; simp

@[simp] theorem orderFaults_keeps (s : State) (k : Nat) :
    (orderFaults s k).pending = s.pending ∧ (orderFaults s k).uptime = s.uptime ∧ (orderFaults s k).drawn = s.drawn ∧
      (orderFaults s k).time = s.time ∧ (orderFaults s k).pwr = s.pwr := by
  unfold orderFaults; simp

@[simp] theorem expiryTick_keeps (s : State) :
    (expiryTick s).pending = s.pending ∧ (expiryTick s).uptime = s.uptime ∧ (expiryTick s).drawn = s.drawn ∧
      (expiryTick s).cu = s.cu ∧ (expiryTick s).mem = s.mem ∧ (expiryTick s).stash = s.stash ∧ (expiryTick s).link = s.link ∧
      (expiryTick s).time = s.time ∧ (expiryTick s).coll = s.coll ∧ (expiryTick s).commit = s.commit ∧
      (expiryTick s).rsl = s.rsl ∧ (expiryTick s).eth = s.eth ∧ (expiryTick s).sec = s.sec ∧ (expiryTick s).pwr = s.pwr ∧
      (expiryTick s).mon = s.mon ∧ (expiryTick s).outbox = s.outbox := by
  unfold expiryTick; (repeat' split) <;> simp

@[simp] theorem sendCounts_keeps (s : State) :
    (sendCounts s).pending = s.pending ∧ (sendCounts s).uptime = s.uptime ∧ (sendCounts s).drawn = s.drawn ∧
      (sendCounts s).cu = s.cu ∧ (sendCounts s).seq = s.seq ∧ (sendCounts s).mem = s.mem ∧ (sendCounts s).stash = s.stash ∧
      (sendCounts s).time = s.time ∧ (sendCounts s).coll = s.coll ∧ (sendCounts s).commit = s.commit ∧
      (sendCounts s).rsl = s.rsl ∧ (sendCounts s).eth = s.eth ∧ (sendCounts s).sec = s.sec ∧ (sendCounts s).pwr = s.pwr := by
  unfold sendCounts; simp

@[simp] theorem flipVersions_keeps (s : State) :
    (flipVersions s).pending = s.pending ∧ (flipVersions s).uptime = s.uptime ∧ (flipVersions s).drawn = s.drawn ∧
      (flipVersions s).cu = s.cu ∧ (flipVersions s).seq = s.seq ∧ (flipVersions s).stash = s.stash ∧
      (flipVersions s).link = s.link ∧ (flipVersions s).time = s.time ∧ (flipVersions s).coll = s.coll ∧
      (flipVersions s).commit = s.commit ∧ (flipVersions s).rsl = s.rsl ∧ (flipVersions s).eth = s.eth ∧
      (flipVersions s).sec = s.sec ∧ (flipVersions s).pwr = s.pwr ∧ (flipVersions s).mon = s.mon ∧
      (flipVersions s).outbox = s.outbox := by
  unfold flipVersions; simp

@[simp] theorem commitStore_keeps (s : State) (a : Nat) (bs : List Byte) :
    (commitStore s a bs).pending = s.pending ∧ (commitStore s a bs).uptime = s.uptime ∧
      (commitStore s a bs).drawn = s.drawn ∧ (commitStore s a bs).time = s.time ∧ (commitStore s a bs).pwr = s.pwr := by
  unfold commitStore; simp

@[simp] theorem commitScale_keeps (skip : Bool) (maxima : List Word) (s : State) (i : Nat) :
    (commitScale skip maxima s i).pending = s.pending ∧ (commitScale skip maxima s i).uptime = s.uptime ∧
      (commitScale skip maxima s i).drawn = s.drawn ∧ (commitScale skip maxima s i).time = s.time ∧
      (commitScale skip maxima s i).pwr = s.pwr := by
  unfold commitScale; dsimp only; (repeat' split) <;> simp only [commitStore_keeps, and_self]

@[simp] theorem commitScales_keeps (s : State) (skip : Bool) (maxima : List Word) :
    (commitScales s skip maxima).pending = s.pending ∧ (commitScales s skip maxima).uptime = s.uptime ∧
      (commitScales s skip maxima).drawn = s.drawn ∧ (commitScales s skip maxima).time = s.time ∧
      (commitScales s skip maxima).pwr = s.pwr := by
  unfold commitScales; simp

@[simp] theorem clearPending_keeps (s : State) :
    (clearPending s).pending = s.pending ∧ (clearPending s).uptime = s.uptime ∧ (clearPending s).drawn = s.drawn ∧
      (clearPending s).seq = s.seq ∧ (clearPending s).mem = s.mem ∧ (clearPending s).stash = s.stash ∧
      (clearPending s).link = s.link ∧ (clearPending s).time = s.time ∧ (clearPending s).coll = s.coll ∧
      (clearPending s).commit = s.commit ∧ (clearPending s).rsl = s.rsl ∧ (clearPending s).eth = s.eth ∧
      (clearPending s).sec = s.sec ∧ (clearPending s).pwr = s.pwr ∧ (clearPending s).mon = s.mon ∧
      (clearPending s).outbox = s.outbox := by
  unfold clearPending; simp

@[simp] theorem restoreDraws_keeps (s : State) :
    (restoreDraws s).pending = s.pending ∧ (restoreDraws s).uptime = s.uptime ∧ (restoreDraws s).drawn = s.drawn ∧
      (restoreDraws s).seq = s.seq ∧ (restoreDraws s).mem = s.mem ∧ (restoreDraws s).stash = s.stash ∧
      (restoreDraws s).link = s.link ∧ (restoreDraws s).time = s.time ∧ (restoreDraws s).coll = s.coll ∧
      (restoreDraws s).commit = s.commit ∧ (restoreDraws s).rsl = s.rsl ∧ (restoreDraws s).eth = s.eth ∧
      (restoreDraws s).sec = s.sec ∧ (restoreDraws s).pwr = s.pwr ∧ (restoreDraws s).mon = s.mon ∧
      (restoreDraws s).outbox = s.outbox := by
  unfold restoreDraws; simp

@[simp] theorem commitEffects_keeps (s : State) (skip : Bool) (maxima : List Word) :
    (commitEffects s skip maxima).pending = s.pending ∧ (commitEffects s skip maxima).uptime = s.uptime ∧
      (commitEffects s skip maxima).drawn = s.drawn ∧ (commitEffects s skip maxima).time = s.time ∧
      (commitEffects s skip maxima).pwr = s.pwr := by
  unfold commitEffects; (repeat' split) <;> simp

@[simp] theorem writeRecord_keeps (s : State) (r : List Byte) :
    (writeRecord s r).pending = s.pending ∧ (writeRecord s r).uptime = s.uptime ∧ (writeRecord s r).drawn = s.drawn ∧
      (writeRecord s r).time = s.time ∧ (writeRecord s r).pwr = s.pwr := by
  unfold writeRecord; simp

@[simp] theorem resetCounts_keeps (s : State) :
    (resetCounts s).pending = s.pending ∧ (resetCounts s).uptime = s.uptime ∧ (resetCounts s).drawn = s.drawn ∧
      (resetCounts s).cu = s.cu ∧ (resetCounts s).seq = s.seq ∧ (resetCounts s).mem = s.mem ∧
      (resetCounts s).stash = s.stash ∧ (resetCounts s).time = s.time ∧ (resetCounts s).commit = s.commit ∧
      (resetCounts s).rsl = s.rsl ∧ (resetCounts s).eth = s.eth ∧ (resetCounts s).sec = s.sec ∧ (resetCounts s).pwr = s.pwr ∧
      (resetCounts s).mon = s.mon ∧ (resetCounts s).outbox = s.outbox := by
  unfold resetCounts; simp

@[simp] theorem rejoinTree_keeps (s : State) :
    (rejoinTree s).pending = s.pending ∧ (rejoinTree s).uptime = s.uptime ∧ (rejoinTree s).drawn = s.drawn ∧
      (rejoinTree s).cu = s.cu ∧ (rejoinTree s).seq = s.seq ∧ (rejoinTree s).mem = s.mem ∧ (rejoinTree s).stash = s.stash ∧
      (rejoinTree s).time = s.time ∧ (rejoinTree s).coll = s.coll ∧ (rejoinTree s).commit = s.commit ∧
      (rejoinTree s).rsl = s.rsl ∧ (rejoinTree s).eth = s.eth ∧ (rejoinTree s).sec = s.sec ∧ (rejoinTree s).pwr = s.pwr ∧
      (rejoinTree s).mon = s.mon ∧ (rejoinTree s).outbox = s.outbox := by
  unfold rejoinTree; simp

@[simp] theorem commitWith_keeps (s : State) (bs : List Byte) :
    (commitWith s bs).pending = s.pending ∧ (commitWith s bs).uptime = s.uptime ∧ (commitWith s bs).drawn = s.drawn ∧
      (commitWith s bs).time = s.time ∧ (commitWith s bs).pwr = s.pwr := by
  unfold commitWith; simp

@[simp] theorem completeStep_keeps (s : State) :
    (completeStep s).pending = s.pending ∧ (completeStep s).uptime = s.uptime ∧ (completeStep s).drawn = s.drawn ∧
      (completeStep s).stash = s.stash ∧ (completeStep s).link = s.link ∧ (completeStep s).time = s.time ∧
      (completeStep s).eth = s.eth ∧ (completeStep s).sec = s.sec ∧ (completeStep s).pwr = s.pwr ∧
      (completeStep s).mon = s.mon ∧ (completeStep s).outbox = s.outbox := by
  unfold completeStep; simp

@[simp] theorem skipLimit_keeps (s : State) :
    (skipLimit s).pending = s.pending ∧ (skipLimit s).uptime = s.uptime ∧ (skipLimit s).drawn = s.drawn ∧
      (skipLimit s).cu = s.cu ∧ (skipLimit s).mem = s.mem ∧ (skipLimit s).stash = s.stash ∧ (skipLimit s).time = s.time ∧
      (skipLimit s).coll = s.coll ∧ (skipLimit s).rsl = s.rsl ∧ (skipLimit s).pwr = s.pwr := by
  unfold skipLimit; (repeat' split) <;> simp [apply_ite]

@[simp] theorem askLost_keeps (s : State) :
    (askLost s).pending = s.pending ∧ (askLost s).uptime = s.uptime ∧ (askLost s).drawn = s.drawn ∧ (askLost s).cu = s.cu ∧
      (askLost s).seq = s.seq ∧ (askLost s).mem = s.mem ∧ (askLost s).stash = s.stash ∧ (askLost s).time = s.time ∧
      (askLost s).coll = s.coll ∧ (askLost s).commit = s.commit ∧ (askLost s).rsl = s.rsl ∧ (askLost s).sec = s.sec ∧
      (askLost s).pwr = s.pwr := by
  unfold askLost; (repeat' split) <;> simp

@[simp] theorem quietPoint_keeps (s : State) :
    (quietPoint s).pending = s.pending ∧ (quietPoint s).uptime = s.uptime ∧ (quietPoint s).drawn = s.drawn ∧
      (quietPoint s).time = s.time ∧ (quietPoint s).pwr = s.pwr := by
  unfold quietPoint; (repeat' split) <;> simp

@[simp] theorem enterRelease_keeps (s : State) :
    (enterRelease s).pending = s.pending ∧ (enterRelease s).uptime = s.uptime ∧ (enterRelease s).drawn = s.drawn ∧
      (enterRelease s).cu = s.cu ∧ (enterRelease s).seq = s.seq ∧ (enterRelease s).mem = s.mem ∧
      (enterRelease s).stash = s.stash ∧ (enterRelease s).link = s.link ∧ (enterRelease s).time = s.time ∧
      (enterRelease s).coll = s.coll ∧ (enterRelease s).commit = s.commit ∧ (enterRelease s).eth = s.eth ∧
      (enterRelease s).sec = s.sec ∧ (enterRelease s).pwr = s.pwr ∧ (enterRelease s).mon = s.mon ∧
      (enterRelease s).outbox = s.outbox := by
  unfold enterRelease; (repeat' split) <;> simp

@[simp] theorem writeImage_keeps (s : State) (img : List Byte) :
    (writeImage s img).pending = s.pending ∧ (writeImage s img).uptime = s.uptime ∧ (writeImage s img).drawn = s.drawn ∧
      (writeImage s img).cu = s.cu ∧ (writeImage s img).seq = s.seq ∧ (writeImage s img).stash = s.stash ∧
      (writeImage s img).link = s.link ∧ (writeImage s img).time = s.time ∧ (writeImage s img).coll = s.coll ∧
      (writeImage s img).commit = s.commit ∧ (writeImage s img).rsl = s.rsl ∧ (writeImage s img).eth = s.eth ∧
      (writeImage s img).sec = s.sec ∧ (writeImage s img).pwr = s.pwr ∧ (writeImage s img).mon = s.mon ∧
      (writeImage s img).outbox = s.outbox := by
  unfold writeImage; simp

@[simp] theorem placeInitial_keeps (s : State) (img : List Byte) (codeOnly : Bool) :
    (placeInitial s img codeOnly).pending = s.pending ∧ (placeInitial s img codeOnly).uptime = s.uptime ∧
      (placeInitial s img codeOnly).drawn = s.drawn ∧ (placeInitial s img codeOnly).cu = s.cu ∧
      (placeInitial s img codeOnly).seq = s.seq ∧ (placeInitial s img codeOnly).stash = s.stash ∧
      (placeInitial s img codeOnly).link = s.link ∧ (placeInitial s img codeOnly).time = s.time ∧
      (placeInitial s img codeOnly).coll = s.coll ∧ (placeInitial s img codeOnly).commit = s.commit ∧
      (placeInitial s img codeOnly).rsl = s.rsl ∧ (placeInitial s img codeOnly).eth = s.eth ∧
      (placeInitial s img codeOnly).sec = s.sec ∧ (placeInitial s img codeOnly).pwr = s.pwr ∧
      (placeInitial s img codeOnly).mon = s.mon ∧ (placeInitial s img codeOnly).outbox = s.outbox := by
  unfold placeInitial; (repeat' split) <;> simp [apply_ite]

@[simp] theorem loadImage_keeps (s : State) (img : List Byte) :
    (loadImage s img).pending = s.pending ∧ (loadImage s img).uptime = s.uptime ∧ (loadImage s img).drawn = s.drawn ∧
      (loadImage s img).cu = s.cu ∧ (loadImage s img).stash = s.stash ∧ (loadImage s img).link = s.link ∧
      (loadImage s img).time = s.time ∧ (loadImage s img).coll = s.coll ∧ (loadImage s img).commit = s.commit ∧
      (loadImage s img).rsl = s.rsl ∧ (loadImage s img).eth = s.eth ∧ (loadImage s img).sec = s.sec ∧
      (loadImage s img).pwr = s.pwr ∧ (loadImage s img).mon = s.mon ∧ (loadImage s img).outbox = s.outbox := by
  unfold loadImage; simp

@[simp] theorem clearStep_keeps (s : State) :
    (clearStep s).pending = s.pending ∧ (clearStep s).uptime = s.uptime ∧ (clearStep s).drawn = s.drawn ∧
      (clearStep s).time = s.time ∧ (clearStep s).rsl = s.rsl ∧ (clearStep s).eth = s.eth ∧ (clearStep s).sec = s.sec ∧
      (clearStep s).pwr = s.pwr ∧ (clearStep s).outbox = s.outbox := by
  unfold clearStep; simp

@[simp] theorem loadRecord_keeps (s : State) (r : StateRecord) :
    (loadRecord s r).pending = s.pending ∧ (loadRecord s r).uptime = s.uptime ∧ (loadRecord s r).drawn = s.drawn ∧
      (loadRecord s r).mem = s.mem ∧ (loadRecord s r).stash = s.stash ∧ (loadRecord s r).link = s.link ∧
      (loadRecord s r).time = s.time ∧ (loadRecord s r).rsl = s.rsl ∧ (loadRecord s r).sec = s.sec ∧
      (loadRecord s r).pwr = s.pwr ∧ (loadRecord s r).mon = s.mon ∧ (loadRecord s r).outbox = s.outbox := by
  unfold loadRecord; simp

@[simp] theorem correctDraw_keeps (cursor : DWord) (s : State) (e : List Byte) :
    (correctDraw cursor s e).pending = s.pending ∧ (correctDraw cursor s e).uptime = s.uptime ∧
      (correctDraw cursor s e).drawn = s.drawn ∧ (correctDraw cursor s e).seq = s.seq ∧
      (correctDraw cursor s e).mem = s.mem ∧ (correctDraw cursor s e).stash = s.stash ∧
      (correctDraw cursor s e).link = s.link ∧ (correctDraw cursor s e).time = s.time ∧
      (correctDraw cursor s e).coll = s.coll ∧ (correctDraw cursor s e).commit = s.commit ∧
      (correctDraw cursor s e).sec = s.sec ∧ (correctDraw cursor s e).pwr = s.pwr ∧ (correctDraw cursor s e).mon = s.mon ∧
      (correctDraw cursor s e).outbox = s.outbox := by
  unfold correctDraw; (repeat' split) <;> simp [apply_ite]

@[simp] theorem loadCorrected_keeps (s : State) (r : StateRecord) :
    (loadCorrected s r).pending = s.pending ∧ (loadCorrected s r).uptime = s.uptime ∧ (loadCorrected s r).drawn = s.drawn ∧
      (loadCorrected s r).mem = s.mem ∧ (loadCorrected s r).stash = s.stash ∧ (loadCorrected s r).link = s.link ∧
      (loadCorrected s r).time = s.time ∧ (loadCorrected s r).sec = s.sec ∧ (loadCorrected s r).pwr = s.pwr ∧
      (loadCorrected s r).mon = s.mon ∧ (loadCorrected s r).outbox = s.outbox := by
  unfold loadCorrected; simp

@[simp] theorem rewindTo_keeps (s : State) (r : StateRecord) :
    (rewindTo s r).pending = s.pending ∧ (rewindTo s r).uptime = s.uptime ∧ (rewindTo s r).drawn = s.drawn ∧
      (rewindTo s r).time = s.time ∧ (rewindTo s r).sec = s.sec ∧ (rewindTo s r).pwr = s.pwr ∧
      (rewindTo s r).outbox = s.outbox := by
  unfold rewindTo; simp

@[simp] theorem rekeySalt_keeps (s : State) :
    (rekeySalt s).pending = s.pending ∧ (rekeySalt s).uptime = s.uptime ∧ (rekeySalt s).drawn = s.drawn ∧
      (rekeySalt s).cu = s.cu ∧ (rekeySalt s).seq = s.seq ∧ (rekeySalt s).stash = s.stash ∧ (rekeySalt s).link = s.link ∧
      (rekeySalt s).time = s.time ∧ (rekeySalt s).coll = s.coll ∧ (rekeySalt s).commit = s.commit ∧
      (rekeySalt s).rsl = s.rsl ∧ (rekeySalt s).eth = s.eth ∧ (rekeySalt s).sec = s.sec ∧ (rekeySalt s).pwr = s.pwr ∧
      (rekeySalt s).mon = s.mon ∧ (rekeySalt s).outbox = s.outbox := by
  unfold rekeySalt; simp

@[simp] theorem rekey_keeps (s : State) :
    (rekey s).pending = s.pending ∧ (rekey s).uptime = s.uptime ∧ (rekey s).drawn = s.drawn ∧ (rekey s).time = s.time ∧
      (rekey s).pwr = s.pwr := by
  unfold rekey; (repeat' split) <;> simp

@[simp] theorem fetchReplay_keeps (s : State) (n : Nat) :
    (fetchReplay s n).pending = s.pending ∧ (fetchReplay s n).uptime = s.uptime ∧ (fetchReplay s n).drawn = s.drawn ∧
      (fetchReplay s n).cu = s.cu ∧ (fetchReplay s n).seq = s.seq ∧ (fetchReplay s n).mem = s.mem ∧
      (fetchReplay s n).stash = s.stash ∧ (fetchReplay s n).link = s.link ∧ (fetchReplay s n).time = s.time ∧
      (fetchReplay s n).coll = s.coll ∧ (fetchReplay s n).commit = s.commit ∧ (fetchReplay s n).sec = s.sec ∧
      (fetchReplay s n).pwr = s.pwr ∧ (fetchReplay s n).mon = s.mon := by
  unfold fetchReplay; (repeat' split) <;> simp

@[simp] theorem startRestore_keeps (s : State) (target : DWord) :
    (startRestore s target).pending = s.pending ∧ (startRestore s target).uptime = s.uptime ∧
      (startRestore s target).drawn = s.drawn ∧ (startRestore s target).time = s.time ∧ (startRestore s target).pwr = s.pwr := by
  unfold startRestore; simp

@[simp] theorem decideWith_keeps (s : State) (q : RecoveryPayload) :
    (decideWith s q).pending = s.pending ∧ (decideWith s q).uptime = s.uptime ∧ (decideWith s q).drawn = s.drawn ∧
      (decideWith s q).time = s.time ∧ (decideWith s q).pwr = s.pwr := by
  unfold decideWith; (repeat' split) <;> simp

@[simp] theorem damageCopy_keeps (s : State) (n : Nat) (l : Layer) :
    (damageCopy s n l).pending = s.pending ∧ (damageCopy s n l).uptime = s.uptime ∧ (damageCopy s n l).drawn = s.drawn ∧
      (damageCopy s n l).cu = s.cu ∧ (damageCopy s n l).seq = s.seq ∧ (damageCopy s n l).mem = s.mem ∧
      (damageCopy s n l).stash = s.stash ∧ (damageCopy s n l).time = s.time ∧ (damageCopy s n l).coll = s.coll ∧
      (damageCopy s n l).commit = s.commit ∧ (damageCopy s n l).eth = s.eth ∧ (damageCopy s n l).sec = s.sec ∧
      (damageCopy s n l).pwr = s.pwr := by
  unfold damageCopy; (repeat' split) <;> simp [apply_ite]

@[simp] theorem logRejected_keeps (s : State) (n : Nat) (l : Layer) (b : List Byte) :
    (logRejected s n l b).pending = s.pending ∧ (logRejected s n l b).uptime = s.uptime ∧
      (logRejected s n l b).drawn = s.drawn ∧ (logRejected s n l b).cu = s.cu ∧ (logRejected s n l b).seq = s.seq ∧
      (logRejected s n l b).mem = s.mem ∧ (logRejected s n l b).stash = s.stash ∧ (logRejected s n l b).link = s.link ∧
      (logRejected s n l b).time = s.time ∧ (logRejected s n l b).coll = s.coll ∧ (logRejected s n l b).commit = s.commit ∧
      (logRejected s n l b).rsl = s.rsl ∧ (logRejected s n l b).eth = s.eth ∧ (logRejected s n l b).pwr = s.pwr ∧
      (logRejected s n l b).mon = s.mon ∧ (logRejected s n l b).outbox = s.outbox := by
  unfold logRejected; (repeat' split) <;> simp

@[simp] theorem checkRecord_keeps (s : State) (n : Nat) (l : Layer) (b : List Byte) :
    (checkRecord s n l b).1.pending = s.pending ∧ (checkRecord s n l b).1.uptime = s.uptime ∧
      (checkRecord s n l b).1.drawn = s.drawn ∧ (checkRecord s n l b).1.cu = s.cu ∧ (checkRecord s n l b).1.seq = s.seq ∧
      (checkRecord s n l b).1.mem = s.mem ∧ (checkRecord s n l b).1.stash = s.stash ∧ (checkRecord s n l b).1.link = s.link ∧
      (checkRecord s n l b).1.time = s.time ∧ (checkRecord s n l b).1.coll = s.coll ∧
      (checkRecord s n l b).1.commit = s.commit ∧ (checkRecord s n l b).1.rsl = s.rsl ∧ (checkRecord s n l b).1.eth = s.eth ∧
      (checkRecord s n l b).1.pwr = s.pwr ∧ (checkRecord s n l b).1.mon = s.mon ∧ (checkRecord s n l b).1.outbox = s.outbox := by
  unfold checkRecord; (repeat' split) <;> simp

@[simp] theorem askPage_keeps (s : State) (slot page : Nat) (l : Layer) :
    (askPage s slot page l).pending = s.pending ∧ (askPage s slot page l).uptime = s.uptime ∧
      (askPage s slot page l).drawn = s.drawn ∧ (askPage s slot page l).cu = s.cu ∧ (askPage s slot page l).seq = s.seq ∧
      (askPage s slot page l).mem = s.mem ∧ (askPage s slot page l).stash = s.stash ∧ (askPage s slot page l).time = s.time ∧
      (askPage s slot page l).coll = s.coll ∧ (askPage s slot page l).commit = s.commit ∧
      (askPage s slot page l).rsl = s.rsl ∧ (askPage s slot page l).sec = s.sec ∧ (askPage s slot page l).pwr = s.pwr := by
  unfold askPage; (repeat' split) <;> simp

@[simp] theorem putHome_keeps (s : State) (k : Nat) (b : List Byte) :
    (putHome s k b).pending = s.pending ∧ (putHome s k b).uptime = s.uptime ∧ (putHome s k b).drawn = s.drawn ∧
      (putHome s k b).cu = s.cu ∧ (putHome s k b).seq = s.seq ∧ (putHome s k b).stash = s.stash ∧
      (putHome s k b).link = s.link ∧ (putHome s k b).time = s.time ∧ (putHome s k b).coll = s.coll ∧
      (putHome s k b).commit = s.commit ∧ (putHome s k b).rsl = s.rsl ∧ (putHome s k b).eth = s.eth ∧
      (putHome s k b).sec = s.sec ∧ (putHome s k b).pwr = s.pwr ∧ (putHome s k b).mon = s.mon ∧
      (putHome s k b).outbox = s.outbox := by
  unfold putHome; simp

@[simp] theorem takeRelation_keeps (s : State) (r : StateRecord) :
    (takeRelation s r).pending = s.pending ∧ (takeRelation s r).uptime = s.uptime ∧ (takeRelation s r).drawn = s.drawn ∧
      (takeRelation s r).cu = s.cu ∧ (takeRelation s r).seq = s.seq ∧ (takeRelation s r).mem = s.mem ∧
      (takeRelation s r).stash = s.stash ∧ (takeRelation s r).time = s.time ∧ (takeRelation s r).coll = s.coll ∧
      (takeRelation s r).commit = s.commit ∧ (takeRelation s r).sec = s.sec ∧ (takeRelation s r).pwr = s.pwr := by
  unfold takeRelation; (repeat' split) <;> simp

@[simp] theorem finishRestore_keeps (s : State) (r : StateRecord) :
    (finishRestore s r).pending = s.pending ∧ (finishRestore s r).uptime = s.uptime ∧ (finishRestore s r).drawn = s.drawn ∧
      (finishRestore s r).stash = s.stash ∧ (finishRestore s r).time = s.time ∧ (finishRestore s r).sec = s.sec ∧
      (finishRestore s r).pwr = s.pwr := by
  unfold finishRestore; simp

@[simp] theorem tryFinish_keeps (s : State) :
    (tryFinish s).pending = s.pending ∧ (tryFinish s).uptime = s.uptime ∧ (tryFinish s).drawn = s.drawn ∧
      (tryFinish s).stash = s.stash ∧ (tryFinish s).time = s.time ∧ (tryFinish s).sec = s.sec ∧ (tryFinish s).pwr = s.pwr := by
  unfold tryFinish; (repeat' split) <;> simp

@[simp] theorem pageFromFlash_keeps (s : State) (n k : Nat) :
    (pageFromFlash s n k).pending = s.pending ∧ (pageFromFlash s n k).uptime = s.uptime ∧
      (pageFromFlash s n k).drawn = s.drawn ∧ (pageFromFlash s n k).cu = s.cu ∧ (pageFromFlash s n k).seq = s.seq ∧
      (pageFromFlash s n k).stash = s.stash ∧ (pageFromFlash s n k).link = s.link ∧ (pageFromFlash s n k).time = s.time ∧
      (pageFromFlash s n k).coll = s.coll ∧ (pageFromFlash s n k).commit = s.commit ∧ (pageFromFlash s n k).rsl = s.rsl ∧
      (pageFromFlash s n k).eth = s.eth ∧ (pageFromFlash s n k).sec = s.sec ∧ (pageFromFlash s n k).pwr = s.pwr ∧
      (pageFromFlash s n k).mon = s.mon ∧ (pageFromFlash s n k).outbox = s.outbox := by
  unfold pageFromFlash; simp

set_option maxRecDepth 20000 in
@[simp] theorem readFlash_keeps (s : State) (n : Nat) (failed : List Nat) :
    (readFlash s n failed).1.pending = s.pending ∧ (readFlash s n failed).1.uptime = s.uptime ∧
      (readFlash s n failed).1.drawn = s.drawn ∧ (readFlash s n failed).1.cu = s.cu ∧ (readFlash s n failed).1.seq = s.seq ∧
      (readFlash s n failed).1.stash = s.stash ∧ (readFlash s n failed).1.time = s.time ∧
      (readFlash s n failed).1.coll = s.coll ∧ (readFlash s n failed).1.commit = s.commit ∧
      (readFlash s n failed).1.eth = s.eth ∧ (readFlash s n failed).1.pwr = s.pwr := by
  unfold readFlash; dsimp only
  repeat' split
  all_goals simp only [checkRecord_keeps, damageCopy_keeps, pageFromFlash_keeps, foldl_pending, foldl_uptime, foldl_drawn,
      foldl_cu, foldl_seq, foldl_stash, foldl_time, foldl_coll, foldl_commit, foldl_eth, foldl_pwr,

      and_self, implies_true]

@[simp] theorem beginLayer_keeps (s : State) :
    (beginLayer s).pending = s.pending ∧ (beginLayer s).uptime = s.uptime ∧ (beginLayer s).drawn = s.drawn ∧
      (beginLayer s).cu = s.cu ∧ (beginLayer s).seq = s.seq ∧ (beginLayer s).mem = s.mem ∧ (beginLayer s).stash = s.stash ∧
      (beginLayer s).time = s.time ∧ (beginLayer s).coll = s.coll ∧ (beginLayer s).commit = s.commit ∧
      (beginLayer s).sec = s.sec ∧ (beginLayer s).pwr = s.pwr := by
  unfold beginLayer; (repeat' split) <;> simp

@[simp] theorem imageRead_keeps (s : State) (img : List Byte) :
    (imageRead s img).pending = s.pending ∧ (imageRead s img).uptime = s.uptime ∧ (imageRead s img).drawn = s.drawn ∧
      (imageRead s img).cu = s.cu ∧ (imageRead s img).seq = s.seq ∧ (imageRead s img).stash = s.stash ∧
      (imageRead s img).time = s.time ∧ (imageRead s img).coll = s.coll ∧ (imageRead s img).commit = s.commit ∧
      (imageRead s img).sec = s.sec ∧ (imageRead s img).pwr = s.pwr := by
  unfold imageRead; (repeat' split) <;> simp

@[simp] theorem pageRead_keeps (s : State) (page : Nat) (b : Option (List Byte)) :
    (pageRead s page b).pending = s.pending ∧ (pageRead s page b).uptime = s.uptime ∧ (pageRead s page b).drawn = s.drawn ∧
      (pageRead s page b).stash = s.stash ∧ (pageRead s page b).time = s.time ∧ (pageRead s page b).pwr = s.pwr := by
  unfold pageRead; (repeat' split) <;> simp [apply_ite]

@[simp] theorem flashArrived_keeps (s : State) (failed : List Nat) :
    (flashArrived s failed).pending = s.pending ∧ (flashArrived s failed).uptime = s.uptime ∧
      (flashArrived s failed).drawn = s.drawn ∧ (flashArrived s failed).stash = s.stash ∧
      (flashArrived s failed).time = s.time ∧ (flashArrived s failed).pwr = s.pwr := by
  unfold flashArrived; (repeat' split) <;> simp [apply_ite]

@[simp] theorem replayRead_keeps (s : State) (b : List Byte) :
    (replayRead s b).pending = s.pending ∧ (replayRead s b).uptime = s.uptime ∧ (replayRead s b).drawn = s.drawn ∧
      (replayRead s b).stash = s.stash ∧ (replayRead s b).time = s.time ∧ (replayRead s b).sec = s.sec ∧
      (replayRead s b).pwr = s.pwr := by
  unfold replayRead; simp

@[simp] theorem restartWith_keeps (s : State) (r : StateRecord) (origin : DWord) :
    (restartWith s r origin).pending = s.pending ∧ (restartWith s r origin).uptime = s.uptime ∧
      (restartWith s r origin).drawn = s.drawn ∧ (restartWith s r origin).cu = s.cu ∧ (restartWith s r origin).mem = s.mem ∧
      (restartWith s r origin).stash = s.stash ∧ (restartWith s r origin).link = s.link ∧
      (restartWith s r origin).coll = s.coll ∧ (restartWith s r origin).commit = s.commit ∧
      (restartWith s r origin).sec = s.sec ∧ (restartWith s r origin).pwr = s.pwr ∧ (restartWith s r origin).mon = s.mon ∧
      (restartWith s r origin).outbox = s.outbox := by
  unfold restartWith; (repeat' split) <;> simp

@[simp] theorem releaseWith_keeps (s : State) (mismatch : Bool) :
    (releaseWith s mismatch).pending = s.pending ∧ (releaseWith s mismatch).uptime = s.uptime ∧
      (releaseWith s mismatch).drawn = s.drawn ∧ (releaseWith s mismatch).cu = s.cu ∧ (releaseWith s mismatch).seq = s.seq ∧
      (releaseWith s mismatch).mem = s.mem ∧ (releaseWith s mismatch).stash = s.stash ∧
      (releaseWith s mismatch).link = s.link ∧ (releaseWith s mismatch).time = s.time ∧
      (releaseWith s mismatch).coll = s.coll ∧ (releaseWith s mismatch).commit = s.commit ∧
      (releaseWith s mismatch).sec = s.sec ∧ (releaseWith s mismatch).pwr = s.pwr ∧ (releaseWith s mismatch).mon = s.mon ∧
      (releaseWith s mismatch).outbox = s.outbox := by
  unfold releaseWith; (repeat' split) <;> simp

@[simp] theorem startPace_keeps (s : State) :
    (startPace s).pending = s.pending ∧ (startPace s).uptime = s.uptime ∧ (startPace s).drawn = s.drawn ∧
      (startPace s).cu = s.cu ∧ (startPace s).seq = s.seq ∧ (startPace s).mem = s.mem ∧ (startPace s).stash = s.stash ∧
      (startPace s).link = s.link ∧ (startPace s).time = s.time ∧ (startPace s).coll = s.coll ∧
      (startPace s).commit = s.commit ∧ (startPace s).rsl = s.rsl ∧ (startPace s).eth = s.eth ∧ (startPace s).sec = s.sec ∧
      (startPace s).mon = s.mon ∧ (startPace s).outbox = s.outbox := by
  unfold startPace; simp

@[simp] theorem startJob_keeps (s : State) :
    (startJob s).pending = s.pending ∧ (startJob s).uptime = s.uptime ∧ (startJob s).drawn = s.drawn ∧
      (startJob s).time = s.time ∧ (startJob s).sec = s.sec ∧ (startJob s).outbox = s.outbox := by
  unfold startJob; simp

@[simp] theorem writeIdentity_keeps (s : State) :
    (writeIdentity s).pending = s.pending ∧ (writeIdentity s).uptime = s.uptime ∧ (writeIdentity s).drawn = s.drawn ∧
      (writeIdentity s).cu = s.cu ∧ (writeIdentity s).seq = s.seq ∧ (writeIdentity s).mem = s.mem ∧
      (writeIdentity s).stash = s.stash ∧ (writeIdentity s).link = s.link ∧ (writeIdentity s).time = s.time ∧
      (writeIdentity s).coll = s.coll ∧ (writeIdentity s).commit = s.commit ∧ (writeIdentity s).rsl = s.rsl ∧
      (writeIdentity s).eth = s.eth ∧ (writeIdentity s).pwr = s.pwr ∧ (writeIdentity s).mon = s.mon ∧
      (writeIdentity s).outbox = s.outbox := by
  unfold writeIdentity; simp

@[simp] theorem countDenied_keeps (s : State) :
    (countDenied s).pending = s.pending ∧ (countDenied s).uptime = s.uptime ∧ (countDenied s).drawn = s.drawn ∧
      (countDenied s).cu = s.cu ∧ (countDenied s).seq = s.seq ∧ (countDenied s).mem = s.mem ∧
      (countDenied s).stash = s.stash ∧ (countDenied s).link = s.link ∧ (countDenied s).time = s.time ∧
      (countDenied s).coll = s.coll ∧ (countDenied s).commit = s.commit ∧ (countDenied s).rsl = s.rsl ∧
      (countDenied s).eth = s.eth ∧ (countDenied s).pwr = s.pwr ∧ (countDenied s).mon = s.mon ∧
      (countDenied s).outbox = s.outbox := by
  unfold countDenied; simp

@[simp] theorem denyWrite_keeps (s : State) (offset value : Nat) :
    (denyWrite s offset value).pending = s.pending ∧ (denyWrite s offset value).uptime = s.uptime ∧
      (denyWrite s offset value).drawn = s.drawn ∧ (denyWrite s offset value).cu = s.cu ∧
      (denyWrite s offset value).seq = s.seq ∧ (denyWrite s offset value).mem = s.mem ∧
      (denyWrite s offset value).stash = s.stash ∧ (denyWrite s offset value).link = s.link ∧
      (denyWrite s offset value).time = s.time ∧ (denyWrite s offset value).coll = s.coll ∧
      (denyWrite s offset value).commit = s.commit ∧ (denyWrite s offset value).rsl = s.rsl ∧
      (denyWrite s offset value).eth = s.eth ∧ (denyWrite s offset value).pwr = s.pwr ∧
      (denyWrite s offset value).mon = s.mon ∧ (denyWrite s offset value).outbox = s.outbox := by
  unfold denyWrite; simp

@[simp] theorem fenceWrite_keeps (s : State) (value : Word) :
    (fenceWrite s value).pending = s.pending ∧ (fenceWrite s value).uptime = s.uptime ∧
      (fenceWrite s value).drawn = s.drawn ∧ (fenceWrite s value).time = s.time := by
  unfold fenceWrite; (repeat' split) <;> simp [apply_ite]

@[simp] theorem takeOver_keeps (s : State) (spare core : Nat) :
    (takeOver s spare core).pending = s.pending ∧ (takeOver s spare core).uptime = s.uptime ∧
      (takeOver s spare core).drawn = s.drawn ∧ (takeOver s spare core).seq = s.seq ∧ (takeOver s spare core).mem = s.mem ∧
      (takeOver s spare core).stash = s.stash ∧ (takeOver s spare core).link = s.link ∧
      (takeOver s spare core).time = s.time ∧ (takeOver s spare core).coll = s.coll ∧
      (takeOver s spare core).commit = s.commit ∧ (takeOver s spare core).rsl = s.rsl ∧ (takeOver s spare core).eth = s.eth ∧
      (takeOver s spare core).mon = s.mon ∧ (takeOver s spare core).outbox = s.outbox := by
  unfold takeOver; (repeat' split) <;> simp [apply_ite]

@[simp] theorem dropFrame_keeps (s : State) :
    (dropFrame s).pending = s.pending ∧ (dropFrame s).uptime = s.uptime ∧ (dropFrame s).drawn = s.drawn ∧
      (dropFrame s).cu = s.cu ∧ (dropFrame s).seq = s.seq ∧ (dropFrame s).mem = s.mem ∧ (dropFrame s).stash = s.stash ∧
      (dropFrame s).link = s.link ∧ (dropFrame s).time = s.time ∧ (dropFrame s).coll = s.coll ∧
      (dropFrame s).commit = s.commit ∧ (dropFrame s).rsl = s.rsl ∧ (dropFrame s).eth = s.eth ∧ (dropFrame s).pwr = s.pwr ∧
      (dropFrame s).mon = s.mon ∧ (dropFrame s).outbox = s.outbox := by
  unfold dropFrame; simp

@[simp] theorem respond_keeps (s : State) (f : Frame) (status : Nat) (words : List Word) :
    (respond s f status words).pending = s.pending ∧ (respond s f status words).uptime = s.uptime ∧
      (respond s f status words).drawn = s.drawn ∧ (respond s f status words).cu = s.cu ∧
      (respond s f status words).seq = s.seq ∧ (respond s f status words).mem = s.mem ∧
      (respond s f status words).stash = s.stash ∧ (respond s f status words).link = s.link ∧
      (respond s f status words).time = s.time ∧ (respond s f status words).coll = s.coll ∧
      (respond s f status words).commit = s.commit ∧ (respond s f status words).rsl = s.rsl ∧
      (respond s f status words).eth = s.eth ∧ (respond s f status words).sec = s.sec ∧
      (respond s f status words).pwr = s.pwr ∧ (respond s f status words).mon = s.mon := by
  unfold respond; simp

@[simp] theorem forwardFrame_keeps (s : State) (f : Frame) :
    (forwardFrame s f).pending = s.pending ∧ (forwardFrame s f).uptime = s.uptime ∧ (forwardFrame s f).drawn = s.drawn ∧
      (forwardFrame s f).cu = s.cu ∧ (forwardFrame s f).seq = s.seq ∧ (forwardFrame s f).mem = s.mem ∧
      (forwardFrame s f).stash = s.stash ∧ (forwardFrame s f).link = s.link ∧ (forwardFrame s f).time = s.time ∧
      (forwardFrame s f).coll = s.coll ∧ (forwardFrame s f).commit = s.commit ∧ (forwardFrame s f).rsl = s.rsl ∧
      (forwardFrame s f).eth = s.eth ∧ (forwardFrame s f).sec = s.sec ∧ (forwardFrame s f).pwr = s.pwr ∧
      (forwardFrame s f).mon = s.mon := by
  unfold forwardFrame; simp

@[simp] theorem chooseParent_keeps (s : State) :
    (chooseParent s).pending = s.pending ∧ (chooseParent s).uptime = s.uptime ∧ (chooseParent s).drawn = s.drawn ∧
      (chooseParent s).cu = s.cu ∧ (chooseParent s).seq = s.seq ∧ (chooseParent s).mem = s.mem ∧
      (chooseParent s).stash = s.stash ∧ (chooseParent s).link = s.link ∧ (chooseParent s).coll = s.coll ∧
      (chooseParent s).commit = s.commit ∧ (chooseParent s).rsl = s.rsl ∧ (chooseParent s).eth = s.eth ∧
      (chooseParent s).sec = s.sec ∧ (chooseParent s).pwr = s.pwr ∧ (chooseParent s).mon = s.mon ∧
      (chooseParent s).outbox = s.outbox := by
  unfold chooseParent; (repeat' split) <;> simp

@[simp] theorem parentDisturbed_keeps (s : State) (p : Nat) :
    (parentDisturbed s p).pending = s.pending ∧ (parentDisturbed s p).uptime = s.uptime ∧
      (parentDisturbed s p).drawn = s.drawn ∧ (parentDisturbed s p).cu = s.cu ∧ (parentDisturbed s p).seq = s.seq ∧
      (parentDisturbed s p).mem = s.mem ∧ (parentDisturbed s p).stash = s.stash ∧ (parentDisturbed s p).link = s.link ∧
      (parentDisturbed s p).coll = s.coll ∧ (parentDisturbed s p).commit = s.commit ∧ (parentDisturbed s p).rsl = s.rsl ∧
      (parentDisturbed s p).eth = s.eth ∧ (parentDisturbed s p).sec = s.sec ∧ (parentDisturbed s p).pwr = s.pwr ∧
      (parentDisturbed s p).mon = s.mon ∧ (parentDisturbed s p).outbox = s.outbox := by
  unfold parentDisturbed; (repeat' split) <;> simp

@[simp] theorem raiseAlarm_keeps (s : State) :
    (raiseAlarm s).pending = s.pending ∧ (raiseAlarm s).uptime = s.uptime ∧ (raiseAlarm s).drawn = s.drawn ∧
      (raiseAlarm s).cu = s.cu ∧ (raiseAlarm s).seq = s.seq ∧ (raiseAlarm s).mem = s.mem ∧ (raiseAlarm s).stash = s.stash ∧
      (raiseAlarm s).link = s.link ∧ (raiseAlarm s).coll = s.coll ∧ (raiseAlarm s).commit = s.commit ∧
      (raiseAlarm s).rsl = s.rsl ∧ (raiseAlarm s).sec = s.sec ∧ (raiseAlarm s).pwr = s.pwr ∧ (raiseAlarm s).mon = s.mon ∧
      (raiseAlarm s).outbox = s.outbox := by
  unfold raiseAlarm; (repeat' split) <;> simp

@[simp] theorem correct_keeps (s : State) :
    (correct s).pending = s.pending ∧ (correct s).uptime = s.uptime ∧ (correct s).drawn = s.drawn ∧ (correct s).cu = s.cu ∧
      (correct s).seq = s.seq ∧ (correct s).mem = s.mem ∧ (correct s).stash = s.stash ∧ (correct s).link = s.link ∧
      (correct s).coll = s.coll ∧ (correct s).commit = s.commit ∧ (correct s).rsl = s.rsl ∧ (correct s).sec = s.sec ∧
      (correct s).pwr = s.pwr ∧ (correct s).mon = s.mon ∧ (correct s).outbox = s.outbox := by
  unfold correct; (repeat' split) <;> simp [apply_ite]

@[simp] theorem rootHoldover_keeps (s : State) :
    (rootHoldover s).pending = s.pending ∧ (rootHoldover s).uptime = s.uptime ∧ (rootHoldover s).drawn = s.drawn ∧
      (rootHoldover s).cu = s.cu ∧ (rootHoldover s).seq = s.seq ∧ (rootHoldover s).mem = s.mem ∧
      (rootHoldover s).stash = s.stash ∧ (rootHoldover s).link = s.link ∧ (rootHoldover s).coll = s.coll ∧
      (rootHoldover s).commit = s.commit ∧ (rootHoldover s).rsl = s.rsl ∧ (rootHoldover s).sec = s.sec ∧
      (rootHoldover s).pwr = s.pwr ∧ (rootHoldover s).mon = s.mon ∧ (rootHoldover s).outbox = s.outbox := by
  unfold rootHoldover; (repeat' split) <;> simp [apply_ite]

@[simp] theorem loadCounter_keeps (s : State) (v : DWord) :
    (loadCounter s v).pending = s.pending ∧ (loadCounter s v).uptime = s.uptime ∧ (loadCounter s v).drawn = s.drawn ∧
      (loadCounter s v).cu = s.cu ∧ (loadCounter s v).seq = s.seq ∧ (loadCounter s v).mem = s.mem ∧
      (loadCounter s v).stash = s.stash ∧ (loadCounter s v).coll = s.coll ∧ (loadCounter s v).commit = s.commit ∧
      (loadCounter s v).rsl = s.rsl ∧ (loadCounter s v).sec = s.sec ∧ (loadCounter s v).pwr = s.pwr ∧
      (loadCounter s v).mon = s.mon ∧ (loadCounter s v).outbox = s.outbox := by
  unfold loadCounter; simp

@[simp] theorem askDelay_keeps (s : State) (t1 t2 : Nat) :
    (askDelay s t1 t2).pending = s.pending ∧ (askDelay s t1 t2).uptime = s.uptime ∧ (askDelay s t1 t2).drawn = s.drawn ∧
      (askDelay s t1 t2).cu = s.cu ∧ (askDelay s t1 t2).seq = s.seq ∧ (askDelay s t1 t2).mem = s.mem ∧
      (askDelay s t1 t2).stash = s.stash ∧ (askDelay s t1 t2).link = s.link ∧ (askDelay s t1 t2).coll = s.coll ∧
      (askDelay s t1 t2).commit = s.commit ∧ (askDelay s t1 t2).rsl = s.rsl ∧ (askDelay s t1 t2).eth = s.eth ∧
      (askDelay s t1 t2).sec = s.sec ∧ (askDelay s t1 t2).pwr = s.pwr ∧ (askDelay s t1 t2).mon = s.mon := by
  unfold askDelay; simp

@[simp] theorem ptpExchange_keeps (s : State) (theta : Int) :
    (ptpExchange s theta).pending = s.pending ∧ (ptpExchange s theta).uptime = s.uptime ∧
      (ptpExchange s theta).drawn = s.drawn ∧ (ptpExchange s theta).cu = s.cu ∧ (ptpExchange s theta).seq = s.seq ∧
      (ptpExchange s theta).mem = s.mem ∧ (ptpExchange s theta).stash = s.stash ∧ (ptpExchange s theta).coll = s.coll ∧
      (ptpExchange s theta).commit = s.commit ∧ (ptpExchange s theta).rsl = s.rsl ∧ (ptpExchange s theta).sec = s.sec ∧
      (ptpExchange s theta).pwr = s.pwr ∧ (ptpExchange s theta).mon = s.mon ∧ (ptpExchange s theta).outbox = s.outbox := by
  unfold ptpExchange; (repeat' split) <;> simp [apply_ite]

@[simp] theorem ptpArrives_keeps (s : State) (k : PtpKind) :
    (ptpArrives s k).pending = s.pending ∧ (ptpArrives s k).uptime = s.uptime ∧ (ptpArrives s k).drawn = s.drawn ∧
      (ptpArrives s k).cu = s.cu ∧ (ptpArrives s k).seq = s.seq ∧ (ptpArrives s k).mem = s.mem ∧
      (ptpArrives s k).stash = s.stash ∧ (ptpArrives s k).coll = s.coll ∧ (ptpArrives s k).commit = s.commit ∧
      (ptpArrives s k).rsl = s.rsl ∧ (ptpArrives s k).sec = s.sec ∧ (ptpArrives s k).pwr = s.pwr ∧
      (ptpArrives s k).mon = s.mon := by
  unfold ptpArrives; (repeat' split) <;> simp

@[simp] theorem wakeEntry_keeps (s : State) (source target detail : Nat) (latched failed : Bool) :
    (wakeEntry s source target detail latched failed).pending = s.pending ∧
      (wakeEntry s source target detail latched failed).uptime = s.uptime ∧
      (wakeEntry s source target detail latched failed).drawn = s.drawn ∧
      (wakeEntry s source target detail latched failed).cu = s.cu ∧
      (wakeEntry s source target detail latched failed).seq = s.seq ∧
      (wakeEntry s source target detail latched failed).mem = s.mem ∧
      (wakeEntry s source target detail latched failed).stash = s.stash ∧
      (wakeEntry s source target detail latched failed).link = s.link ∧
      (wakeEntry s source target detail latched failed).time = s.time ∧
      (wakeEntry s source target detail latched failed).coll = s.coll ∧
      (wakeEntry s source target detail latched failed).commit = s.commit ∧
      (wakeEntry s source target detail latched failed).rsl = s.rsl ∧
      (wakeEntry s source target detail latched failed).eth = s.eth ∧
      (wakeEntry s source target detail latched failed).sec = s.sec ∧
      (wakeEntry s source target detail latched failed).mon = s.mon ∧
      (wakeEntry s source target detail latched failed).outbox = s.outbox := by
  unfold wakeEntry; simp

@[simp] theorem portOff_keeps (s : State) (p : Nat) :
    (portOff s p).pending = s.pending ∧ (portOff s p).uptime = s.uptime ∧ (portOff s p).drawn = s.drawn ∧
      (portOff s p).time = s.time ∧ (portOff s p).pwr = s.pwr := by
  unfold portOff; (repeat' split) <;> simp

@[simp] theorem dropUses_keeps (s : State) (uses : List TransferUse) :
    (dropUses s uses).pending = s.pending ∧ (dropUses s uses).uptime = s.uptime ∧ (dropUses s uses).drawn = s.drawn ∧
      (dropUses s uses).cu = s.cu ∧ (dropUses s uses).seq = s.seq ∧ (dropUses s uses).mem = s.mem ∧
      (dropUses s uses).stash = s.stash ∧ (dropUses s uses).link = s.link ∧ (dropUses s uses).time = s.time ∧
      (dropUses s uses).coll = s.coll ∧ (dropUses s uses).commit = s.commit ∧ (dropUses s uses).rsl = s.rsl ∧
      (dropUses s uses).sec = s.sec ∧ (dropUses s uses).pwr = s.pwr ∧ (dropUses s uses).mon = s.mon ∧
      (dropUses s uses).outbox = s.outbox := by
  unfold dropUses; simp

@[simp] theorem endClaim_keeps (s : State) :
    (endClaim s).pending = s.pending ∧ (endClaim s).uptime = s.uptime ∧ (endClaim s).drawn = s.drawn ∧
      (endClaim s).cu = s.cu ∧ (endClaim s).seq = s.seq ∧ (endClaim s).mem = s.mem ∧ (endClaim s).stash = s.stash ∧
      (endClaim s).link = s.link ∧ (endClaim s).time = s.time ∧ (endClaim s).coll = s.coll ∧ (endClaim s).commit = s.commit ∧
      (endClaim s).rsl = s.rsl ∧ (endClaim s).sec = s.sec ∧ (endClaim s).pwr = s.pwr ∧ (endClaim s).mon = s.mon ∧
      (endClaim s).outbox = s.outbox := by
  unfold endClaim; simp

@[simp] theorem endServices_keeps (s : State) :
    (endServices s).pending = s.pending ∧ (endServices s).uptime = s.uptime ∧ (endServices s).drawn = s.drawn ∧
      (endServices s).cu = s.cu ∧ (endServices s).seq = s.seq ∧ (endServices s).mem = s.mem ∧
      (endServices s).stash = s.stash ∧ (endServices s).link = s.link ∧ (endServices s).time = s.time ∧
      (endServices s).coll = s.coll ∧ (endServices s).commit = s.commit ∧ (endServices s).rsl = s.rsl ∧
      (endServices s).sec = s.sec ∧ (endServices s).pwr = s.pwr ∧ (endServices s).mon = s.mon ∧
      (endServices s).outbox = s.outbox := by
  unfold endServices; simp

@[simp] theorem ethernetOff_keeps (s : State) :
    (ethernetOff s).pending = s.pending ∧ (ethernetOff s).uptime = s.uptime ∧ (ethernetOff s).drawn = s.drawn ∧
      (ethernetOff s).cu = s.cu ∧ (ethernetOff s).seq = s.seq ∧ (ethernetOff s).mem = s.mem ∧
      (ethernetOff s).stash = s.stash ∧ (ethernetOff s).link = s.link ∧ (ethernetOff s).coll = s.coll ∧
      (ethernetOff s).commit = s.commit ∧ (ethernetOff s).rsl = s.rsl ∧ (ethernetOff s).sec = s.sec ∧
      (ethernetOff s).pwr = s.pwr ∧ (ethernetOff s).mon = s.mon ∧ (ethernetOff s).outbox = s.outbox := by
  unfold ethernetOff; (repeat' split) <;> simp

set_option maxRecDepth 20000 in
@[simp] theorem switchOff_keeps (s : State) (m : BitVec 40) :
    (switchOff s m).pending = s.pending ∧ (switchOff s m).uptime = s.uptime ∧ (switchOff s m).drawn = s.drawn := by
  unfold switchOff; dsimp only
  repeat' split
  all_goals simp only [refreshRails_keeps, ethernetOff_keeps, portOff_keeps, foldl_pending, foldl_uptime, foldl_drawn,
      and_self, implies_true]

@[simp] theorem askImage_keeps (s : State) (use : TransferUse) :
    (askImage s use).pending = s.pending ∧ (askImage s use).uptime = s.uptime ∧ (askImage s use).drawn = s.drawn ∧
      (askImage s use).cu = s.cu ∧ (askImage s use).seq = s.seq ∧ (askImage s use).mem = s.mem ∧
      (askImage s use).stash = s.stash ∧ (askImage s use).link = s.link ∧ (askImage s use).time = s.time ∧
      (askImage s use).coll = s.coll ∧ (askImage s use).commit = s.commit ∧ (askImage s use).rsl = s.rsl ∧
      (askImage s use).sec = s.sec ∧ (askImage s use).pwr = s.pwr ∧ (askImage s use).mon = s.mon := by
  unfold askImage; simp

@[simp] theorem claimWoken_keeps (s : State) :
    (claimWoken s).pending = s.pending ∧ (claimWoken s).uptime = s.uptime ∧ (claimWoken s).drawn = s.drawn ∧
      (claimWoken s).cu = s.cu ∧ (claimWoken s).seq = s.seq ∧ (claimWoken s).mem = s.mem ∧ (claimWoken s).stash = s.stash ∧
      (claimWoken s).link = s.link ∧ (claimWoken s).time = s.time ∧ (claimWoken s).coll = s.coll ∧
      (claimWoken s).commit = s.commit ∧ (claimWoken s).rsl = s.rsl ∧ (claimWoken s).sec = s.sec ∧
      (claimWoken s).pwr = s.pwr ∧ (claimWoken s).mon = s.mon := by
  unfold claimWoken; (repeat' split) <;> simp

@[simp] theorem beginWake_keeps (s : State) (goal : Nat) (m : BitVec 40) :
    (beginWake s goal m).pending = s.pending ∧ (beginWake s goal m).uptime = s.uptime ∧
      (beginWake s goal m).drawn = s.drawn ∧ (beginWake s goal m).cu = s.cu ∧ (beginWake s goal m).seq = s.seq ∧
      (beginWake s goal m).mem = s.mem ∧ (beginWake s goal m).stash = s.stash ∧ (beginWake s goal m).link = s.link ∧
      (beginWake s goal m).time = s.time ∧ (beginWake s goal m).coll = s.coll ∧ (beginWake s goal m).commit = s.commit ∧
      (beginWake s goal m).rsl = s.rsl ∧ (beginWake s goal m).eth = s.eth ∧ (beginWake s goal m).sec = s.sec ∧
      (beginWake s goal m).mon = s.mon ∧ (beginWake s goal m).outbox = s.outbox := by
  unfold beginWake; simp

@[simp] theorem leaveStandby_keeps (s : State) :
    (leaveStandby s).pending = s.pending ∧ (leaveStandby s).uptime = s.uptime ∧ (leaveStandby s).drawn = s.drawn ∧
      (leaveStandby s).cu = s.cu ∧ (leaveStandby s).seq = s.seq ∧ (leaveStandby s).mem = s.mem ∧
      (leaveStandby s).stash = s.stash ∧ (leaveStandby s).link = s.link ∧ (leaveStandby s).time = s.time ∧
      (leaveStandby s).coll = s.coll ∧ (leaveStandby s).commit = s.commit ∧ (leaveStandby s).rsl = s.rsl ∧
      (leaveStandby s).eth = s.eth ∧ (leaveStandby s).sec = s.sec ∧ (leaveStandby s).mon = s.mon ∧
      (leaveStandby s).outbox = s.outbox := by
  unfold leaveStandby; simp

@[simp] theorem wakeTo_keeps (s : State) (source detail : Nat) (latched : Bool) :
    (wakeTo s source detail latched).pending = s.pending ∧ (wakeTo s source detail latched).uptime = s.uptime ∧
      (wakeTo s source detail latched).drawn = s.drawn ∧ (wakeTo s source detail latched).cu = s.cu ∧
      (wakeTo s source detail latched).seq = s.seq ∧ (wakeTo s source detail latched).mem = s.mem ∧
      (wakeTo s source detail latched).stash = s.stash ∧ (wakeTo s source detail latched).link = s.link ∧
      (wakeTo s source detail latched).time = s.time ∧ (wakeTo s source detail latched).coll = s.coll ∧
      (wakeTo s source detail latched).commit = s.commit ∧ (wakeTo s source detail latched).rsl = s.rsl ∧
      (wakeTo s source detail latched).eth = s.eth ∧ (wakeTo s source detail latched).sec = s.sec ∧
      (wakeTo s source detail latched).mon = s.mon ∧ (wakeTo s source detail latched).outbox = s.outbox := by
  unfold wakeTo; (repeat' split) <;> simp

@[simp] theorem latchWake_keeps (s : State) (source detail : Nat) :
    (latchWake s source detail).pending = s.pending ∧ (latchWake s source detail).uptime = s.uptime ∧
      (latchWake s source detail).drawn = s.drawn ∧ (latchWake s source detail).cu = s.cu ∧
      (latchWake s source detail).seq = s.seq ∧ (latchWake s source detail).mem = s.mem ∧
      (latchWake s source detail).stash = s.stash ∧ (latchWake s source detail).link = s.link ∧
      (latchWake s source detail).time = s.time ∧ (latchWake s source detail).coll = s.coll ∧
      (latchWake s source detail).commit = s.commit ∧ (latchWake s source detail).rsl = s.rsl ∧
      (latchWake s source detail).eth = s.eth ∧ (latchWake s source detail).sec = s.sec ∧
      (latchWake s source detail).mon = s.mon ∧ (latchWake s source detail).outbox = s.outbox := by
  unfold latchWake; simp

@[simp] theorem againWake_keeps (s : State) (source detail : Nat) :
    (againWake s source detail).pending = s.pending ∧ (againWake s source detail).uptime = s.uptime ∧
      (againWake s source detail).drawn = s.drawn ∧ (againWake s source detail).cu = s.cu ∧
      (againWake s source detail).seq = s.seq ∧ (againWake s source detail).mem = s.mem ∧
      (againWake s source detail).stash = s.stash ∧ (againWake s source detail).link = s.link ∧
      (againWake s source detail).time = s.time ∧ (againWake s source detail).coll = s.coll ∧
      (againWake s source detail).commit = s.commit ∧ (againWake s source detail).rsl = s.rsl ∧
      (againWake s source detail).eth = s.eth ∧ (againWake s source detail).sec = s.sec ∧
      (againWake s source detail).mon = s.mon ∧ (againWake s source detail).outbox = s.outbox := by
  unfold againWake; simp

@[simp] theorem wakeSource_keeps (s : State) (source detail : Nat) (retention standby : Bool) :
    (wakeSource s source detail retention standby).pending = s.pending ∧
      (wakeSource s source detail retention standby).uptime = s.uptime ∧
      (wakeSource s source detail retention standby).drawn = s.drawn ∧
      (wakeSource s source detail retention standby).cu = s.cu ∧ (wakeSource s source detail retention standby).seq = s.seq ∧
      (wakeSource s source detail retention standby).mem = s.mem ∧
      (wakeSource s source detail retention standby).stash = s.stash ∧
      (wakeSource s source detail retention standby).link = s.link ∧
      (wakeSource s source detail retention standby).time = s.time ∧
      (wakeSource s source detail retention standby).coll = s.coll ∧
      (wakeSource s source detail retention standby).commit = s.commit ∧
      (wakeSource s source detail retention standby).rsl = s.rsl ∧
      (wakeSource s source detail retention standby).eth = s.eth ∧
      (wakeSource s source detail retention standby).sec = s.sec ∧
      (wakeSource s source detail retention standby).mon = s.mon ∧
      (wakeSource s source detail retention standby).outbox = s.outbox := by
  unfold wakeSource; (repeat' split) <;> simp [apply_ite]

@[simp] theorem lower_keeps (s : State) (code : Nat) :
    (lower s code).pending = s.pending ∧ (lower s code).uptime = s.uptime ∧ (lower s code).drawn = s.drawn ∧
      (lower s code).cu = s.cu ∧ (lower s code).seq = s.seq ∧ (lower s code).mem = s.mem ∧ (lower s code).stash = s.stash ∧
      (lower s code).link = s.link ∧ (lower s code).time = s.time ∧ (lower s code).coll = s.coll ∧
      (lower s code).commit = s.commit ∧ (lower s code).rsl = s.rsl ∧ (lower s code).eth = s.eth ∧
      (lower s code).sec = s.sec ∧ (lower s code).mon = s.mon ∧ (lower s code).outbox = s.outbox := by
  unfold lower; simp

@[simp] theorem entered_keeps (s : State) :
    (entered s).pending = s.pending ∧ (entered s).uptime = s.uptime ∧ (entered s).drawn = s.drawn ∧ (entered s).cu = s.cu ∧
      (entered s).seq = s.seq ∧ (entered s).mem = s.mem ∧ (entered s).stash = s.stash ∧ (entered s).link = s.link ∧
      (entered s).time = s.time ∧ (entered s).coll = s.coll ∧ (entered s).commit = s.commit ∧ (entered s).rsl = s.rsl ∧
      (entered s).eth = s.eth ∧ (entered s).sec = s.sec ∧ (entered s).mon = s.mon ∧ (entered s).outbox = s.outbox := by
  unfold entered; (repeat' split) <;> simp [apply_ite]

@[simp] theorem mgmtWake_keeps (s : State) :
    (mgmtWake s).pending = s.pending ∧ (mgmtWake s).uptime = s.uptime ∧ (mgmtWake s).drawn = s.drawn ∧
      (mgmtWake s).cu = s.cu ∧ (mgmtWake s).seq = s.seq ∧ (mgmtWake s).mem = s.mem ∧ (mgmtWake s).stash = s.stash ∧
      (mgmtWake s).link = s.link ∧ (mgmtWake s).time = s.time ∧ (mgmtWake s).coll = s.coll ∧ (mgmtWake s).commit = s.commit ∧
      (mgmtWake s).rsl = s.rsl ∧ (mgmtWake s).eth = s.eth ∧ (mgmtWake s).sec = s.sec ∧ (mgmtWake s).mon = s.mon ∧
      (mgmtWake s).outbox = s.outbox := by
  unfold mgmtWake; (repeat' split) <;> simp

@[simp] theorem clearSlots_keeps (s : State) (core : Nat) :
    (clearSlots s core).pending = s.pending ∧ (clearSlots s core).uptime = s.uptime ∧ (clearSlots s core).drawn = s.drawn ∧
      (clearSlots s core).seq = s.seq ∧ (clearSlots s core).mem = s.mem ∧ (clearSlots s core).stash = s.stash ∧
      (clearSlots s core).link = s.link ∧ (clearSlots s core).time = s.time ∧ (clearSlots s core).coll = s.coll ∧
      (clearSlots s core).commit = s.commit ∧ (clearSlots s core).rsl = s.rsl ∧ (clearSlots s core).eth = s.eth ∧
      (clearSlots s core).sec = s.sec ∧ (clearSlots s core).pwr = s.pwr ∧ (clearSlots s core).mon = s.mon ∧
      (clearSlots s core).outbox = s.outbox := by
  unfold clearSlots; simp

@[simp] theorem clearBank_keeps (s : State) (b : Nat) :
    (clearBank s b).pending = s.pending ∧ (clearBank s b).uptime = s.uptime ∧ (clearBank s b).drawn = s.drawn ∧
      (clearBank s b).cu = s.cu ∧ (clearBank s b).seq = s.seq ∧ (clearBank s b).stash = s.stash ∧
      (clearBank s b).link = s.link ∧ (clearBank s b).time = s.time ∧ (clearBank s b).coll = s.coll ∧
      (clearBank s b).commit = s.commit ∧ (clearBank s b).rsl = s.rsl ∧ (clearBank s b).eth = s.eth ∧
      (clearBank s b).sec = s.sec ∧ (clearBank s b).pwr = s.pwr ∧ (clearBank s b).mon = s.mon ∧
      (clearBank s b).outbox = s.outbox := by
  unfold clearBank; simp

@[simp] theorem domainUp_keeps (s : State) (d : Nat) :
    (domainUp s d).pending = s.pending ∧ (domainUp s d).uptime = s.uptime ∧ (domainUp s d).drawn = s.drawn ∧
      (domainUp s d).stash = s.stash ∧ (domainUp s d).time = s.time ∧ (domainUp s d).commit = s.commit ∧
      (domainUp s d).rsl = s.rsl ∧ (domainUp s d).sec = s.sec ∧ (domainUp s d).mon = s.mon := by
  unfold domainUp; (repeat' split) <;> simp [apply_ite]

@[simp] theorem wakeDone_keeps (s : State) :
    (wakeDone s).pending = s.pending ∧ (wakeDone s).uptime = s.uptime ∧ (wakeDone s).drawn = s.drawn ∧
      (wakeDone s).cu = s.cu ∧ (wakeDone s).seq = s.seq ∧ (wakeDone s).mem = s.mem ∧ (wakeDone s).stash = s.stash ∧
      (wakeDone s).link = s.link ∧ (wakeDone s).time = s.time ∧ (wakeDone s).coll = s.coll ∧ (wakeDone s).commit = s.commit ∧
      (wakeDone s).rsl = s.rsl ∧ (wakeDone s).sec = s.sec ∧ (wakeDone s).mon = s.mon := by
  unfold wakeDone; (repeat' split) <;> simp

@[simp] theorem loseCommitted_keeps (s : State) :
    (loseCommitted s).pending = s.pending ∧ (loseCommitted s).uptime = s.uptime ∧ (loseCommitted s).drawn = s.drawn ∧
      (loseCommitted s).cu = s.cu ∧ (loseCommitted s).seq = s.seq ∧ (loseCommitted s).mem = s.mem ∧
      (loseCommitted s).stash = s.stash ∧ (loseCommitted s).link = s.link ∧ (loseCommitted s).time = s.time ∧
      (loseCommitted s).coll = s.coll ∧ (loseCommitted s).commit = s.commit ∧ (loseCommitted s).eth = s.eth ∧
      (loseCommitted s).sec = s.sec ∧ (loseCommitted s).pwr = s.pwr ∧ (loseCommitted s).mon = s.mon ∧
      (loseCommitted s).outbox = s.outbox := by
  unfold loseCommitted; simp

@[simp] theorem forcedStandby_keeps (s : State) (source : Nat) :
    (forcedStandby s source).pending = s.pending ∧ (forcedStandby s source).uptime = s.uptime ∧
      (forcedStandby s source).drawn = s.drawn := by
  unfold forcedStandby; (repeat' split) <;> simp [apply_ite]

@[simp] theorem linksChanged_keeps (s : State) :
    (linksChanged s).pending = s.pending ∧ (linksChanged s).uptime = s.uptime ∧ (linksChanged s).drawn = s.drawn ∧
      (linksChanged s).time = s.time ∧ (linksChanged s).pwr = s.pwr := by
  unfold linksChanged; dsimp only
  repeat' split
  all_goals simp only [stashLost_keeps, partnerLost_keeps, abandonStep_keeps, and_self]

@[simp] theorem takeState_keeps (s : State) (p : Nat) :
    (takeState s p).pending = s.pending ∧ (takeState s p).uptime = s.uptime ∧ (takeState s p).drawn = s.drawn ∧
      (takeState s p).time = s.time ∧ (takeState s p).pwr = s.pwr := by
  unfold takeState; simp

@[simp] theorem miswire_keeps (s : State) (p : Nat) :
    (miswire s p).pending = s.pending ∧ (miswire s p).uptime = s.uptime ∧ (miswire s p).drawn = s.drawn ∧
      (miswire s p).time = s.time ∧ (miswire s p).pwr = s.pwr := by
  unfold miswire; simp

@[simp] theorem passIdentity_keeps (s : State) (p : Nat) :
    (passIdentity s p).pending = s.pending ∧ (passIdentity s p).uptime = s.uptime ∧ (passIdentity s p).drawn = s.drawn ∧
      (passIdentity s p).time = s.time ∧ (passIdentity s p).pwr = s.pwr := by
  unfold passIdentity; (repeat' split) <;> simp [apply_ite]

@[simp] theorem exchangeLabels_keeps (s : State) (p o : Nat) :
    (exchangeLabels s p o).pending = s.pending ∧ (exchangeLabels s p o).uptime = s.uptime ∧
      (exchangeLabels s p o).drawn = s.drawn ∧ (exchangeLabels s p o).cu = s.cu ∧ (exchangeLabels s p o).seq = s.seq ∧
      (exchangeLabels s p o).mem = s.mem ∧ (exchangeLabels s p o).stash = s.stash ∧ (exchangeLabels s p o).time = s.time ∧
      (exchangeLabels s p o).coll = s.coll ∧ (exchangeLabels s p o).commit = s.commit ∧ (exchangeLabels s p o).rsl = s.rsl ∧
      (exchangeLabels s p o).sec = s.sec ∧ (exchangeLabels s p o).pwr = s.pwr ∧ (exchangeLabels s p o).mon = s.mon := by
  unfold exchangeLabels; simp

@[simp] theorem resolveMismatch_keeps (s : State) (p : Nat) (b : IdBlock) :
    (resolveMismatch s p b).pending = s.pending ∧ (resolveMismatch s p b).uptime = s.uptime ∧
      (resolveMismatch s p b).drawn = s.drawn ∧ (resolveMismatch s p b).time = s.time ∧ (resolveMismatch s p b).pwr = s.pwr := by
  unfold resolveMismatch; (repeat' split) <;> simp [apply_ite]

@[simp] theorem settleWaiting_keeps (s : State) (p : Nat) :
    (settleWaiting s p).pending = s.pending ∧ (settleWaiting s p).uptime = s.uptime ∧ (settleWaiting s p).drawn = s.drawn ∧
      (settleWaiting s p).time = s.time ∧ (settleWaiting s p).pwr = s.pwr := by
  unfold settleWaiting; dsimp only; (repeat' split) <;> simp only [resolveMismatch_keeps, and_self]

@[simp] theorem settlePairs_keeps (s : State) :
    (settlePairs s).pending = s.pending ∧ (settlePairs s).uptime = s.uptime ∧ (settlePairs s).drawn = s.drawn ∧
      (settlePairs s).time = s.time ∧ (settlePairs s).pwr = s.pwr := by
  unfold settlePairs; simp

@[simp] theorem portFails_keeps (s : State) (p cause : Nat) :
    (portFails s p cause).pending = s.pending ∧ (portFails s p cause).uptime = s.uptime ∧
      (portFails s p cause).drawn = s.drawn ∧ (portFails s p cause).pwr = s.pwr := by
  unfold portFails; simp

@[simp] theorem retrainPort_keeps (s : State) (p : Nat) :
    (retrainPort s p).pending = s.pending ∧ (retrainPort s p).uptime = s.uptime ∧ (retrainPort s p).drawn = s.drawn ∧
      (retrainPort s p).pwr = s.pwr := by
  unfold retrainPort; (repeat' split) <;> simp

@[simp] theorem peerChanged_keeps (s : State) (p : Nat) (b : IdBlock) :
    (peerChanged s p b).pending = s.pending ∧ (peerChanged s p b).uptime = s.uptime ∧ (peerChanged s p b).drawn = s.drawn ∧
      (peerChanged s p b).cu = s.cu ∧ (peerChanged s p b).seq = s.seq ∧ (peerChanged s p b).mem = s.mem ∧
      (peerChanged s p b).stash = s.stash ∧ (peerChanged s p b).time = s.time ∧ (peerChanged s p b).coll = s.coll ∧
      (peerChanged s p b).commit = s.commit ∧ (peerChanged s p b).sec = s.sec ∧ (peerChanged s p b).pwr = s.pwr := by
  unfold peerChanged; (repeat' split) <;> simp

@[simp] theorem checkIdentity_keeps (s : State) (p : Nat) (b : IdBlock) :
    (checkIdentity s p b).pending = s.pending ∧ (checkIdentity s p b).uptime = s.uptime ∧
      (checkIdentity s p b).drawn = s.drawn ∧ (checkIdentity s p b).pwr = s.pwr := by
  unfold checkIdentity; (repeat' split) <;> simp

@[simp] theorem requestReplay_keeps (s : State) (p : Nat) (bad : Bool) :
    (requestReplay s p bad).pending = s.pending ∧ (requestReplay s p bad).uptime = s.uptime ∧
      (requestReplay s p bad).drawn = s.drawn ∧ (requestReplay s p bad).cu = s.cu ∧ (requestReplay s p bad).seq = s.seq ∧
      (requestReplay s p bad).mem = s.mem ∧ (requestReplay s p bad).stash = s.stash ∧ (requestReplay s p bad).time = s.time ∧
      (requestReplay s p bad).coll = s.coll ∧ (requestReplay s p bad).commit = s.commit ∧
      (requestReplay s p bad).rsl = s.rsl ∧ (requestReplay s p bad).eth = s.eth ∧ (requestReplay s p bad).sec = s.sec ∧
      (requestReplay s p bad).pwr = s.pwr := by
  unfold requestReplay; simp

@[simp] theorem acceptPacket_keeps (s : State) (port : Nat) (p : Packet) :
    (acceptPacket s port p).pending = s.pending ∧ (acceptPacket s port p).uptime = s.uptime ∧
      (acceptPacket s port p).drawn = s.drawn ∧ (acceptPacket s port p).time = s.time ∧ (acceptPacket s port p).pwr = s.pwr := by
  unfold acceptPacket; (repeat' split) <;> simp

@[simp] theorem packetArrives_keeps (s : State) (port : Nat) (p : Packet) :
    (packetArrives s port p).pending = s.pending ∧ (packetArrives s port p).uptime = s.uptime ∧
      (packetArrives s port p).drawn = s.drawn ∧ (packetArrives s port p).time = s.time := by
  unfold packetArrives; dsimp only; (repeat' split) <;> simp only [mgmtWake_keeps, requestReplay_keeps,
      acceptPacket_keeps, send_keeps, and_self]

@[simp] theorem takeUpdate_keeps (s : State) (path : Path) (bytes : List Byte) :
    (takeUpdate s path bytes).pending = s.pending ∧ (takeUpdate s path bytes).uptime = s.uptime ∧
      (takeUpdate s path bytes).drawn = s.drawn ∧ (takeUpdate s path bytes).time = s.time ∧
      (takeUpdate s path bytes).pwr = s.pwr := by
  unfold takeUpdate; (repeat' split) <;> simp

@[simp] theorem tryEntries_keeps (x0 : List (Nat × List Byte)) (s : State) :
    (tryEntries x0 s).pending = s.pending ∧ (tryEntries x0 s).uptime = s.uptime ∧ (tryEntries x0 s).drawn = s.drawn ∧
      (tryEntries x0 s).cu = s.cu ∧ (tryEntries x0 s).seq = s.seq ∧ (tryEntries x0 s).mem = s.mem ∧
      (tryEntries x0 s).stash = s.stash ∧ (tryEntries x0 s).link = s.link ∧ (tryEntries x0 s).time = s.time ∧
      (tryEntries x0 s).coll = s.coll ∧ (tryEntries x0 s).commit = s.commit ∧ (tryEntries x0 s).rsl = s.rsl ∧
      (tryEntries x0 s).sec = s.sec ∧ (tryEntries x0 s).pwr = s.pwr ∧ (tryEntries x0 s).mon = s.mon := by
  induction x0 generalizing s with
  | nil => simp [tryEntries]
  | cons a l ih => unfold tryEntries; dsimp only; (repeat' split) <;> simp [ih]

@[simp] theorem nextEntry_keeps (s : State) :
    (nextEntry s).pending = s.pending ∧ (nextEntry s).uptime = s.uptime ∧ (nextEntry s).drawn = s.drawn ∧
      (nextEntry s).cu = s.cu ∧ (nextEntry s).seq = s.seq ∧ (nextEntry s).mem = s.mem ∧ (nextEntry s).stash = s.stash ∧
      (nextEntry s).link = s.link ∧ (nextEntry s).time = s.time ∧ (nextEntry s).coll = s.coll ∧
      (nextEntry s).commit = s.commit ∧ (nextEntry s).rsl = s.rsl ∧ (nextEntry s).sec = s.sec ∧ (nextEntry s).pwr = s.pwr ∧
      (nextEntry s).mon = s.mon := by
  unfold nextEntry; simp

@[simp] theorem soundEntries_keeps (l : List (Nat × List Byte)) (s : State) :
    (soundEntries l s).pending = s.pending ∧ (soundEntries l s).uptime = s.uptime ∧ (soundEntries l s).drawn = s.drawn ∧
      (soundEntries l s).cu = s.cu ∧ (soundEntries l s).seq = s.seq ∧ (soundEntries l s).mem = s.mem ∧
      (soundEntries l s).stash = s.stash ∧ (soundEntries l s).link = s.link ∧ (soundEntries l s).time = s.time ∧
      (soundEntries l s).coll = s.coll ∧ (soundEntries l s).commit = s.commit ∧ (soundEntries l s).rsl = s.rsl ∧
      (soundEntries l s).sec = s.sec ∧ (soundEntries l s).pwr = s.pwr ∧ (soundEntries l s).mon = s.mon ∧
      (soundEntries l s).outbox = s.outbox := by
  unfold soundEntries; simp

@[simp] theorem directoryArrived_keeps (s : State) (header : List Byte) (entries : List (List Byte)) :
    (directoryArrived s header entries).pending = s.pending ∧ (directoryArrived s header entries).uptime = s.uptime ∧
      (directoryArrived s header entries).drawn = s.drawn ∧ (directoryArrived s header entries).cu = s.cu ∧
      (directoryArrived s header entries).seq = s.seq ∧ (directoryArrived s header entries).mem = s.mem ∧
      (directoryArrived s header entries).stash = s.stash ∧ (directoryArrived s header entries).link = s.link ∧
      (directoryArrived s header entries).time = s.time ∧ (directoryArrived s header entries).coll = s.coll ∧
      (directoryArrived s header entries).commit = s.commit ∧ (directoryArrived s header entries).rsl = s.rsl ∧
      (directoryArrived s header entries).sec = s.sec ∧ (directoryArrived s header entries).mon = s.mon := by
  unfold directoryArrived; (repeat' split) <;> simp [apply_ite]

@[simp] theorem slotArrived_keeps (s : State) (owner expiry : DWord) :
    (slotArrived s owner expiry).pending = s.pending ∧ (slotArrived s owner expiry).uptime = s.uptime ∧
      (slotArrived s owner expiry).drawn = s.drawn ∧ (slotArrived s owner expiry).cu = s.cu ∧
      (slotArrived s owner expiry).seq = s.seq ∧ (slotArrived s owner expiry).mem = s.mem ∧
      (slotArrived s owner expiry).stash = s.stash ∧ (slotArrived s owner expiry).link = s.link ∧
      (slotArrived s owner expiry).time = s.time ∧ (slotArrived s owner expiry).coll = s.coll ∧
      (slotArrived s owner expiry).commit = s.commit ∧ (slotArrived s owner expiry).rsl = s.rsl ∧
      (slotArrived s owner expiry).sec = s.sec ∧ (slotArrived s owner expiry).pwr = s.pwr ∧
      (slotArrived s owner expiry).mon = s.mon := by
  unfold slotArrived; (repeat' split) <;> simp

@[simp] theorem writeExpiry_keeps (s : State) (serial : List Byte) :
    (writeExpiry s serial).pending = s.pending ∧ (writeExpiry s serial).uptime = s.uptime ∧
      (writeExpiry s serial).drawn = s.drawn ∧ (writeExpiry s serial).cu = s.cu ∧ (writeExpiry s serial).seq = s.seq ∧
      (writeExpiry s serial).mem = s.mem ∧ (writeExpiry s serial).stash = s.stash ∧ (writeExpiry s serial).link = s.link ∧
      (writeExpiry s serial).time = s.time ∧ (writeExpiry s serial).coll = s.coll ∧
      (writeExpiry s serial).commit = s.commit ∧ (writeExpiry s serial).rsl = s.rsl ∧ (writeExpiry s serial).sec = s.sec ∧
      (writeExpiry s serial).pwr = s.pwr ∧ (writeExpiry s serial).mon = s.mon := by
  unfold writeExpiry; simp

@[simp] theorem swapArrived_keeps (s : State) (returned : DWord) :
    (swapArrived s returned).pending = s.pending ∧ (swapArrived s returned).uptime = s.uptime ∧
      (swapArrived s returned).drawn = s.drawn ∧ (swapArrived s returned).cu = s.cu ∧ (swapArrived s returned).seq = s.seq ∧
      (swapArrived s returned).mem = s.mem ∧ (swapArrived s returned).stash = s.stash ∧
      (swapArrived s returned).link = s.link ∧ (swapArrived s returned).time = s.time ∧
      (swapArrived s returned).coll = s.coll ∧ (swapArrived s returned).commit = s.commit ∧
      (swapArrived s returned).sec = s.sec ∧ (swapArrived s returned).mon = s.mon := by
  unfold swapArrived; (repeat' split) <;> simp [apply_ite]

@[simp] theorem failClaim_keeps (s : State) (code detail : Nat) :
    (failClaim s code detail).pending = s.pending ∧ (failClaim s code detail).uptime = s.uptime ∧
      (failClaim s code detail).drawn = s.drawn := by
  unfold failClaim; simp

set_option maxRecDepth 20000 in
@[simp] theorem imageArrived_keeps (s : State) (img : List Byte) :
    (imageArrived s img).pending = s.pending ∧ (imageArrived s img).uptime = s.uptime ∧ (imageArrived s img).drawn = s.drawn := by
  unfold imageArrived; dsimp only
  repeat' split
  all_goals simp only [failClaim_keeps, askPartner_keeps, leaseIdentity_keeps, placeInitial_keeps, loadImage_keeps,
      and_self]

@[simp] theorem noPartner_keeps (s : State) :
    (noPartner s).pending = s.pending ∧ (noPartner s).uptime = s.uptime ∧ (noPartner s).drawn = s.drawn := by
  unfold noPartner; (repeat' split) <;> simp [apply_ite]

@[simp] theorem takeRoles_keeps (s : State) (coord : BitVec 18) (feed first pages spill : Word) :
    (takeRoles s coord feed first pages spill).pending = s.pending ∧
      (takeRoles s coord feed first pages spill).uptime = s.uptime ∧
      (takeRoles s coord feed first pages spill).drawn = s.drawn ∧ (takeRoles s coord feed first pages spill).cu = s.cu ∧
      (takeRoles s coord feed first pages spill).seq = s.seq ∧ (takeRoles s coord feed first pages spill).mem = s.mem ∧
      (takeRoles s coord feed first pages spill).link = s.link ∧ (takeRoles s coord feed first pages spill).time = s.time ∧
      (takeRoles s coord feed first pages spill).coll = s.coll ∧
      (takeRoles s coord feed first pages spill).commit = s.commit ∧ (takeRoles s coord feed first pages spill).eth = s.eth ∧
      (takeRoles s coord feed first pages spill).sec = s.sec ∧ (takeRoles s coord feed first pages spill).pwr = s.pwr ∧
      (takeRoles s coord feed first pages spill).mon = s.mon ∧ (takeRoles s coord feed first pages spill).outbox = s.outbox := by
  unfold takeRoles; simp

@[simp] theorem leaseRoles_keeps (s : State) (coord : BitVec 18) (feed first pages spill : Word) :
    (leaseRoles s coord feed first pages spill).pending = s.pending ∧
      (leaseRoles s coord feed first pages spill).uptime = s.uptime ∧
      (leaseRoles s coord feed first pages spill).drawn = s.drawn := by
  unfold leaseRoles; dsimp only; (repeat' split) <;> simp only [takeRoles_keeps, failClaim_keeps, and_self]

@[simp] theorem lendArea_keeps (s : State) (own : Nat) :
    (lendArea s own).pending = s.pending ∧ (lendArea s own).uptime = s.uptime ∧ (lendArea s own).drawn = s.drawn ∧
      (lendArea s own).cu = s.cu ∧ (lendArea s own).seq = s.seq ∧ (lendArea s own).stash = s.stash ∧
      (lendArea s own).link = s.link ∧ (lendArea s own).time = s.time ∧ (lendArea s own).coll = s.coll ∧
      (lendArea s own).commit = s.commit ∧ (lendArea s own).eth = s.eth ∧ (lendArea s own).sec = s.sec ∧
      (lendArea s own).pwr = s.pwr ∧ (lendArea s own).mon = s.mon ∧ (lendArea s own).outbox = s.outbox := by
  unfold lendArea; (repeat' split) <;> simp

@[simp] theorem rejoinPartner_keeps (s : State) (coord : BitVec 18) (feed first pages spill own : Word) :
    (rejoinPartner s coord feed first pages spill own).pending = s.pending ∧
      (rejoinPartner s coord feed first pages spill own).uptime = s.uptime ∧
      (rejoinPartner s coord feed first pages spill own).drawn = s.drawn ∧
      (rejoinPartner s coord feed first pages spill own).cu = s.cu ∧
      (rejoinPartner s coord feed first pages spill own).seq = s.seq ∧
      (rejoinPartner s coord feed first pages spill own).link = s.link ∧
      (rejoinPartner s coord feed first pages spill own).time = s.time ∧
      (rejoinPartner s coord feed first pages spill own).coll = s.coll ∧
      (rejoinPartner s coord feed first pages spill own).commit = s.commit ∧
      (rejoinPartner s coord feed first pages spill own).eth = s.eth ∧
      (rejoinPartner s coord feed first pages spill own).sec = s.sec ∧
      (rejoinPartner s coord feed first pages spill own).pwr = s.pwr ∧
      (rejoinPartner s coord feed first pages spill own).mon = s.mon ∧
      (rejoinPartner s coord feed first pages spill own).outbox = s.outbox := by
  unfold rejoinPartner; (repeat' split) <;> simp

@[simp] theorem partnerArrived_keeps (s : State) (coord : BitVec 18) (feed first pages spill own : Word) :
    (partnerArrived s coord feed first pages spill own).pending = s.pending ∧
      (partnerArrived s coord feed first pages spill own).uptime = s.uptime ∧
      (partnerArrived s coord feed first pages spill own).drawn = s.drawn := by
  unfold partnerArrived; (repeat' split) <;> simp

@[simp] theorem scanSlots_keeps (s : State) :
    (scanSlots s).pending = s.pending ∧ (scanSlots s).uptime = s.uptime ∧ (scanSlots s).drawn = s.drawn ∧
      (scanSlots s).cu = s.cu ∧ (scanSlots s).seq = s.seq ∧ (scanSlots s).mem = s.mem ∧ (scanSlots s).stash = s.stash ∧
      (scanSlots s).time = s.time ∧ (scanSlots s).coll = s.coll ∧ (scanSlots s).commit = s.commit ∧
      (scanSlots s).rsl = s.rsl ∧ (scanSlots s).sec = s.sec ∧ (scanSlots s).pwr = s.pwr := by
  unfold scanSlots; (repeat' split) <;> simp [apply_ite]

@[simp] theorem headerArrived_keeps (s : State) (b : List Byte) :
    (headerArrived s b).pending = s.pending ∧ (headerArrived s b).uptime = s.uptime ∧ (headerArrived s b).drawn = s.drawn ∧
      (headerArrived s b).cu = s.cu ∧ (headerArrived s b).seq = s.seq ∧ (headerArrived s b).mem = s.mem ∧
      (headerArrived s b).stash = s.stash ∧ (headerArrived s b).time = s.time ∧ (headerArrived s b).coll = s.coll ∧
      (headerArrived s b).commit = s.commit ∧ (headerArrived s b).rsl = s.rsl ∧ (headerArrived s b).sec = s.sec ∧
      (headerArrived s b).pwr = s.pwr := by
  unfold headerArrived; simp

@[simp] theorem scanRecord_keeps (s : State) (n : Nat) :
    (scanRecord s n).pending = s.pending ∧ (scanRecord s n).uptime = s.uptime ∧ (scanRecord s n).drawn = s.drawn ∧
      (scanRecord s n).cu = s.cu ∧ (scanRecord s n).seq = s.seq ∧ (scanRecord s n).mem = s.mem ∧
      (scanRecord s n).stash = s.stash ∧ (scanRecord s n).link = s.link ∧ (scanRecord s n).time = s.time ∧
      (scanRecord s n).coll = s.coll ∧ (scanRecord s n).commit = s.commit ∧ (scanRecord s n).rsl = s.rsl ∧
      (scanRecord s n).sec = s.sec ∧ (scanRecord s n).pwr = s.pwr ∧ (scanRecord s n).mon = s.mon := by
  unfold scanRecord; (repeat' split) <;> simp

@[simp] theorem recordFound_keeps (s : State) (n : Nat) (b : List Byte) :
    (recordFound s n b).pending = s.pending ∧ (recordFound s n b).uptime = s.uptime ∧ (recordFound s n b).drawn = s.drawn ∧
      (recordFound s n b).cu = s.cu ∧ (recordFound s n b).seq = s.seq ∧ (recordFound s n b).mem = s.mem ∧
      (recordFound s n b).stash = s.stash ∧ (recordFound s n b).link = s.link ∧ (recordFound s n b).time = s.time ∧
      (recordFound s n b).coll = s.coll ∧ (recordFound s n b).commit = s.commit ∧ (recordFound s n b).eth = s.eth ∧
      (recordFound s n b).sec = s.sec ∧ (recordFound s n b).pwr = s.pwr ∧ (recordFound s n b).mon = s.mon ∧
      (recordFound s n b).outbox = s.outbox := by
  unfold recordFound; (repeat' split) <;> simp

@[simp] theorem scanArrived_keeps (s : State) (page : Nat) (b : Option (List Byte)) :
    (scanArrived s page b).pending = s.pending ∧ (scanArrived s page b).uptime = s.uptime ∧
      (scanArrived s page b).drawn = s.drawn ∧ (scanArrived s page b).cu = s.cu ∧ (scanArrived s page b).seq = s.seq ∧
      (scanArrived s page b).mem = s.mem ∧ (scanArrived s page b).stash = s.stash ∧ (scanArrived s page b).time = s.time ∧
      (scanArrived s page b).coll = s.coll ∧ (scanArrived s page b).commit = s.commit ∧ (scanArrived s page b).pwr = s.pwr := by
  unfold scanArrived; (repeat' split) <;> simp [apply_ite]

@[simp] theorem stopGracefully_keeps (s : State) :
    (stopGracefully s).pending = s.pending ∧ (stopGracefully s).uptime = s.uptime ∧ (stopGracefully s).drawn = s.drawn := by
  unfold stopGracefully; (repeat' split) <;> simp

@[simp] theorem renewalFailed_keeps (s : State) :
    (renewalFailed s).pending = s.pending ∧ (renewalFailed s).uptime = s.uptime ∧ (renewalFailed s).drawn = s.drawn ∧
      (renewalFailed s).cu = s.cu ∧ (renewalFailed s).seq = s.seq ∧ (renewalFailed s).mem = s.mem ∧
      (renewalFailed s).stash = s.stash ∧ (renewalFailed s).link = s.link ∧ (renewalFailed s).time = s.time ∧
      (renewalFailed s).coll = s.coll ∧ (renewalFailed s).commit = s.commit ∧ (renewalFailed s).rsl = s.rsl ∧
      (renewalFailed s).sec = s.sec ∧ (renewalFailed s).pwr = s.pwr ∧ (renewalFailed s).mon = s.mon ∧
      (renewalFailed s).outbox = s.outbox := by
  unfold renewalFailed; simp

@[simp] theorem renewalArrived_keeps (s : State) (v : DWord) :
    (renewalArrived s v).pending = s.pending ∧ (renewalArrived s v).uptime = s.uptime ∧ (renewalArrived s v).drawn = s.drawn := by
  unfold renewalArrived; (repeat' split) <;> simp

@[simp] theorem stateArrived_keeps (s : State) (st : Byte) :
    (stateArrived s st).pending = s.pending ∧ (stateArrived s st).uptime = s.uptime ∧ (stateArrived s st).drawn = s.drawn := by
  unfold stateArrived; (repeat' split) <;> simp

@[simp] theorem writeUnit_keeps (s : State) (u : Nat) (b : List Byte) :
    (writeUnit s u b).pending = s.pending ∧ (writeUnit s u b).uptime = s.uptime ∧ (writeUnit s u b).drawn = s.drawn ∧
      (writeUnit s u b).cu = s.cu ∧ (writeUnit s u b).seq = s.seq ∧ (writeUnit s u b).stash = s.stash ∧
      (writeUnit s u b).link = s.link ∧ (writeUnit s u b).time = s.time ∧ (writeUnit s u b).coll = s.coll ∧
      (writeUnit s u b).commit = s.commit ∧ (writeUnit s u b).rsl = s.rsl ∧ (writeUnit s u b).sec = s.sec ∧
      (writeUnit s u b).pwr = s.pwr ∧ (writeUnit s u b).mon = s.mon ∧ (writeUnit s u b).outbox = s.outbox := by
  unfold writeUnit; simp

@[simp] theorem writeUnits_keeps (x0 : Nat) (s : State) :
    (writeUnits x0 s).pending = s.pending ∧ (writeUnits x0 s).uptime = s.uptime ∧ (writeUnits x0 s).drawn = s.drawn ∧
      (writeUnits x0 s).cu = s.cu ∧ (writeUnits x0 s).seq = s.seq ∧ (writeUnits x0 s).stash = s.stash ∧
      (writeUnits x0 s).link = s.link ∧ (writeUnits x0 s).time = s.time ∧ (writeUnits x0 s).coll = s.coll ∧
      (writeUnits x0 s).commit = s.commit ∧ (writeUnits x0 s).rsl = s.rsl ∧ (writeUnits x0 s).sec = s.sec ∧
      (writeUnits x0 s).pwr = s.pwr ∧ (writeUnits x0 s).mon = s.mon ∧ (writeUnits x0 s).outbox = s.outbox := by
  induction x0 generalizing s with
  | zero => simp [writeUnits]
  | succ n ih => unfold writeUnits; (repeat' split) <;> simp [ih]

@[simp] theorem unitArrived_keeps (s : State) (u : Nat) (b : List Byte) :
    (unitArrived s u b).pending = s.pending ∧ (unitArrived s u b).uptime = s.uptime ∧ (unitArrived s u b).drawn = s.drawn ∧
      (unitArrived s u b).cu = s.cu ∧ (unitArrived s u b).seq = s.seq ∧ (unitArrived s u b).stash = s.stash ∧
      (unitArrived s u b).link = s.link ∧ (unitArrived s u b).time = s.time ∧ (unitArrived s u b).coll = s.coll ∧
      (unitArrived s u b).commit = s.commit ∧ (unitArrived s u b).rsl = s.rsl ∧ (unitArrived s u b).sec = s.sec ∧
      (unitArrived s u b).pwr = s.pwr ∧ (unitArrived s u b).mon = s.mon ∧ (unitArrived s u b).outbox = s.outbox := by
  unfold unitArrived; (repeat' split) <;> simp

@[simp] theorem dropTransfer_keeps (s : State) (id : Nat) :
    (dropTransfer s id).pending = s.pending ∧ (dropTransfer s id).uptime = s.uptime ∧ (dropTransfer s id).drawn = s.drawn ∧
      (dropTransfer s id).cu = s.cu ∧ (dropTransfer s id).seq = s.seq ∧ (dropTransfer s id).mem = s.mem ∧
      (dropTransfer s id).stash = s.stash ∧ (dropTransfer s id).link = s.link ∧ (dropTransfer s id).time = s.time ∧
      (dropTransfer s id).coll = s.coll ∧ (dropTransfer s id).commit = s.commit ∧ (dropTransfer s id).rsl = s.rsl ∧
      (dropTransfer s id).sec = s.sec ∧ (dropTransfer s id).pwr = s.pwr ∧ (dropTransfer s id).mon = s.mon ∧
      (dropTransfer s id).outbox = s.outbox := by
  unfold dropTransfer; simp

@[simp] theorem transferArrived_keeps (s : State) (use : TransferUse) (t : Transfer) :
    (transferArrived s use t).pending = s.pending ∧ (transferArrived s use t).uptime = s.uptime ∧
      (transferArrived s use t).drawn = s.drawn := by
  cases use <;> cases t <;> delta transferArrived <;> dsimp only <;> (repeat' split) <;>
    simp only [directoryArrived_keeps, renewalArrived_keeps, stateArrived_keeps, flashArrived_keeps, recordFound_keeps,
      imageArrived_keeps, slotArrived_keeps, swapArrived_keeps, unitArrived_keeps, partnerArrived_keeps, noPartner_keeps,
      imageRead_keeps, scanArrived_keeps, pageRead_keeps, replayRead_keeps, headerArrived_keeps, storeWritten_keeps,
      nextEntry_keeps, and_self]

@[simp] theorem sendAgain_keeps (s : State) (p : Pending) (retried : Bool) :
    (sendAgain s p retried).pending = s.pending ∧ (sendAgain s p retried).uptime = s.uptime ∧
      (sendAgain s p retried).drawn = s.drawn ∧ (sendAgain s p retried).cu = s.cu ∧ (sendAgain s p retried).seq = s.seq ∧
      (sendAgain s p retried).mem = s.mem ∧ (sendAgain s p retried).stash = s.stash ∧ (sendAgain s p retried).time = s.time ∧
      (sendAgain s p retried).coll = s.coll ∧ (sendAgain s p retried).commit = s.commit ∧
      (sendAgain s p retried).rsl = s.rsl ∧ (sendAgain s p retried).sec = s.sec ∧ (sendAgain s p retried).pwr = s.pwr := by
  unfold sendAgain; (repeat' split) <;> simp

@[simp] theorem giveUp_keeps (s : State) (p : Pending) :
    (giveUp s p).pending = s.pending ∧ (giveUp s p).uptime = s.uptime ∧ (giveUp s p).drawn = s.drawn := by
  unfold giveUp; (repeat' split) <;> simp

@[simp] theorem partnerSilent_keeps (s : State) (p : Pending) :
    (partnerSilent s p).pending = s.pending ∧ (partnerSilent s p).uptime = s.uptime ∧ (partnerSilent s p).drawn = s.drawn := by
  unfold partnerSilent; (repeat' split) <;> simp

@[simp] theorem sendWaiting_keeps (s : State) :
    (sendWaiting s).pending = s.pending ∧ (sendWaiting s).uptime = s.uptime ∧ (sendWaiting s).drawn = s.drawn ∧
      (sendWaiting s).cu = s.cu ∧ (sendWaiting s).seq = s.seq ∧ (sendWaiting s).mem = s.mem ∧
      (sendWaiting s).stash = s.stash ∧ (sendWaiting s).link = s.link ∧ (sendWaiting s).time = s.time ∧
      (sendWaiting s).coll = s.coll ∧ (sendWaiting s).commit = s.commit ∧ (sendWaiting s).rsl = s.rsl ∧
      (sendWaiting s).sec = s.sec ∧ (sendWaiting s).pwr = s.pwr ∧ (sendWaiting s).mon = s.mon := by
  unfold sendWaiting; simp

@[simp] theorem latchRead_keeps (s : State) (off : Nat) :
    (latchRead s off).pending = s.pending ∧ (latchRead s off).uptime = s.uptime ∧ (latchRead s off).drawn = s.drawn ∧
      (latchRead s off).cu = s.cu ∧ (latchRead s off).seq = s.seq ∧ (latchRead s off).mem = s.mem ∧
      (latchRead s off).stash = s.stash ∧ (latchRead s off).link = s.link ∧ (latchRead s off).coll = s.coll ∧
      (latchRead s off).commit = s.commit ∧ (latchRead s off).rsl = s.rsl ∧ (latchRead s off).eth = s.eth ∧
      (latchRead s off).sec = s.sec ∧ (latchRead s off).pwr = s.pwr ∧ (latchRead s off).outbox = s.outbox := by
  unfold latchRead; (repeat' split) <;> simp

@[simp] theorem shutdownTests_keeps (s : State) (failed : List (Nat × Nat)) :
    (shutdownTests s failed).pending = s.pending ∧ (shutdownTests s failed).uptime = s.uptime ∧
      (shutdownTests s failed).drawn = s.drawn ∧ (shutdownTests s failed).cu = s.cu ∧ (shutdownTests s failed).seq = s.seq ∧
      (shutdownTests s failed).mem = s.mem ∧ (shutdownTests s failed).stash = s.stash ∧
      (shutdownTests s failed).link = s.link ∧ (shutdownTests s failed).time = s.time ∧
      (shutdownTests s failed).coll = s.coll ∧ (shutdownTests s failed).commit = s.commit ∧
      (shutdownTests s failed).rsl = s.rsl ∧ (shutdownTests s failed).eth = s.eth ∧ (shutdownTests s failed).sec = s.sec ∧
      (shutdownTests s failed).pwr = s.pwr ∧ (shutdownTests s failed).outbox = s.outbox := by
  unfold shutdownTests; simp

@[simp] theorem failDomain_keeps (s : State) (d : Nat) :
    (failDomain s d).pending = s.pending ∧ (failDomain s d).uptime = s.uptime ∧ (failDomain s d).drawn = s.drawn := by
  unfold failDomain; (repeat' split) <;> simp [apply_ite]

@[simp] theorem analogueOutcome_keeps (s : State) (acted : List (Nat × Nat)) :
    (analogueOutcome s acted).pending = s.pending ∧ (analogueOutcome s acted).uptime = s.uptime ∧
      (analogueOutcome s acted).drawn = s.drawn := by
  unfold analogueOutcome; simp

@[simp] theorem stageTests_keeps (s : State) (r : StageReport) :
    (stageTests s r).pending = s.pending ∧ (stageTests s r).uptime = s.uptime ∧ (stageTests s r).drawn = s.drawn := by
  unfold stageTests; simp

@[simp] theorem fullWrite_keeps (s : State) :
    (fullWrite s).pending = s.pending ∧ (fullWrite s).uptime = s.uptime ∧ (fullWrite s).drawn = s.drawn ∧
      (fullWrite s).cu = s.cu ∧ (fullWrite s).seq = s.seq ∧ (fullWrite s).mem = s.mem ∧ (fullWrite s).stash = s.stash ∧
      (fullWrite s).link = s.link ∧ (fullWrite s).time = s.time ∧ (fullWrite s).coll = s.coll ∧
      (fullWrite s).commit = s.commit ∧ (fullWrite s).rsl = s.rsl ∧ (fullWrite s).eth = s.eth ∧ (fullWrite s).sec = s.sec ∧
      (fullWrite s).pwr = s.pwr ∧ (fullWrite s).outbox = s.outbox := by
  unfold fullWrite; simp

@[simp] theorem invalidateWrite_keeps (s : State) :
    (invalidateWrite s).pending = s.pending ∧ (invalidateWrite s).uptime = s.uptime ∧ (invalidateWrite s).drawn = s.drawn ∧
      (invalidateWrite s).cu = s.cu ∧ (invalidateWrite s).seq = s.seq ∧ (invalidateWrite s).mem = s.mem ∧
      (invalidateWrite s).stash = s.stash ∧ (invalidateWrite s).link = s.link ∧ (invalidateWrite s).time = s.time ∧
      (invalidateWrite s).coll = s.coll ∧ (invalidateWrite s).commit = s.commit ∧ (invalidateWrite s).rsl = s.rsl ∧
      (invalidateWrite s).eth = s.eth ∧ (invalidateWrite s).sec = s.sec ∧ (invalidateWrite s).pwr = s.pwr ∧
      (invalidateWrite s).outbox = s.outbox := by
  unfold invalidateWrite; simp

@[simp] theorem pwrResult_keeps (s : State) (r : Nat) :
    (pwrResult s r).pending = s.pending ∧ (pwrResult s r).uptime = s.uptime ∧ (pwrResult s r).drawn = s.drawn ∧
      (pwrResult s r).cu = s.cu ∧ (pwrResult s r).seq = s.seq ∧ (pwrResult s r).mem = s.mem ∧
      (pwrResult s r).stash = s.stash ∧ (pwrResult s r).link = s.link ∧ (pwrResult s r).time = s.time ∧
      (pwrResult s r).coll = s.coll ∧ (pwrResult s r).commit = s.commit ∧ (pwrResult s r).rsl = s.rsl ∧
      (pwrResult s r).eth = s.eth ∧ (pwrResult s r).sec = s.sec ∧ (pwrResult s r).mon = s.mon ∧
      (pwrResult s r).outbox = s.outbox := by
  unfold pwrResult; simp

@[simp] theorem enterRetention_keeps (s : State) :
    (enterRetention s).pending = s.pending ∧ (enterRetention s).uptime = s.uptime ∧ (enterRetention s).drawn = s.drawn := by
  unfold enterRetention; simp

@[simp] theorem retainWrite_keeps (s : State) :
    (retainWrite s).pending = s.pending ∧ (retainWrite s).uptime = s.uptime ∧ (retainWrite s).drawn = s.drawn := by
  unfold retainWrite; (repeat' split) <;> simp

@[simp] theorem standbyWrite_keeps (s : State) (failed : List (Nat × Nat)) :
    (standbyWrite s failed).pending = s.pending ∧ (standbyWrite s failed).uptime = s.uptime ∧
      (standbyWrite s failed).drawn = s.drawn := by
  unfold standbyWrite; (repeat' split) <;> simp

@[simp] theorem shutdownWrite_keeps (s : State) (failed : List (Nat × Nat)) :
    (shutdownWrite s failed).pending = s.pending ∧ (shutdownWrite s failed).uptime = s.uptime ∧
      (shutdownWrite s failed).drawn = s.drawn := by
  unfold shutdownWrite; (repeat' split) <;> simp [apply_ite]

@[simp] theorem wakeWrite_keeps (s : State) :
    (wakeWrite s).pending = s.pending ∧ (wakeWrite s).uptime = s.uptime ∧ (wakeWrite s).drawn = s.drawn ∧
      (wakeWrite s).cu = s.cu ∧ (wakeWrite s).seq = s.seq ∧ (wakeWrite s).mem = s.mem ∧ (wakeWrite s).stash = s.stash ∧
      (wakeWrite s).link = s.link ∧ (wakeWrite s).time = s.time ∧ (wakeWrite s).coll = s.coll ∧
      (wakeWrite s).commit = s.commit ∧ (wakeWrite s).rsl = s.rsl ∧ (wakeWrite s).eth = s.eth ∧ (wakeWrite s).sec = s.sec ∧
      (wakeWrite s).mon = s.mon ∧ (wakeWrite s).outbox = s.outbox := by
  unfold wakeWrite; simp

@[simp] theorem wakeSendWrite_keeps (s : State) (ports : BitVec 7) :
    (wakeSendWrite s ports).pending = s.pending ∧ (wakeSendWrite s ports).uptime = s.uptime ∧
      (wakeSendWrite s ports).drawn = s.drawn ∧ (wakeSendWrite s ports).cu = s.cu ∧ (wakeSendWrite s ports).seq = s.seq ∧
      (wakeSendWrite s ports).mem = s.mem ∧ (wakeSendWrite s ports).stash = s.stash ∧ (wakeSendWrite s ports).link = s.link ∧
      (wakeSendWrite s ports).time = s.time ∧ (wakeSendWrite s ports).coll = s.coll ∧
      (wakeSendWrite s ports).commit = s.commit ∧ (wakeSendWrite s ports).rsl = s.rsl ∧ (wakeSendWrite s ports).eth = s.eth ∧
      (wakeSendWrite s ports).sec = s.sec ∧ (wakeSendWrite s ports).pwr = s.pwr ∧ (wakeSendWrite s ports).mon = s.mon := by
  unfold wakeSendWrite; simp

@[simp] theorem backToInterlock_keeps (s : State) :
    (backToInterlock s).pending = s.pending ∧ (backToInterlock s).uptime = s.uptime ∧ (backToInterlock s).drawn = s.drawn ∧
      (backToInterlock s).cu = s.cu ∧ (backToInterlock s).seq = s.seq ∧ (backToInterlock s).mem = s.mem ∧
      (backToInterlock s).stash = s.stash ∧ (backToInterlock s).link = s.link ∧ (backToInterlock s).time = s.time ∧
      (backToInterlock s).coll = s.coll ∧ (backToInterlock s).commit = s.commit ∧ (backToInterlock s).rsl = s.rsl ∧
      (backToInterlock s).eth = s.eth ∧ (backToInterlock s).pwr = s.pwr ∧ (backToInterlock s).mon = s.mon ∧
      (backToInterlock s).outbox = s.outbox := by
  unfold backToInterlock; (repeat' split) <;> simp

@[simp] theorem interlockStop_keeps (s : State) :
    (interlockStop s).pending = s.pending ∧ (interlockStop s).uptime = s.uptime ∧ (interlockStop s).drawn = s.drawn := by
  unfold interlockStop; (repeat' split) <;> simp

@[simp] theorem interlockWake_keeps (s : State) :
    (interlockWake s).pending = s.pending ∧ (interlockWake s).uptime = s.uptime ∧ (interlockWake s).drawn = s.drawn ∧
      (interlockWake s).cu = s.cu ∧ (interlockWake s).seq = s.seq ∧ (interlockWake s).mem = s.mem ∧
      (interlockWake s).stash = s.stash ∧ (interlockWake s).link = s.link ∧ (interlockWake s).time = s.time ∧
      (interlockWake s).coll = s.coll ∧ (interlockWake s).commit = s.commit ∧ (interlockWake s).rsl = s.rsl ∧
      (interlockWake s).eth = s.eth ∧ (interlockWake s).sec = s.sec ∧ (interlockWake s).mon = s.mon ∧
      (interlockWake s).outbox = s.outbox := by
  unfold interlockWake; (repeat' split) <;> simp

@[simp] theorem beginStageFour_keeps (s : State) :
    (beginStageFour s).pending = s.pending ∧ (beginStageFour s).uptime = s.uptime ∧ (beginStageFour s).drawn = s.drawn := by
  unfold beginStageFour; simp

@[simp] theorem continueBoot_keeps (s : State) :
    (continueBoot s).pending = s.pending ∧ (continueBoot s).uptime = s.uptime ∧ (continueBoot s).drawn = s.drawn := by
  unfold continueBoot; (repeat' split) <;> simp

@[simp] theorem thermalEffect_keeps (s : State) :
    (thermalEffect s).pending = s.pending ∧ (thermalEffect s).uptime = s.uptime ∧ (thermalEffect s).drawn = s.drawn := by
  unfold thermalEffect; (repeat' split) <;> simp

@[simp] theorem powerOff_keeps (s : State) :
    (powerOff s).pending = s.pending ∧ (powerOff s).uptime = s.uptime ∧ (powerOff s).drawn = s.drawn ∧
      (powerOff s).outbox = s.outbox := by
  unfold powerOff; simp

@[simp] theorem setPace_keeps (s : State) (p : Nat) (rule : Nat) :
    (setPace s p rule).pending = s.pending ∧ (setPace s p rule).uptime = s.uptime ∧ (setPace s p rule).drawn = s.drawn ∧
      (setPace s p rule).cu = s.cu ∧ (setPace s p rule).seq = s.seq ∧ (setPace s p rule).mem = s.mem ∧
      (setPace s p rule).stash = s.stash ∧ (setPace s p rule).link = s.link ∧ (setPace s p rule).time = s.time ∧
      (setPace s p rule).coll = s.coll ∧ (setPace s p rule).commit = s.commit ∧ (setPace s p rule).rsl = s.rsl ∧
      (setPace s p rule).eth = s.eth ∧ (setPace s p rule).sec = s.sec ∧ (setPace s p rule).mon = s.mon ∧
      (setPace s p rule).outbox = s.outbox := by
  unfold setPace; simp

@[simp] theorem givePace_keeps (s : State) (decision : Bool) (p rule : Nat) :
    (givePace s decision p rule).pending = s.pending ∧ (givePace s decision p rule).uptime = s.uptime ∧
      (givePace s decision p rule).drawn = s.drawn ∧ (givePace s decision p rule).cu = s.cu ∧
      (givePace s decision p rule).seq = s.seq ∧ (givePace s decision p rule).mem = s.mem ∧
      (givePace s decision p rule).stash = s.stash ∧ (givePace s decision p rule).link = s.link ∧
      (givePace s decision p rule).time = s.time ∧ (givePace s decision p rule).coll = s.coll ∧
      (givePace s decision p rule).commit = s.commit ∧ (givePace s decision p rule).rsl = s.rsl ∧
      (givePace s decision p rule).eth = s.eth ∧ (givePace s decision p rule).sec = s.sec ∧
      (givePace s decision p rule).mon = s.mon ∧ (givePace s decision p rule).outbox = s.outbox := by
  unfold givePace; simp

@[simp] theorem writeControl_keeps (s : State) (active : Bool) (trial : Nat) :
    (writeControl s active trial).pending = s.pending ∧ (writeControl s active trial).uptime = s.uptime ∧
      (writeControl s active trial).drawn = s.drawn ∧ (writeControl s active trial).cu = s.cu ∧
      (writeControl s active trial).seq = s.seq ∧ (writeControl s active trial).mem = s.mem ∧
      (writeControl s active trial).stash = s.stash ∧ (writeControl s active trial).link = s.link ∧
      (writeControl s active trial).time = s.time ∧ (writeControl s active trial).coll = s.coll ∧
      (writeControl s active trial).commit = s.commit ∧ (writeControl s active trial).rsl = s.rsl ∧
      (writeControl s active trial).eth = s.eth ∧ (writeControl s active trial).pwr = s.pwr ∧
      (writeControl s active trial).mon = s.mon ∧ (writeControl s active trial).outbox = s.outbox := by
  unfold writeControl; simp

@[simp] theorem markSlot_keeps (s : State) (b bad : Bool) :
    (markSlot s b bad).pending = s.pending ∧ (markSlot s b bad).uptime = s.uptime ∧ (markSlot s b bad).drawn = s.drawn ∧
      (markSlot s b bad).cu = s.cu ∧ (markSlot s b bad).seq = s.seq ∧ (markSlot s b bad).mem = s.mem ∧
      (markSlot s b bad).stash = s.stash ∧ (markSlot s b bad).link = s.link ∧ (markSlot s b bad).time = s.time ∧
      (markSlot s b bad).coll = s.coll ∧ (markSlot s b bad).commit = s.commit ∧ (markSlot s b bad).rsl = s.rsl ∧
      (markSlot s b bad).eth = s.eth ∧ (markSlot s b bad).pwr = s.pwr ∧ (markSlot s b bad).mon = s.mon ∧
      (markSlot s b bad).outbox = s.outbox := by
  unfold markSlot; simp

@[simp] theorem acceptRecord_keeps (s : State) (r : List Byte) (path : Path) :
    (acceptRecord s r path).pending = s.pending ∧ (acceptRecord s r path).uptime = s.uptime ∧
      (acceptRecord s r path).drawn = s.drawn ∧ (acceptRecord s r path).cu = s.cu ∧ (acceptRecord s r path).seq = s.seq ∧
      (acceptRecord s r path).mem = s.mem ∧ (acceptRecord s r path).stash = s.stash ∧ (acceptRecord s r path).link = s.link ∧
      (acceptRecord s r path).time = s.time ∧ (acceptRecord s r path).coll = s.coll ∧
      (acceptRecord s r path).commit = s.commit ∧ (acceptRecord s r path).rsl = s.rsl ∧ (acceptRecord s r path).eth = s.eth ∧
      (acceptRecord s r path).pwr = s.pwr ∧ (acceptRecord s r path).mon = s.mon ∧ (acceptRecord s r path).outbox = s.outbox := by
  unfold acceptRecord; (repeat' split) <;> simp

@[simp] theorem updateResult_keeps (s : State) (n : Nat) :
    (updateResult s n).pending = s.pending ∧ (updateResult s n).uptime = s.uptime ∧ (updateResult s n).drawn = s.drawn ∧
      (updateResult s n).cu = s.cu ∧ (updateResult s n).seq = s.seq ∧ (updateResult s n).mem = s.mem ∧
      (updateResult s n).stash = s.stash ∧ (updateResult s n).link = s.link ∧ (updateResult s n).time = s.time ∧
      (updateResult s n).coll = s.coll ∧ (updateResult s n).commit = s.commit ∧ (updateResult s n).rsl = s.rsl ∧
      (updateResult s n).eth = s.eth ∧ (updateResult s n).pwr = s.pwr ∧ (updateResult s n).mon = s.mon ∧
      (updateResult s n).outbox = s.outbox := by
  unfold updateResult; simp

@[simp] theorem programWrite_keeps (s : State) (chunk : Nat) :
    (programWrite s chunk).pending = s.pending ∧ (programWrite s chunk).uptime = s.uptime ∧
      (programWrite s chunk).drawn = s.drawn ∧ (programWrite s chunk).cu = s.cu ∧ (programWrite s chunk).seq = s.seq ∧
      (programWrite s chunk).mem = s.mem ∧ (programWrite s chunk).stash = s.stash ∧ (programWrite s chunk).link = s.link ∧
      (programWrite s chunk).time = s.time ∧ (programWrite s chunk).coll = s.coll ∧
      (programWrite s chunk).commit = s.commit ∧ (programWrite s chunk).rsl = s.rsl ∧ (programWrite s chunk).eth = s.eth ∧
      (programWrite s chunk).pwr = s.pwr ∧ (programWrite s chunk).mon = s.mon ∧ (programWrite s chunk).outbox = s.outbox := by
  unfold programWrite; (repeat' split) <;> simp

@[simp] theorem commitWrite_keeps (s : State) :
    (commitWrite s).pending = s.pending ∧ (commitWrite s).uptime = s.uptime ∧ (commitWrite s).drawn = s.drawn ∧
      (commitWrite s).cu = s.cu ∧ (commitWrite s).seq = s.seq ∧ (commitWrite s).mem = s.mem ∧
      (commitWrite s).stash = s.stash ∧ (commitWrite s).link = s.link ∧ (commitWrite s).time = s.time ∧
      (commitWrite s).coll = s.coll ∧ (commitWrite s).commit = s.commit ∧ (commitWrite s).rsl = s.rsl ∧
      (commitWrite s).eth = s.eth ∧ (commitWrite s).pwr = s.pwr ∧ (commitWrite s).mon = s.mon ∧
      (commitWrite s).outbox = s.outbox := by
  unfold commitWrite; (repeat' split) <;> simp [apply_ite]

@[simp] theorem restart_keeps (s : State) :
    (restart s).pending = s.pending ∧ (restart s).uptime = s.uptime ∧ (restart s).drawn = s.drawn := by
  unfold restart; simp

@[simp] theorem rebootWrite_keeps (s : State) :
    (rebootWrite s).pending = s.pending ∧ (rebootWrite s).uptime = s.uptime ∧ (rebootWrite s).drawn = s.drawn := by
  unfold rebootWrite; (repeat' split) <;> simp

@[simp] theorem takeRecord_keeps (s : State) (b trial : Bool) (r : List Byte) :
    (takeRecord s b trial r).pending = s.pending ∧ (takeRecord s b trial r).uptime = s.uptime ∧
      (takeRecord s b trial r).drawn = s.drawn := by
  unfold takeRecord; simp

@[simp] theorem rejectSlot_keeps (s : State) (b : Bool) (n : Nat) :
    (rejectSlot s b n).pending = s.pending ∧ (rejectSlot s b n).uptime = s.uptime ∧ (rejectSlot s b n).drawn = s.drawn ∧
      (rejectSlot s b n).cu = s.cu ∧ (rejectSlot s b n).seq = s.seq ∧ (rejectSlot s b n).mem = s.mem ∧
      (rejectSlot s b n).stash = s.stash ∧ (rejectSlot s b n).link = s.link ∧ (rejectSlot s b n).time = s.time ∧
      (rejectSlot s b n).coll = s.coll ∧ (rejectSlot s b n).commit = s.commit ∧ (rejectSlot s b n).rsl = s.rsl ∧
      (rejectSlot s b n).eth = s.eth ∧ (rejectSlot s b n).pwr = s.pwr ∧ (rejectSlot s b n).mon = s.mon ∧
      (rejectSlot s b n).outbox = s.outbox := by
  unfold rejectSlot; simp

@[simp] theorem bootFails_keeps (s : State) :
    (bootFails s).pending = s.pending ∧ (bootFails s).uptime = s.uptime ∧ (bootFails s).drawn = s.drawn ∧
      (bootFails s).cu = s.cu ∧ (bootFails s).seq = s.seq ∧ (bootFails s).mem = s.mem ∧ (bootFails s).stash = s.stash ∧
      (bootFails s).link = s.link ∧ (bootFails s).time = s.time ∧ (bootFails s).coll = s.coll ∧
      (bootFails s).commit = s.commit ∧ (bootFails s).rsl = s.rsl ∧ (bootFails s).eth = s.eth ∧ (bootFails s).pwr = s.pwr ∧
      (bootFails s).mon = s.mon ∧ (bootFails s).outbox = s.outbox := by
  unfold bootFails; simp

@[simp] theorem bootSlots_keeps (s : State) (tryOther : Bool) :
    (bootSlots s tryOther).pending = s.pending ∧ (bootSlots s tryOther).uptime = s.uptime ∧
      (bootSlots s tryOther).drawn = s.drawn := by
  unfold bootSlots; dsimp only
  repeat' split
  all_goals simp only [takeRecord_keeps, rejectSlot_keeps, bootFails_keeps, and_self]

@[simp] theorem trialFailed_keeps (s : State) :
    (trialFailed s).pending = s.pending ∧ (trialFailed s).uptime = s.uptime ∧ (trialFailed s).drawn = s.drawn := by
  unfold trialFailed; simp

@[simp] theorem bootStageTwo_keeps (s : State) :
    (bootStageTwo s).pending = s.pending ∧ (bootStageTwo s).uptime = s.uptime ∧ (bootStageTwo s).drawn = s.drawn := by
  unfold bootStageTwo; (repeat' split) <;> simp [apply_ite]

@[simp] theorem unsealed_keeps (s : State) :
    (unsealed s).pending = s.pending ∧ (unsealed s).uptime = s.uptime ∧ (unsealed s).drawn = s.drawn ∧
      (unsealed s).cu = s.cu ∧ (unsealed s).mem = s.mem ∧ (unsealed s).stash = s.stash ∧ (unsealed s).link = s.link ∧
      (unsealed s).time = s.time ∧ (unsealed s).coll = s.coll ∧ (unsealed s).commit = s.commit ∧ (unsealed s).rsl = s.rsl ∧
      (unsealed s).eth = s.eth ∧ (unsealed s).pwr = s.pwr ∧ (unsealed s).mon = s.mon ∧ (unsealed s).outbox = s.outbox := by
  unfold unsealed; (repeat' split) <;> simp

@[simp] theorem mapPositions_keeps (s : State) :
    (mapPositions s).pending = s.pending ∧ (mapPositions s).uptime = s.uptime ∧ (mapPositions s).drawn = s.drawn ∧
      (mapPositions s).seq = s.seq ∧ (mapPositions s).mem = s.mem ∧ (mapPositions s).stash = s.stash ∧
      (mapPositions s).link = s.link ∧ (mapPositions s).time = s.time ∧ (mapPositions s).coll = s.coll ∧
      (mapPositions s).commit = s.commit ∧ (mapPositions s).rsl = s.rsl ∧ (mapPositions s).eth = s.eth ∧
      (mapPositions s).mon = s.mon ∧ (mapPositions s).outbox = s.outbox := by
  unfold mapPositions; simp

@[simp] theorem bootReady_keeps (s : State) :
    (bootReady s).pending = s.pending ∧ (bootReady s).uptime = s.uptime ∧ (bootReady s).drawn = s.drawn := by
  unfold bootReady; (repeat' split) <;> simp [apply_ite]

@[simp] theorem wakeTested_keeps (s : State) (r : StageReport) :
    (wakeTested s r).pending = s.pending ∧ (wakeTested s r).uptime = s.uptime ∧ (wakeTested s r).drawn = s.drawn := by
  unfold wakeTested; dsimp only
  repeat' split
  all_goals simp only [stageTests_keeps, switchOff_keeps, wakeDone_keeps, beginWake_keeps, wakeEntry_keeps, and_self]

@[simp] theorem personaliseWrite_keeps (s : State) :
    (personaliseWrite s).pending = s.pending ∧ (personaliseWrite s).uptime = s.uptime ∧ (personaliseWrite s).cu = s.cu ∧
      (personaliseWrite s).seq = s.seq ∧ (personaliseWrite s).mem = s.mem ∧ (personaliseWrite s).stash = s.stash ∧
      (personaliseWrite s).link = s.link ∧ (personaliseWrite s).time = s.time ∧ (personaliseWrite s).coll = s.coll ∧
      (personaliseWrite s).commit = s.commit ∧ (personaliseWrite s).rsl = s.rsl ∧ (personaliseWrite s).eth = s.eth ∧
      (personaliseWrite s).pwr = s.pwr ∧ (personaliseWrite s).mon = s.mon ∧ (personaliseWrite s).outbox = s.outbox := by
  unfold personaliseWrite; (repeat' split) <;> simp

@[simp] theorem sealWrite_keeps (s : State) :
    (sealWrite s).pending = s.pending ∧ (sealWrite s).uptime = s.uptime ∧ (sealWrite s).drawn = s.drawn ∧
      (sealWrite s).cu = s.cu ∧ (sealWrite s).seq = s.seq ∧ (sealWrite s).mem = s.mem ∧ (sealWrite s).stash = s.stash ∧
      (sealWrite s).link = s.link ∧ (sealWrite s).time = s.time ∧ (sealWrite s).coll = s.coll ∧
      (sealWrite s).commit = s.commit ∧ (sealWrite s).rsl = s.rsl ∧ (sealWrite s).eth = s.eth ∧ (sealWrite s).pwr = s.pwr ∧
      (sealWrite s).mon = s.mon ∧ (sealWrite s).outbox = s.outbox := by
  unfold sealWrite; (repeat' split) <;> simp

@[simp] theorem returnWrite_keeps (s : State) :
    (returnWrite s).pending = s.pending ∧ (returnWrite s).uptime = s.uptime ∧ (returnWrite s).drawn = s.drawn := by
  unfold returnWrite; (repeat' split) <;> simp

@[simp] theorem closeSession_keeps (s : State) :
    (closeSession s).pending = s.pending ∧ (closeSession s).uptime = s.uptime ∧ (closeSession s).drawn = s.drawn ∧
      (closeSession s).cu = s.cu ∧ (closeSession s).seq = s.seq ∧ (closeSession s).mem = s.mem ∧
      (closeSession s).stash = s.stash ∧ (closeSession s).link = s.link ∧ (closeSession s).time = s.time ∧
      (closeSession s).coll = s.coll ∧ (closeSession s).commit = s.commit ∧ (closeSession s).rsl = s.rsl ∧
      (closeSession s).eth = s.eth ∧ (closeSession s).pwr = s.pwr ∧ (closeSession s).mon = s.mon ∧
      (closeSession s).outbox = s.outbox := by
  unfold closeSession; simp

@[simp] theorem renewNonce_keeps (s : State) :
    (renewNonce s).pending = s.pending ∧ (renewNonce s).uptime = s.uptime ∧ (renewNonce s).cu = s.cu ∧
      (renewNonce s).seq = s.seq ∧ (renewNonce s).mem = s.mem ∧ (renewNonce s).stash = s.stash ∧
      (renewNonce s).link = s.link ∧ (renewNonce s).time = s.time ∧ (renewNonce s).coll = s.coll ∧
      (renewNonce s).commit = s.commit ∧ (renewNonce s).rsl = s.rsl ∧ (renewNonce s).eth = s.eth ∧
      (renewNonce s).pwr = s.pwr ∧ (renewNonce s).mon = s.mon ∧ (renewNonce s).outbox = s.outbox := by
  unfold renewNonce; simp

@[simp] theorem openSession_keeps (s : State) (r : Role) (key : Byte) :
    (openSession s r key).pending = s.pending ∧ (openSession s r key).uptime = s.uptime ∧ (openSession s r key).cu = s.cu ∧
      (openSession s r key).seq = s.seq ∧ (openSession s r key).mem = s.mem ∧ (openSession s r key).stash = s.stash ∧
      (openSession s r key).link = s.link ∧ (openSession s r key).time = s.time ∧ (openSession s r key).coll = s.coll ∧
      (openSession s r key).commit = s.commit ∧ (openSession s r key).rsl = s.rsl ∧ (openSession s r key).eth = s.eth ∧
      (openSession s r key).pwr = s.pwr ∧ (openSession s r key).mon = s.mon ∧ (openSession s r key).outbox = s.outbox := by
  unfold openSession; simp

@[simp] theorem failSession_keeps (s : State) (role : Byte) :
    (failSession s role).pending = s.pending ∧ (failSession s role).uptime = s.uptime ∧ (failSession s role).cu = s.cu ∧
      (failSession s role).seq = s.seq ∧ (failSession s role).mem = s.mem ∧ (failSession s role).stash = s.stash ∧
      (failSession s role).link = s.link ∧ (failSession s role).time = s.time ∧ (failSession s role).coll = s.coll ∧
      (failSession s role).commit = s.commit ∧ (failSession s role).rsl = s.rsl ∧ (failSession s role).eth = s.eth ∧
      (failSession s role).pwr = s.pwr ∧ (failSession s role).mon = s.mon ∧ (failSession s role).outbox = s.outbox := by
  unfold failSession; simp

@[simp] theorem stopWrite_keeps (s : State) (immediate : Bool) :
    (stopWrite s immediate).pending = s.pending ∧ (stopWrite s immediate).uptime = s.uptime ∧
      (stopWrite s immediate).drawn = s.drawn := by
  unfold stopWrite; (repeat' split) <;> simp

@[simp] theorem attestWrite_keeps (s : State) :
    (attestWrite s).pending = s.pending ∧ (attestWrite s).uptime = s.uptime ∧ (attestWrite s).drawn = s.drawn ∧
      (attestWrite s).cu = s.cu ∧ (attestWrite s).seq = s.seq ∧ (attestWrite s).mem = s.mem ∧
      (attestWrite s).stash = s.stash ∧ (attestWrite s).link = s.link ∧ (attestWrite s).time = s.time ∧
      (attestWrite s).coll = s.coll ∧ (attestWrite s).commit = s.commit ∧ (attestWrite s).rsl = s.rsl ∧
      (attestWrite s).eth = s.eth ∧ (attestWrite s).pwr = s.pwr ∧ (attestWrite s).mon = s.mon ∧
      (attestWrite s).outbox = s.outbox := by
  unfold attestWrite; simp

@[simp] theorem nextAttest_keeps (s : State) :
    (nextAttest s).pending = s.pending ∧ (nextAttest s).uptime = s.uptime ∧ (nextAttest s).drawn = s.drawn ∧
      (nextAttest s).cu = s.cu ∧ (nextAttest s).seq = s.seq ∧ (nextAttest s).mem = s.mem ∧ (nextAttest s).stash = s.stash ∧
      (nextAttest s).link = s.link ∧ (nextAttest s).time = s.time ∧ (nextAttest s).coll = s.coll ∧
      (nextAttest s).commit = s.commit ∧ (nextAttest s).rsl = s.rsl ∧ (nextAttest s).eth = s.eth ∧
      (nextAttest s).pwr = s.pwr ∧ (nextAttest s).mon = s.mon ∧ (nextAttest s).outbox = s.outbox := by
  unfold nextAttest; (repeat' split) <;> simp

@[simp] theorem sendReport_keeps (s : State) (p : Nat) (bs : List Byte) :
    (sendReport s p bs).pending = s.pending ∧ (sendReport s p bs).uptime = s.uptime ∧ (sendReport s p bs).drawn = s.drawn ∧
      (sendReport s p bs).cu = s.cu ∧ (sendReport s p bs).seq = s.seq ∧ (sendReport s p bs).mem = s.mem ∧
      (sendReport s p bs).stash = s.stash ∧ (sendReport s p bs).time = s.time ∧ (sendReport s p bs).coll = s.coll ∧
      (sendReport s p bs).commit = s.commit ∧ (sendReport s p bs).rsl = s.rsl ∧ (sendReport s p bs).eth = s.eth ∧
      (sendReport s p bs).sec = s.sec ∧ (sendReport s p bs).pwr = s.pwr := by
  unfold sendReport; (repeat' split) <;> simp

@[simp] theorem writePmax_keeps (s : State) (v : Word) :
    (writePmax s v).pending = s.pending ∧ (writePmax s v).uptime = s.uptime ∧ (writePmax s v).drawn = s.drawn ∧
      (writePmax s v).cu = s.cu ∧ (writePmax s v).seq = s.seq ∧ (writePmax s v).mem = s.mem ∧
      (writePmax s v).stash = s.stash ∧ (writePmax s v).link = s.link ∧ (writePmax s v).time = s.time ∧
      (writePmax s v).coll = s.coll ∧ (writePmax s v).commit = s.commit ∧ (writePmax s v).rsl = s.rsl ∧
      (writePmax s v).eth = s.eth ∧ (writePmax s v).sec = s.sec ∧ (writePmax s v).mon = s.mon ∧
      (writePmax s v).outbox = s.outbox := by
  unfold writePmax; (repeat' split) <;> simp [apply_ite]

@[simp] theorem writeLimit_keeps (s : State) (v : Word) :
    (writeLimit s v).pending = s.pending ∧ (writeLimit s v).uptime = s.uptime ∧ (writeLimit s v).drawn = s.drawn ∧
      (writeLimit s v).cu = s.cu ∧ (writeLimit s v).seq = s.seq ∧ (writeLimit s v).mem = s.mem ∧
      (writeLimit s v).stash = s.stash ∧ (writeLimit s v).link = s.link ∧ (writeLimit s v).time = s.time ∧
      (writeLimit s v).coll = s.coll ∧ (writeLimit s v).commit = s.commit ∧ (writeLimit s v).rsl = s.rsl ∧
      (writeLimit s v).eth = s.eth ∧ (writeLimit s v).sec = s.sec ∧ (writeLimit s v).mon = s.mon ∧
      (writeLimit s v).outbox = s.outbox := by
  unfold writeLimit; simp

@[simp] theorem plainWrite_keeps (s : State) (off : Nat) (v : Word) :
    (plainWrite s off v).pending = s.pending ∧ (plainWrite s off v).uptime = s.uptime ∧
      (plainWrite s off v).drawn = s.drawn ∧ (plainWrite s off v).cu = s.cu ∧ (plainWrite s off v).seq = s.seq ∧
      (plainWrite s off v).stash = s.stash ∧ (plainWrite s off v).link = s.link ∧ (plainWrite s off v).coll = s.coll ∧
      (plainWrite s off v).commit = s.commit ∧ (plainWrite s off v).eth = s.eth ∧ (plainWrite s off v).mon = s.mon ∧
      (plainWrite s off v).outbox = s.outbox := by
  unfold plainWrite; (repeat' split) <;> simp

@[simp] theorem guarded_pending (s : State) (right : Bool) (off : Nat) (v : Word) (t : State) (h : t.pending = s.pending) :
    (guarded s right off v t).1.pending = s.pending := by
  unfold guarded; split <;> simp [h]
@[simp] theorem guarded_uptime (s : State) (right : Bool) (off : Nat) (v : Word) (t : State) (h : t.uptime = s.uptime) :
    (guarded s right off v t).1.uptime = s.uptime := by
  unfold guarded; split <;> simp [h]
@[simp] theorem guarded_drawn (s : State) (right : Bool) (off : Nat) (v : Word) (t : State) (h : t.drawn = s.drawn) :
    (guarded s right off v t).1.drawn = s.drawn := by
  unfold guarded; split <;> simp [h]
@[simp] theorem guarded_cu (s : State) (right : Bool) (off : Nat) (v : Word) (t : State) (h : t.cu = s.cu) :
    (guarded s right off v t).1.cu = s.cu := by
  unfold guarded; split <;> simp [h]
@[simp] theorem guarded_seq (s : State) (right : Bool) (off : Nat) (v : Word) (t : State) (h : t.seq = s.seq) :
    (guarded s right off v t).1.seq = s.seq := by
  unfold guarded; split <;> simp [h]
@[simp] theorem guarded_mem (s : State) (right : Bool) (off : Nat) (v : Word) (t : State) (h : t.mem = s.mem) :
    (guarded s right off v t).1.mem = s.mem := by
  unfold guarded; split <;> simp [h]
@[simp] theorem guarded_stash (s : State) (right : Bool) (off : Nat) (v : Word) (t : State) (h : t.stash = s.stash) :
    (guarded s right off v t).1.stash = s.stash := by
  unfold guarded; split <;> simp [h]
@[simp] theorem guarded_link (s : State) (right : Bool) (off : Nat) (v : Word) (t : State) (h : t.link = s.link) :
    (guarded s right off v t).1.link = s.link := by
  unfold guarded; split <;> simp [h]
@[simp] theorem guarded_time (s : State) (right : Bool) (off : Nat) (v : Word) (t : State) (h : t.time = s.time) :
    (guarded s right off v t).1.time = s.time := by
  unfold guarded; split <;> simp [h]
@[simp] theorem guarded_coll (s : State) (right : Bool) (off : Nat) (v : Word) (t : State) (h : t.coll = s.coll) :
    (guarded s right off v t).1.coll = s.coll := by
  unfold guarded; split <;> simp [h]
@[simp] theorem guarded_commit (s : State) (right : Bool) (off : Nat) (v : Word) (t : State) (h : t.commit = s.commit) :
    (guarded s right off v t).1.commit = s.commit := by
  unfold guarded; split <;> simp [h]
@[simp] theorem guarded_rsl (s : State) (right : Bool) (off : Nat) (v : Word) (t : State) (h : t.rsl = s.rsl) :
    (guarded s right off v t).1.rsl = s.rsl := by
  unfold guarded; split <;> simp [h]
@[simp] theorem guarded_eth (s : State) (right : Bool) (off : Nat) (v : Word) (t : State) (h : t.eth = s.eth) :
    (guarded s right off v t).1.eth = s.eth := by
  unfold guarded; split <;> simp [h]
@[simp] theorem guarded_pwr (s : State) (right : Bool) (off : Nat) (v : Word) (t : State) (h : t.pwr = s.pwr) :
    (guarded s right off v t).1.pwr = s.pwr := by
  unfold guarded; split <;> simp [h]
@[simp] theorem guarded_mon (s : State) (right : Bool) (off : Nat) (v : Word) (t : State) (h : t.mon = s.mon) :
    (guarded s right off v t).1.mon = s.mon := by
  unfold guarded; split <;> simp [h]
@[simp] theorem guarded_outbox (s : State) (right : Bool) (off : Nat) (v : Word) (t : State) (h : t.outbox = s.outbox) :
    (guarded s right off v t).1.outbox = s.outbox := by
  unfold guarded; split <;> simp [h]

@[simp] theorem writePowerCommand_keeps (s : State) (v : Word) :
    (writePowerCommand s v).1.pending = s.pending ∧ (writePowerCommand s v).1.uptime = s.uptime := by
  unfold writePowerCommand; (repeat' split) <;> simp

@[simp] theorem writeLife_keeps (s : State) (v : Word) :
    (writeLife s v).1.pending = s.pending ∧ (writeLife s v).1.uptime = s.uptime := by
  unfold writeLife; (repeat' split) <;> simp

@[simp] theorem writeJob_keeps (s : State) (v : Word) :
    (writeJob s v).1.pending = s.pending ∧ (writeJob s v).1.uptime = s.uptime ∧ (writeJob s v).1.drawn = s.drawn := by
  unfold writeJob; (repeat' split) <;> simp

@[simp] theorem writeUpdate_keeps (s : State) (v : Word) :
    (writeUpdate s v).1.pending = s.pending ∧ (writeUpdate s v).1.uptime = s.uptime ∧ (writeUpdate s v).1.drawn = s.drawn := by
  unfold writeUpdate; (repeat' split) <;> simp

@[simp] theorem writeBist_keeps (s : State) (v : Word) :
    (writeBist s v).1.pending = s.pending ∧ (writeBist s v).1.uptime = s.uptime ∧ (writeBist s v).1.drawn = s.drawn ∧
      (writeBist s v).1.cu = s.cu ∧ (writeBist s v).1.seq = s.seq ∧ (writeBist s v).1.mem = s.mem ∧
      (writeBist s v).1.stash = s.stash ∧ (writeBist s v).1.link = s.link ∧ (writeBist s v).1.time = s.time ∧
      (writeBist s v).1.coll = s.coll ∧ (writeBist s v).1.commit = s.commit ∧ (writeBist s v).1.rsl = s.rsl ∧
      (writeBist s v).1.eth = s.eth ∧ (writeBist s v).1.pwr = s.pwr ∧ (writeBist s v).1.outbox = s.outbox := by
  unfold writeBist; (repeat' split) <;> simp

@[simp] theorem writeWord_keeps (s : State) (off : Nat) (v : Word) :
    (writeWord s off v).1.pending = s.pending ∧ (writeWord s off v).1.uptime = s.uptime := by
  unfold writeWord; (repeat' split) <;> simp

@[simp] theorem countAlign_keeps (s : State) :
    (countAlign s).pending = s.pending ∧ (countAlign s).uptime = s.uptime ∧ (countAlign s).drawn = s.drawn ∧
      (countAlign s).cu = s.cu ∧ (countAlign s).seq = s.seq ∧ (countAlign s).mem = s.mem ∧ (countAlign s).stash = s.stash ∧
      (countAlign s).link = s.link ∧ (countAlign s).time = s.time ∧ (countAlign s).coll = s.coll ∧
      (countAlign s).commit = s.commit ∧ (countAlign s).rsl = s.rsl ∧ (countAlign s).eth = s.eth ∧
      (countAlign s).pwr = s.pwr ∧ (countAlign s).mon = s.mon ∧ (countAlign s).outbox = s.outbox := by
  unfold countAlign; simp

@[simp] theorem chainReadWords_keeps (s : State) (off : Nat) (x0 : Nat) :
    (chainReadWords s off x0).1.pending = s.pending ∧ (chainReadWords s off x0).1.uptime = s.uptime ∧
      (chainReadWords s off x0).1.drawn = s.drawn ∧ (chainReadWords s off x0).1.cu = s.cu ∧
      (chainReadWords s off x0).1.seq = s.seq ∧ (chainReadWords s off x0).1.mem = s.mem ∧
      (chainReadWords s off x0).1.stash = s.stash ∧ (chainReadWords s off x0).1.link = s.link ∧
      (chainReadWords s off x0).1.coll = s.coll ∧ (chainReadWords s off x0).1.commit = s.commit ∧
      (chainReadWords s off x0).1.rsl = s.rsl ∧ (chainReadWords s off x0).1.eth = s.eth ∧
      (chainReadWords s off x0).1.sec = s.sec ∧ (chainReadWords s off x0).1.pwr = s.pwr ∧
      (chainReadWords s off x0).1.outbox = s.outbox := by
  induction x0 generalizing off s with
  | zero => simp [chainReadWords]
  | succ n ih => unfold chainReadWords; dsimp only; split <;> simp [ih]

@[simp] theorem chainWriteWords_keeps (s : State) (off : Nat) (x0 : List Word) :
    (chainWriteWords s off x0).1.pending = s.pending ∧ (chainWriteWords s off x0).1.uptime = s.uptime := by
  induction x0 generalizing off s with
  | nil => simp [chainWriteWords]
  | cons v l ih => unfold chainWriteWords; simp [ih]

@[simp] theorem broadcastWrite_keeps (s : State) (off : Nat) (vs : List Word) :
    (broadcastWrite s off vs).pending = s.pending ∧ (broadcastWrite s off vs).uptime = s.uptime := by
  unfold broadcastWrite; (repeat' split) <;> simp

@[simp] theorem rdmaBytes_keeps (s : State) (r : Role) (off : Nat) (x0 : Nat) :
    (rdmaBytes s r off x0).1.pending = s.pending ∧ (rdmaBytes s r off x0).1.uptime = s.uptime ∧
      (rdmaBytes s r off x0).1.drawn = s.drawn ∧ (rdmaBytes s r off x0).1.cu = s.cu ∧ (rdmaBytes s r off x0).1.seq = s.seq ∧
      (rdmaBytes s r off x0).1.mem = s.mem ∧ (rdmaBytes s r off x0).1.stash = s.stash ∧
      (rdmaBytes s r off x0).1.link = s.link ∧ (rdmaBytes s r off x0).1.coll = s.coll ∧
      (rdmaBytes s r off x0).1.commit = s.commit ∧ (rdmaBytes s r off x0).1.rsl = s.rsl ∧
      (rdmaBytes s r off x0).1.eth = s.eth ∧ (rdmaBytes s r off x0).1.sec = s.sec ∧ (rdmaBytes s r off x0).1.pwr = s.pwr ∧
      (rdmaBytes s r off x0).1.outbox = s.outbox := by
  induction x0 generalizing off s with
  | zero => simp [rdmaBytes]
  | succ n ih => unfold rdmaBytes; dsimp only; split <;> simp [ih]

@[simp] theorem refuseRead_keeps (s : State) (p : Option Peer) :
    (refuseRead s p).pending = s.pending ∧ (refuseRead s p).uptime = s.uptime ∧ (refuseRead s p).drawn = s.drawn ∧
      (refuseRead s p).cu = s.cu ∧ (refuseRead s p).seq = s.seq ∧ (refuseRead s p).mem = s.mem ∧
      (refuseRead s p).stash = s.stash ∧ (refuseRead s p).link = s.link ∧ (refuseRead s p).time = s.time ∧
      (refuseRead s p).coll = s.coll ∧ (refuseRead s p).commit = s.commit ∧ (refuseRead s p).rsl = s.rsl ∧
      (refuseRead s p).sec = s.sec ∧ (refuseRead s p).pwr = s.pwr ∧ (refuseRead s p).mon = s.mon := by
  unfold refuseRead; simp

@[simp] theorem serveHost_keeps (s : State) (i : Nat) (offset length : Nat) (kind : RdmaKind) :
    (serveHost s i offset length kind).pending = s.pending ∧ (serveHost s i offset length kind).uptime = s.uptime ∧
      (serveHost s i offset length kind).drawn = s.drawn ∧ (serveHost s i offset length kind).cu = s.cu ∧
      (serveHost s i offset length kind).seq = s.seq ∧ (serveHost s i offset length kind).mem = s.mem ∧
      (serveHost s i offset length kind).stash = s.stash ∧ (serveHost s i offset length kind).link = s.link ∧
      (serveHost s i offset length kind).coll = s.coll ∧ (serveHost s i offset length kind).commit = s.commit ∧
      (serveHost s i offset length kind).rsl = s.rsl ∧ (serveHost s i offset length kind).pwr = s.pwr := by
  unfold serveHost; (repeat' split) <;> simp

@[simp] theorem readBy_keeps (s : State) (r : Reader) (off : Nat) :
    (readBy s r off).pending = s.pending ∧ (readBy s r off).uptime = s.uptime ∧ (readBy s r off).drawn = s.drawn ∧
      (readBy s r off).cu = s.cu ∧ (readBy s r off).seq = s.seq ∧ (readBy s r off).mem = s.mem ∧
      (readBy s r off).stash = s.stash ∧ (readBy s r off).link = s.link ∧ (readBy s r off).coll = s.coll ∧
      (readBy s r off).commit = s.commit ∧ (readBy s r off).rsl = s.rsl ∧ (readBy s r off).eth = s.eth ∧
      (readBy s r off).pwr = s.pwr ∧ (readBy s r off).outbox = s.outbox := by
  unfold readBy; (repeat' split) <;> simp

@[simp] theorem rewriteStep_keeps (s : State) :
    (rewriteStep s).pending = s.pending ∧ (rewriteStep s).uptime = s.uptime ∧ (rewriteStep s).drawn = s.drawn ∧
      (rewriteStep s).cu = s.cu ∧ (rewriteStep s).seq = s.seq ∧ (rewriteStep s).mem = s.mem ∧
      (rewriteStep s).stash = s.stash ∧ (rewriteStep s).link = s.link ∧ (rewriteStep s).time = s.time ∧
      (rewriteStep s).coll = s.coll ∧ (rewriteStep s).commit = s.commit ∧ (rewriteStep s).rsl = s.rsl ∧
      (rewriteStep s).sec = s.sec ∧ (rewriteStep s).pwr = s.pwr ∧ (rewriteStep s).mon = s.mon ∧
      (rewriteStep s).outbox = s.outbox := by
  unfold rewriteStep; (repeat' split) <;> simp

@[simp] theorem endRewrite_keeps (s : State) :
    (endRewrite s).pending = s.pending ∧ (endRewrite s).uptime = s.uptime ∧ (endRewrite s).drawn = s.drawn ∧
      (endRewrite s).cu = s.cu ∧ (endRewrite s).seq = s.seq ∧ (endRewrite s).mem = s.mem ∧ (endRewrite s).stash = s.stash ∧
      (endRewrite s).link = s.link ∧ (endRewrite s).time = s.time ∧ (endRewrite s).coll = s.coll ∧
      (endRewrite s).commit = s.commit ∧ (endRewrite s).rsl = s.rsl ∧ (endRewrite s).sec = s.sec ∧
      (endRewrite s).pwr = s.pwr ∧ (endRewrite s).mon = s.mon ∧ (endRewrite s).outbox = s.outbox := by
  unfold endRewrite; (repeat' split) <;> simp

@[simp] theorem lowerDone_keeps (s : State) :
    (lowerDone s).pending = s.pending ∧ (lowerDone s).uptime = s.uptime ∧ (lowerDone s).drawn = s.drawn := by
  unfold lowerDone; (repeat' split) <;> simp

@[simp] theorem sealAgain_keeps (s : State) :
    (sealAgain s).pending = s.pending ∧ (sealAgain s).uptime = s.uptime ∧ (sealAgain s).drawn = s.drawn ∧
      (sealAgain s).cu = s.cu ∧ (sealAgain s).mem = s.mem ∧ (sealAgain s).stash = s.stash ∧ (sealAgain s).link = s.link ∧
      (sealAgain s).time = s.time ∧ (sealAgain s).coll = s.coll ∧ (sealAgain s).commit = s.commit ∧
      (sealAgain s).rsl = s.rsl ∧ (sealAgain s).eth = s.eth ∧ (sealAgain s).pwr = s.pwr ∧ (sealAgain s).mon = s.mon ∧
      (sealAgain s).outbox = s.outbox := by
  unfold sealAgain; (repeat' split) <;> simp

@[simp] theorem tickWork_keeps (s : State) :
    (tickWork s).pending = s.pending ∧ (tickWork s).uptime = s.uptime ∧ (tickWork s).drawn = s.drawn := by
  unfold tickWork; (repeat' split) <;> simp

@[simp] theorem idleTick_keeps (s : State) :
    (idleTick s).pending = s.pending ∧ (idleTick s).drawn = s.drawn := by
  unfold idleTick; (repeat' split) <;> simp

@[simp] theorem takeRow_keeps (s : State) (op : CoreOp) (n : Nat) :
    (takeRow s op n).pending = s.pending ∧ (takeRow s op n).uptime = s.uptime ∧ (takeRow s op n).drawn = s.drawn ∧
      (takeRow s op n).seq = s.seq ∧ (takeRow s op n).mem = s.mem ∧ (takeRow s op n).stash = s.stash ∧
      (takeRow s op n).link = s.link ∧ (takeRow s op n).time = s.time ∧ (takeRow s op n).coll = s.coll ∧
      (takeRow s op n).commit = s.commit ∧ (takeRow s op n).rsl = s.rsl ∧ (takeRow s op n).eth = s.eth ∧
      (takeRow s op n).sec = s.sec ∧ (takeRow s op n).pwr = s.pwr ∧ (takeRow s op n).mon = s.mon ∧
      (takeRow s op n).outbox = s.outbox := by
  unfold takeRow; simp

end Sys2Proof.Machine
end

