-- ==== Sys2Proof/Laws/Operations.lean ====
section
/-! SUPPORT. What the shared frames of core and chip operations do when no check fails: the spec lemmas that a proof about an
operation cites in place of unfolding coreOp, chipOp, flowOp and pushResult. -/

namespace Sys2Proof.Machine

/-- No check fails. -/
theorem firstFault_none (l : List (Option Flt)) (h : ∀ x ∈ l, x = none) : firstFault l = none := by
  simpa [firstFault, List.findSome?_eq_none_iff] using h

/-- An operation of an active core whose checks pass has its effect. -/
theorem coreOp_ok {s : State} {op : CoreOp} {cks : List (Option Flt)} {e : State} (h : coreActive s op.core = true)
    (hc : firstFault cks = none) : coreOp s op cks e = .next (noteCoreOp s e op false) := by
  simp [coreOp, h, hc]

/-- What counts an operation changes the counters and samples alone. -/
theorem onlyParts_note {s e : State} {op : CoreOp} (ps : List Part) (h : onlyParts ps s e) (hm : .mon ∈ ps) :
    onlyParts ps s (noteCoreOp s e op false) := by
  intro p hp
  have := h p hp
  cases p <;> simp_all [samePart]

/-- A core operation whose checks pass does what its effect on the cores does. -/
theorem does_coreOp {c : Instr} {s : State} {op : CoreOp} {cks : List (Option Flt)} {e : State} {ps : List Part}
    {P : State → Prop} (hx : exec c s = coreOp s op cks e) (h : coreActive s op.core = true) (hc : firstFault cks = none)
    (hf : onlyParts ps s e) (hm : .mon ∈ ps) (hP : ∀ t : State, t.cu = e.cu → P t) : Does c s ps P :=
  ⟨_, hx.trans (coreOp_ok h hc), onlyParts_note ps hf hm, hP _ (by simp)⟩

/-- A pushed result changes the cores alone. -/
theorem onlyParts_pushResult {s : State} {op : CoreOp} {lat : Nat} {d : Dest} {a b : Bool} :
    onlyParts [.cu, .mon] s (pushResult s op lat d a b) := by
  intro p hp
  cases p <;> simp_all [samePart]

/-- A pushed result is due at the end of clk c + lat − 1 (R146), its registers readable from clk c + lat (R148). -/
theorem pushResult_cu {s : State} {op : CoreOp} {lat : Nat} {d : Dest} {a b : Bool} :
    (pushResult s op lat d a b).cu = issued s op lat d a b := by
  cases d <;> simp [pushResult, markReady, issued]

/-- A chip operation of an issuing bundle whose checks pass has its effect, and is counted. -/
theorem chipOp_ok {s : State} {op : ChipOp} {cks : List (Option Flt)} {e : State} (h : s.seq.current.isSome = true)
    (hc : firstFault cks = none) : ∃ t, chipOp s op cks e = .next t ∧ ∀ p, p ≠ .mon → samePart e t p := by
  simp only [chipOp, h, hc, if_true]
  refine ⟨_, rfl, ?_⟩
  intro p hp
  split
  · cases p <;> rfl
  · cases p <;> simp_all [samePart]

/-- A chip operation whose checks pass does what its effect does. -/
theorem does_chipOp {c : Instr} {s : State} {op : ChipOp} {cks : List (Option Flt)} {e : State} {ps : List Part}
    {P : State → Prop} (hx : exec c s = chipOp s op cks e) (h : s.seq.current.isSome = true) (hc : firstFault cks = none)
    (hf : onlyParts ps s e) (hm : .mon ∈ ps) (hP : ∀ t : State, (∀ p, p ≠ .mon → samePart e t p) → P t) :
    Does c s ps P := by
  obtain ⟨t, h1, h2⟩ := chipOp_ok (op := op) (e := e) h hc
  refine ⟨t, hx.trans h1, ?_, hP t h2⟩
  intro p hp
  have a := hf p hp
  have b := h2 p (by rintro rfl; exact hp hm)
  cases p <;> simp_all [samePart]

/-- A denied access over the chain: counted and logged, nothing else. -/
theorem onlyParts_denyWrite {s : State} {off v : Nat} : onlyParts [.sec] s (denyWrite s off v) := by
  intro p hp
  cases p <;> simp_all [samePart]

end Sys2Proof.Machine
end

