-- ==== Sys2Proof/Laws/Sparse.lean ====
section
/-! SUPPORT. The laws of the stores: a read after a write, and that every operation keeps the canonical form. -/

namespace Sys2Proof.Machine

@[simp] theorem Sparse.get_nil {w : Nat} (a : Nat) : Sparse.get ([] : Sparse w) a = 0 := rfl

theorem Sparse.get_place_same {w : Nat} (m : Sparse w) (a : Nat) (v : BitVec w)
    (h : ∀ c ∈ m, c.1 ≠ a) : (Sparse.place a v m).get a = v := by
  fun_induction Sparse.place a v m <;> simp_all [Sparse.get]

theorem Sparse.get_place_other {w : Nat} (m : Sparse w) (a b : Nat) (v : BitVec w) (h : a ≠ b) :
    (Sparse.place a v m).get b = m.get b := by
  induction m with
  | nil => simp [Sparse.place, Sparse.get, h]
  | cons c m ih =>
    obtain ⟨k, x⟩ := c
    by_cases hlt : a < k
    · simp [Sparse.place, hlt, Sparse.get, h]
    · simp [Sparse.place, hlt, Sparse.get, ih]

theorem Sparse.get_drop {w : Nat} (m : Sparse w) (p : Nat → Bool) (a : Nat) :
    (m.drop p).get a = if p a then 0 else m.get a := by
  induction m with
  | nil => simp [Sparse.drop, Sparse.get]
  | cons c m ih =>
    obtain ⟨k, x⟩ := c
    simp only [Sparse.drop] at ih ⊢
    cases hp : p k <;> by_cases hk : k = a <;> simp_all [Sparse.get]

/-- A read of a just-written key gives the value written. -/
@[simp] theorem Sparse.get_set_same {w : Nat} (m : Sparse w) (a : Nat) (v : BitVec w) :
    (m.set a v).get a = v := by
  unfold Sparse.set
  by_cases hv : v = 0#w
  · simp [hv, Sparse.get_drop]
  · simp only [hv, if_false]
    apply Sparse.get_place_same
    intro c hc
    simp only [Sparse.drop, List.mem_filter] at hc
    simpa using hc.2

/-- A write leaves every other key alone. -/
theorem Sparse.get_set_other {w : Nat} (m : Sparse w) (a b : Nat) (v : BitVec w) (h : a ≠ b) :
    (m.set a v).get b = m.get b := by
  have hb : (m.drop (fun k => k == a)).get b = m.get b := by
    have : (b == a) = false := by simpa using fun e => h e.symm
    simp [Sparse.get_drop, this]
  unfold Sparse.set
  by_cases hv : v = 0#w
  · simp [hv, hb]
  · simp [hv, Sparse.get_place_other _ _ _ _ h, hb]

theorem Sparse.get_clear {w : Nat} (m : Sparse w) (lo hi a : Nat) :
    (m.clear lo hi).get a = if lo ≤ a ∧ a < hi then 0 else m.get a := by
  simp [Sparse.clear, Sparse.get_drop]

theorem Sparse.wf_drop {w : Nat} (m : Sparse w) (p : Nat → Bool) (h : m.wf = true) : (m.drop p).wf = true := by
  induction m with
  | nil => rfl
  | cons c m ih =>
    obtain ⟨k, x⟩ := c
    simp only [Sparse.wf, Bool.and_eq_true, List.all_eq_true] at h
    have ih' := ih h.2
    simp only [Sparse.drop] at ih' ⊢
    cases hp : p k
    · simp only [List.filter_cons, hp, Bool.not_false, if_true, Sparse.wf, Bool.and_eq_true, List.all_eq_true, ih',
        and_true]
      exact ⟨h.1.1, fun c hc => h.1.2 c ((List.mem_filter.mp hc).1)⟩
    · simpa [List.filter_cons, hp] using ih'

theorem Sparse.mem_place {w : Nat} (m : Sparse w) (a : Nat) (v : BitVec w) (c : Nat × BitVec w) :
    c ∈ Sparse.place a v m → c = (a, v) ∨ c ∈ m := by
  fun_induction Sparse.place a v m <;> grind

theorem Sparse.wf_place {w : Nat} (m : Sparse w) (a : Nat) (v : BitVec w) (h : m.wf = true)
    (hv : v ≠ 0#w) (ha : ∀ c ∈ m, c.1 ≠ a) : (Sparse.place a v m).wf = true := by
  induction m with
  | nil => simp [Sparse.place, Sparse.wf, hv]
  | cons c m ih =>
    obtain ⟨k, x⟩ := c
    have hk : k ≠ a := ha (k, x) (by simp)
    have hm : ∀ c ∈ m, c.1 ≠ a := fun c hc => ha c (by simp [hc])
    have h' := h
    simp only [Sparse.wf, Bool.and_eq_true, List.all_eq_true, decide_eq_true_eq] at h
    by_cases hlt : a < k
    · simp only [Sparse.place, hlt, if_true]
      rw [Sparse.wf]
      simp only [h', Bool.and_eq_true, List.all_eq_true, decide_eq_true_eq, bne_iff_ne, ne_eq, hv,
        not_false_eq_true, true_and, and_true, List.mem_cons]
      rintro c (rfl | hc)
      · exact hlt
      · exact Nat.lt_trans hlt (h.1.2 c hc)
    · simp only [Sparse.place, hlt, if_false, Sparse.wf, Bool.and_eq_true, List.all_eq_true, decide_eq_true_eq,
        ih h.2 hm, and_true]
      refine ⟨h.1.1, fun c hc => ?_⟩
      rcases Sparse.mem_place m a v c hc with rfl | hc
      · exact Nat.lt_of_le_of_ne (Nat.le_of_not_lt hlt) hk
      · exact h.1.2 c hc

/-- A write keeps the canonical form. -/
theorem Sparse.wf_set {w : Nat} (m : Sparse w) (a : Nat) (v : BitVec w) (h : m.wf = true) : (m.set a v).wf = true := by
  have hd := Sparse.wf_drop m (fun k => k == a) h
  unfold Sparse.set
  by_cases hv : v = 0#w
  · simpa [hv] using hd
  · simp only [hv, if_false]
    apply Sparse.wf_place _ _ _ hd hv
    intro c hc
    simp only [Sparse.drop, List.mem_filter] at hc
    simpa using hc.2

theorem Sparse.wf_modify {w : Nat} (m : Sparse w) (a : Nat) (f : BitVec w → BitVec w) (h : m.wf = true) :
    (m.modify a f).wf = true := Sparse.wf_set _ _ _ h

theorem Sparse.wf_clear {w : Nat} (m : Sparse w) (lo hi : Nat) (h : m.wf = true) : (m.clear lo hi).wf = true :=
  Sparse.wf_drop _ _ h

/-- The canonical form, as an order on the keys and no zero entry. -/
theorem Sparse.wf_iff {w : Nat} (m : Sparse w) :
    m.wf = true ↔ m.Pairwise (fun c d => c.1 < d.1) ∧ ∀ c ∈ m, c.2 ≠ 0#w := by
  induction m with
  | nil => simp [Sparse.wf]
  | cons c m ih =>
    obtain ⟨k, v⟩ := c
    simp only [Sparse.wf, Bool.and_eq_true, bne_iff_ne, ne_eq, List.all_eq_true, decide_eq_true_eq, ih,
      List.pairwise_cons, List.mem_cons, forall_eq_or_imp]
    grind

theorem Sparse.mem_entries {w : Nat} (vs : List (BitVec w)) (a : Nat) (c : Nat × BitVec w)
    (h : c ∈ Sparse.entries a vs) : a ≤ c.1 ∧ c.1 < a + vs.length ∧ c.2 ≠ 0#w := by
  induction vs generalizing a with
  | nil => simp [Sparse.entries] at h
  | cons v vs ih =>
    simp only [Sparse.entries] at h
    split at h
    · have := ih _ h; simp only [List.length_cons]; exact ⟨by omega, by omega, this.2.2⟩
    · simp only [List.mem_cons] at h
      rcases h with rfl | h
      · rename_i hv; simp only [List.length_cons]; exact ⟨Nat.le_refl _, by omega, hv⟩
      · have := ih _ h; simp only [List.length_cons]; exact ⟨by omega, by omega, this.2.2⟩

theorem Sparse.pairwise_entries {w : Nat} (vs : List (BitVec w)) (a : Nat) :
    (Sparse.entries a vs).Pairwise (fun c d => c.1 < d.1) := by
  induction vs generalizing a with
  | nil => simp [Sparse.entries]
  | cons v vs ih =>
    simp only [Sparse.entries]
    split
    · exact ih _
    · refine List.pairwise_cons.mpr ⟨fun c hc => ?_, ih _⟩
      have := Sparse.mem_entries vs (a + 1) c hc
      simp only; omega

theorem Sparse.wf_setList {w : Nat} (vs : List (BitVec w)) (m : Sparse w) (a : Nat) (h : m.wf = true) :
    (m.setList a vs).wf = true := by
  rw [Sparse.wf_iff] at h ⊢
  obtain ⟨hp, hz⟩ := h
  constructor
  · refine List.pairwise_append.mpr ⟨hp.filter _, List.pairwise_append.mpr
      ⟨Sparse.pairwise_entries vs a, hp.filter _, ?_⟩, ?_⟩
    · intro c hc d hd
      have := Sparse.mem_entries vs a c hc
      simp only [List.mem_filter, decide_eq_true_eq] at hd
      omega
    · intro c hc d hd
      simp only [List.mem_filter, decide_eq_true_eq] at hc
      rcases List.mem_append.mp hd with hd | hd
      · have := Sparse.mem_entries vs a d hd; omega
      · simp only [List.mem_filter, decide_eq_true_eq] at hd; omega
  · intro c hc
    simp only [Sparse.setList, List.mem_append, List.mem_filter] at hc
    rcases hc with hc | hc | hc
    · exact hz c hc.1
    · exact (Sparse.mem_entries vs a c hc).2.2
    · exact hz c hc.1

theorem Sparse.get_append {w : Nat} (m n : Sparse w) (a : Nat) :
    Sparse.get (m ++ n : List _) a = if ∃ c ∈ m, c.1 = a then m.get a else n.get a := by
  induction m with
  | nil => simp
  | cons c m ih =>
    obtain ⟨k, v⟩ := c
    by_cases hk : k = a
    · simp [Sparse.get, hk]
    · simp only [List.cons_append, Sparse.get, hk, if_false, ih, List.mem_cons]
      simp [hk]

theorem Sparse.get_filter {w : Nat} (m : Sparse w) (p : Nat → Bool) (a : Nat) :
    Sparse.get (m.filter (fun c => p c.1)) a = if p a then m.get a else 0 := by
  induction m with
  | nil => simp
  | cons c m ih =>
    obtain ⟨k, x⟩ := c
    cases hp : p k <;> by_cases hk : k = a <;> simp_all [Sparse.get]

theorem Sparse.get_of_not_mem {w : Nat} (m : Sparse w) (a : Nat) (h : ¬ ∃ c ∈ m, c.1 = a) : m.get a = 0 := by
  induction m with
  | nil => rfl
  | cons c m ih =>
    obtain ⟨k, x⟩ := c
    simp only [List.mem_cons, not_exists, not_and] at h
    have hk : k ≠ a := h (k, x) (.inl rfl)
    simp only [Sparse.get, hk, if_false]
    exact ih (fun ⟨c, hc, e⟩ => h c (.inr hc) e)

theorem Sparse.get_entries {w : Nat} (vs : List (BitVec w)) (a b : Nat) :
    (Sparse.entries a vs).get b = if a ≤ b then vs.getD (b - a) 0#w else 0#w := by
  induction vs generalizing a with
  | nil => simp [Sparse.entries]
  | cons v vs ih =>
    simp only [Sparse.entries]
    by_cases hb : b = a
    · subst hb
      split
      · rename_i hv; rw [ih, if_neg (by omega)]; simp [hv]
      · simp [Sparse.get]
    · have hget : ∀ (l : Sparse w), Sparse.get ((a, v) :: l) b = l.get b := by
        intro l; simp [Sparse.get, Ne.symm hb]
      have : (if v = 0#w then Sparse.entries (a + 1) vs else (a, v) :: Sparse.entries (a + 1) vs : Sparse w).get b =
          (Sparse.entries (a + 1) vs).get b := by
        split
        · rfl
        · exact hget _
      rw [this, ih]
      by_cases hab : a ≤ b
      · have h1 : a + 1 ≤ b := by omega
        have h2 : b - a = (b - (a + 1)) + 1 := by omega
        simp [h1, hab, h2]
      · have h1 : ¬ a + 1 ≤ b := by omega
        simp [h1, hab]

/-- A run of values reads back where it was written, and every other key is unchanged. -/
theorem Sparse.get_setList {w : Nat} (vs : List (BitVec w)) (m : Sparse w) (a b : Nat) :
    (m.setList a vs).get b = if a ≤ b ∧ b < a + vs.length then vs.getD (b - a) 0#w else m.get b := by
  unfold Sparse.setList
  rw [Sparse.get_append, Sparse.get_append, Sparse.get_filter m (fun k => decide (k < a)),
    Sparse.get_filter m (fun k => decide (a + vs.length ≤ k)), Sparse.get_entries]
  by_cases h1 : b < a
  · have h3 : ¬ (a ≤ b) := by omega
    have h4 : ¬ (a + vs.length ≤ b) := by omega
    simp only [h1, h3, h4, decide_true, decide_false, if_true, if_false, false_and, Bool.false_eq_true]
    by_cases hm : ∃ c ∈ m, c.1 = b
    · rw [if_pos]
      obtain ⟨c, hc, e⟩ := hm
      exact ⟨c, List.mem_filter.mpr ⟨hc, by simp [e, h1]⟩, e⟩
    · rw [Sparse.get_of_not_mem m b hm]; simp
  · have hn : ¬ ∃ c ∈ m.filter (fun c => decide (c.1 < a)), c.1 = b := by
      rintro ⟨c, hc, e⟩; simp only [List.mem_filter, decide_eq_true_eq] at hc; omega
    rw [if_neg hn]
    have ha : a ≤ b := by omega
    by_cases h2 : b < a + vs.length
    · have h4 : ¬ (a + vs.length ≤ b) := by omega
      simp only [ha, h2, h4, and_self, if_true, decide_false, Bool.false_eq_true, if_false]
      split
      · rfl
      · rename_i hne
        have := Sparse.get_of_not_mem _ _ hne
        rw [Sparse.get_entries] at this
        simp only [ha, if_true] at this
        exact this.symm ▸ rfl
    · have h4 : a + vs.length ≤ b := by omega
      have hne : ¬ ∃ c ∈ Sparse.entries a vs, c.1 = b := by
        rintro ⟨c, hc, e⟩
        have := Sparse.mem_entries vs a c hc; omega
      rw [if_neg hne]
      simp [h2, h4]

theorem Sparse.get_setList_outside {w : Nat} (vs : List (BitVec w)) (m : Sparse w) (a b : Nat)
    (h : b < a ∨ a + vs.length ≤ b) : (m.setList a vs).get b = m.get b := by
  rw [Sparse.get_setList, if_neg (by omega)]

end Sys2Proof.Machine
end

