-- ==== Sys2Proof/Laws/State.lean ====
section
/-! SUPPORT. The small laws of the state: a list entry changed in place, and what the basic setters set. What each of them
leaves alone stands in Laws/Frames.lean. -/

namespace Sys2Proof.Machine

/-! ### Entries of a list -/

@[simp] theorem modifyAt_length {α : Type} (l : List α) (i : Nat) (f : α → α) : (modifyAt l i f).length = l.length := by
  simp [modifyAt]

theorem modifyAt_get {α : Type} (l : List α) (i k : Nat) (f : α → α) :
    (modifyAt l i f)[k]? = (l[k]?).map fun x => if k = i then f x else x := by
  simp [modifyAt]

theorem modifyAt_same {α : Type} (l : List α) (i : Nat) (f : α → α) (d : α) (h : i < l.length) :
    (modifyAt l i f).getD i d = f (l.getD i d) := by
  simp [modifyAt, List.getD, h]

theorem modifyAt_other {α : Type} (l : List α) (i k : Nat) (f : α → α) (d : α) (h : k ≠ i) :
    (modifyAt l i f).getD k d = l.getD k d := by
  simp [List.getD, modifyAt_get, h]

/-! ### Ports, positions, slots, launches -/

@[simp] theorem setPort_ports (s : State) (p : Nat) (f : Port → Port) :
    (setPort s p f).link.ports = modifyAt s.link.ports p f := rfl

theorem portOf_setPort_same (s : State) (p : Nat) (f : Port → Port) (h : p < s.link.ports.length) :
    portOf (setPort s p f) p = f (portOf s p) := modifyAt_same _ _ _ _ h

theorem portOf_setPort_other (s : State) (p q : Nat) (f : Port → Port) (h : q ≠ p) :
    portOf (setPort s p f) q = portOf s q := modifyAt_other _ _ _ _ _ h

@[simp] theorem setPosition_positions (s : State) (p : Nat) (f : Position → Position) :
    (setPosition s p f).pwr.positions = modifyAt s.pwr.positions p f := rfl

theorem positionAt_setPosition_same (s : State) (p : Nat) (f : Position → Position) (h : p < s.pwr.positions.length) :
    positionAt (setPosition s p f) p = f (positionAt s p) := modifyAt_same _ _ _ _ h

theorem positionAt_setPosition_other (s : State) (p q : Nat) (f : Position → Position) (h : q ≠ p) :
    positionAt (setPosition s p f) q = positionAt s q := modifyAt_other _ _ _ _ _ h

@[simp] theorem setSlot_slots (s : State) (n : Nat) (f : Slot → Slot) :
    (setSlot s n f).rsl.slots = modifyAt s.rsl.slots n f := rfl

theorem slotAt_setSlot_same (s : State) (n : Nat) (f : Slot → Slot) (h : n < s.rsl.slots.length) :
    slotAt (setSlot s n f) n = f (slotAt s n) := modifyAt_same _ _ _ _ h

theorem slotAt_setSlot_other (s : State) (n m : Nat) (f : Slot → Slot) (h : m ≠ n) :
    slotAt (setSlot s n f) m = slotAt s m := modifyAt_other _ _ _ _ _ h

@[simp] theorem setLaunch_launches (s : State) (i : Nat) (l : Launch) :
    (setLaunch s i l).coll.launches = modifyAt s.coll.launches i fun _ => l := rfl

/-! ### What the setters set -/

@[simp] theorem send_outbox (s : State) (ms : List OutMsg) : (send s ms).outbox = s.outbox ++ ms := rfl
@[simp] theorem report_reports (s : State) (c d : Nat) : (report s c d).eth.reports = s.eth.reports + 1 := rfl
@[simp] theorem report_phase (s : State) (c d : Nat) : (report s c d).eth.phase = s.eth.phase := rfl
@[simp] theorem setDomains_domains (s : State) (d : BitVec 40) : (setDomains s d).pwr.domains = d := rfl
@[simp] theorem setQreg_qreg (s : State) (r : Nat) (v : Word) : (setQreg s r v).seq.qreg = s.seq.qreg.set r v := rfl
@[simp] theorem setBankRow_bank (s : State) (core n b i : Nat) (es : List Entry) :
    (setBankRow s core n b i es).cu.bank = s.cu.bank.setList (bankKey core n b * 4096 + 64 * i) es := rfl
@[simp] theorem setStatus_bstat (s : State) (core n b : Nat) (w : Word) :
    (setStatus s core n b w).cu.bstat = s.cu.bstat.set (bankKey core n b) w := rfl
@[simp] theorem setRegion_region (s : State) (core n t : Nat) (d : BitVec 128) :
    (setRegion s core n t d).cu.region = s.cu.region.set (core * 256 + n) d := rfl
@[simp] theorem markSlot_slotBad (s : State) (b bad : Bool) :
    (markSlot s b bad).sec.slotBad = putFlag s.sec.slotBad b.toNat bad := rfl
@[simp] theorem markSlot_nor (s : State) (b bad : Bool) : (markSlot s b bad).sec.nor = s.sec.nor := rfl
@[simp] theorem updateResult_result (s : State) (n : Nat) : (updateResult s n).sec.result = BitVec.ofNat 3 n := rfl
@[simp] theorem updateResult_nor (s : State) (n : Nat) : (updateResult s n).sec.nor = s.sec.nor := rfl
@[simp] theorem countDenied_denied (s : State) :
    (countDenied s).sec.denied = BitVec.ofNat 8 (satAdd 8 s.sec.denied.toNat 1) := rfl
@[simp] theorem countAlign_align (s : State) :
    (countAlign s).sec.align = BitVec.ofNat 8 (satAdd 8 s.sec.align.toNat 1) := rfl
@[simp] theorem dropFrame_crcErr (s : State) :
    (dropFrame s).sec.crcErr = BitVec.ofNat 16 (satAdd 16 s.sec.crcErr.toNat 1) := rfl
@[simp] theorem pwrResult_result (s : State) (r : Nat) : (pwrResult s r).pwr.result = BitVec.ofNat 2 r := rfl
@[simp] theorem closeSession_role (s : State) : (closeSession s).sec.role = none := rfl
@[simp] theorem lower_busy (s : State) (code : Nat) : (lower s code).pwr.busy = true := rfl
@[simp] theorem lower_goal (s : State) (code : Nat) : (lower s code).pwr.goal = BitVec.ofNat 3 code := rfl
@[simp] theorem refreshRails_domains (s : State) : (refreshRails s).pwr.domains = s.pwr.domains := rfl
@[simp] theorem refreshRails_waking (s : State) : (refreshRails s).pwr.waking = s.pwr.waking := rfl
@[simp] theorem beginWake_domains (s : State) (goal : Nat) (m : BitVec 40) :
    (beginWake s goal m).pwr.domains = s.pwr.domains := rfl
@[simp] theorem beginWake_busy (s : State) (goal : Nat) (m : BitVec 40) : (beginWake s goal m).pwr.busy = true := rfl

@[simp] theorem joinOf_setJoin (s : State) (x : Nat) (j : TreeJoin) : joinOf (setJoin s x j) x = j := by
  unfold joinOf setJoin; split <;> rfl
@[simp] theorem disconnect_conns (s : State) (p : Peer) :
    (disconnect s p).eth.conns = s.eth.conns.filter (·.peer != p) := rfl

/-- A device that holds at most 64 connections still does after one more is asked for (R379). -/
theorem connect_conns_length (s : State) (p : Peer) (h : s.eth.conns.length ≤ maxConns) :
    (connect s p).eth.conns.length ≤ maxConns := by
  unfold connect; split
  · exact h
  · simp_all only [not_or, Nat.not_le, List.length_append, List.length_singleton]; omega

/-- What the audit log's writing keeps of the Harebell island. -/
theorem auditPut_sec (s : State) (e : AuditEntry) :
    (auditPut s e).sec = { s.sec with
      audit := (auditPut s e).sec.audit, head := s.sec.head + 1, sealed := false, written := s.sec.written + 1 } := rfl

end Sys2Proof.Machine
end

