-- ==== Sys2Proof/Tests/Slice0.lean ====
section
/-! SUPPORT. Tests: ill-formed commands, words decoded, worked examples of the spec, and for each obligation with hypotheses
the witnesses wit_<obligation> that meet them. Where a hypothesis goes through an opaque constant of Config (a signature,
the serial number) the witness takes it as a premise. -/

open Sys2Proof Sys2Proof.Machine

namespace Sys2Proof.Tests

set_option Elab.async false

/-! ### States -/

/-- A job of P3 with 16 cores of width 64, checked, not clocked, and 8 bundles. -/
def job : Job :=
  { profile := 3, width := 64, cores := 16, checked := true, clocked := false, halves := 0xF0F0, holdLim := 1000, bcount := 8,
    load := 0, seed := 0, sections := [], masks := [], length := 4096 }

/-- Bundle 0 of the job issues in schedule beat 0. -/
def issuing : State :=
  { State.reset with seq := { Seq.reset with checked := true, running := true, job := some job, issued := 1, current := some 0 } }

/-- A core operation of core 15, slot 3. -/
def cop (w : DWord) : CoreOp := { core := 15, slot := 3, word := w }

/-- A chip operation of chip slot 7. -/
def chop (w : DWord) : ChipOp := { slot := 7, word := w }

/-- A job whose step is open: the start barrier has taken place. -/
def opened : State := { issuing with time := { Time.reset with origin := 1, loaded := true } }

/-- A state with a region descriptor of core 15. -/
def withRegion (s : State) (n : Nat) (d : BitVec 128) : State :=
  { s with cu := { s.cu with region := s.cu.region.set (15 * 256 + n) d } }

/-- A word from fields: each value stands at its lowest bit. -/
def fields (l : List (Nat × Nat)) : DWord := BitVec.ofNat 64 (l.foldl (fun n f => n + f.2 * 2 ^ f.1) 0)

/-- A region descriptor from fields. -/
def descr (l : List (Nat × Nat)) : BitVec 128 := BitVec.ofNat 128 (l.foldl (fun n f => n + f.2 * 2 ^ f.1) 0)

/-- A state with a scalar register of core 15. -/
def withSreg (s : State) (r : Nat) (v : Word) : State :=
  { s with cu := { s.cu with sreg := s.cu.sreg.set (15 * 32 + r) v } }

/-- A state whose job image has one more section, its bytes at off. -/
def withSection (s : State) (typ off : Nat) (bs : List Byte) : State :=
  { s with
    seq := { s.seq with job := s.seq.job.map fun j =>
      { j with sections := j.sections ++ [{ typ := typ, off := off, size := bs.length }] } }
    mem := { s.mem with hbm := s.mem.hbm.setList off bs } }

/-! ### Well-formedness: each check refuses an ill-formed command -/

theorem test_wf_core_class : (Instr.smovi (cop 0x0000010000002034)).wellFormed = false := by decide

theorem test_wf_core_opcode : (Instr.smovi (cop 0x0000010000002044)).wellFormed = false := by decide

theorem test_wf_chip_opcode : (Instr.wait (chop 0x04)).wellFormed = false := by decide

/-- A read of sector n that brings data. -/
def sectorRead (n : Nat) (data : List Byte) : MemOp :=
  { who := .fetch, kind := .read, sector := n, mask := 1, data := data, ecc := .clean, sram := .clean }

theorem test_wf_sector : (Instr.memoryOperation (sectorRead (2 ^ 35) [])).wellFormed = false := by decide

theorem test_wf_sector_data : (Instr.memoryOperation (sectorRead 0 [1])).wellFormed = false := by decide

theorem test_wf_windows : (Instr.imbalanceWindow (List.replicate 23 0)).wellFormed = false := by decide

/-- A packet of a type and a payload. -/
def pkt (kind : Byte) (n : Nat) : Packet :=
  { dest := 0, src := 0, kind := kind, jobtag := 0, lseq := 0, aux := 0, payload := List.replicate n 0, crc := 0 }

theorem test_wf_collective_type : (Instr.collectivePacket 0 (pkt 1 32) none).wellFormed = false := by decide

theorem test_wf_payload : (Instr.speedwellPacket 0 (some (pkt 1 33)) none).wellFormed = false := by decide

theorem test_wf_payload_limit : (pkt 1 4128).wellFormed = false := by decide +kernel

theorem test_wf_topology : (Instr.topologyUpdate .chain []).wellFormed = false := by decide

/-- A frame of a type. -/
def bare (typ len : Byte) : Frame :=
  { dest := 0, src := 0, typ := typ, tag := 0, len := len, status := 0, offset := 0, payload := [], crc := 0 }

theorem test_wf_frames :
    (Instr.enum (bare 2 0)).wellFormed = false ∧ (Instr.read (bare 3 0)).wellFormed = false ∧
      (Instr.write (bare 4 0)).wellFormed = false ∧ (Instr.session (bare 1 0) 0 0 []).wellFormed = false ∧
      (Instr.session (bare 5 1) 0 0 []).wellFormed = false := by decide

theorem test_wf_stage_report : (Instr.bootStageComplete { memOk := 0, badCols := [], failed := [] }).wellFormed = false := by decide

/-- An Ethernet frame that the port takes. -/
def whole : EthFrame := { length := 9216, tags := 1, bad := false, marked := true }

theorem test_wf_directory :
    (Instr.transferComplete 0 (.directory [] []) whole).wellFormed = false ∧
      (Instr.transferComplete 0 (.directory (List.replicate 64 0) [[]]) whole).wellFormed = false := by decide

theorem test_wf_element : (Instr.accumulateOnWrite 0 0 (2 ^ 32)).wellFormed = false := by decide

theorem test_wf_good :
    (Instr.smovi (cop 0x0000010000002024)).wellFormed = true ∧ (Instr.wait (chop 0x05)).wellFormed = true ∧
      (Instr.memoryOperation (sectorRead 6442450943 [])).wellFormed = true := by decide

/-! ### Decoding: words written out from the encodings of 06 -/

/-- R175, R177: CLASS 0, OPCODE 0x01; the spec's example SMOVI s2, 256 with OFFSET 4. -/
theorem test_decode_smovi : decodeCoreOp (cop 0x0000010000002024) .clean = some (.smovi (cop 0x0000010000002024)) := by decide

/-- CLASS 1, OPCODE 0x01: the word of the spec's example sweep. -/
theorem test_decode_sweep : decodeCoreOp (cop 0x050200002410F028) .clean = some (.sweep (cop 0x050200002410F028) .clean) := by decide

/-- CLASS 1, OPCODE 0x04: the word of the spec's example drain. -/
theorem test_decode_drain : decodeCoreOp (cop 0x0284F088) .clean = some (.drain (cop 0x0284F088)) := by decide

/-- CLASS 2, OPCODE 0x01, OFFSET 7. -/
theorem test_decode_vfma : decodeCoreOp (cop 0x37) .clean = some (.vfma (cop 0x37)) := by decide

/-- CLASS 3, OPCODE 0x20. -/
theorem test_decode_net_send : decodeCoreOp (cop 0x418) .clean = some (.netSend (cop 0x418) .clean) := by decide

/-- The word zero is the no-operation of a core slot (R138). -/
theorem test_decode_nop : decodeCoreOp (cop 0) .clean = some (.nop (cop 0)) := by decide

/-- Chip opcode 0x14 (R207). -/
theorem test_decode_step_commit : decodeChipOp (chop 0x14) = some (.stepCommit (chop 0x14)) := by decide

/-- Reserved opcodes name no operation. -/
theorem test_decode_reserved : decodeCoreOp (cop 0x100) .clean = none ∧ decodeChipOp (chop 0x09) = none := by decide

/-! ### Worked examples of the spec -/

/-- 02, "a long sum against a large value", P3: four groups of sum 1.0 on 16,777,216.0. -/
theorem test_long_sum_p3 :
    let one := Machine.Num.ofInt 1 0 false
    let e1 := accumulate 3 false (mkEntry 0x4B800000 0) one
    let e2 := accumulate 3 false e1 one
    let e3 := accumulate 3 false e2 one
    [e1, e2, e3, accumulate 3 false e3 one] =
      [mkEntry 0x4B800001 (-32768), mkEntry 0x4B800001 0, mkEntry 0x4B800002 (-32768), mkEntry 0x4B800002 0] := by decide +kernel

/-- The same in P1: each sum is a tie and rounds to even. -/
theorem test_long_sum_p1 : accumulate 1 false (mkEntry 0x4B800000 0) (Machine.Num.ofInt 1 0 false) = mkEntry 0x4B800000 0 := by
  decide +kernel

/-- 02, "one scale update": E4M3, MARGIN 1, A = 3.10 gives K = 6. -/
theorem test_scale_update : scaleExponent 3 1 0x40466666 = 6 := by decide +kernel

/-- 00: the global address of chip X = 5, Y = 2, Z = 9, local address 0x012_3456_7000. -/
theorem test_global_address : globalAddr (BitVec.ofNat 18 (5 + 64 * 2 + 4096 * 9)) 0x01234567000 = 0x0908501234567000 := by decide

/-! ### Witnesses of the hypotheses of the obligations -/

theorem wit_StepRunsTheFrontCommand :
    State.reset.pending = [] ∧ quiet State.reset ∧ railTick State.reset = State.reset ∧ State.reset.pwr.busy = false ∧
      (let s := { State.reset with pwr := { Pwr.reset with busy := true, goal := 4 } }
       quiet s ∧ lowering s = true ∧ s.pwr.latched = [] ∧ s.sec.stage ≠ 3) := by
  unfold quiet
  refine ⟨rfl, by decide, rfl, rfl, by decide⟩

theorem wit_CommandsLeaveTheQueue : ∃ t, exec .stepCommitComplete State.reset = .next t := ⟨_, rfl⟩

theorem wit_FusesOnlyAdvance : fuseForm State.reset ∧ step State.reset = .next (idleTick State.reset) := by
  refine ⟨⟨by decide, by decide, by decide, by decide⟩, rfl⟩

theorem wit_PartsKeepTheirNumber : shapeForm State.reset ∧ step State.reset = .next (idleTick State.reset) := by
  refine ⟨⟨by decide, by decide, by decide⟩, rfl⟩

theorem wit_MemoryStaysCanonical :
    State.reset.mem.hbm.wf = true ∧ step State.reset = .next (idleTick State.reset) := ⟨by decide, rfl⟩

theorem wit_IdleCoresActOnNothing :
    (Instr.smovi (cop 0x0000010000002024)).coreCode = some (0, 1, cop 0x0000010000002024) ∧
      coreActive State.reset (cop 0).core = false ∧
      (Instr.wait (chop 0x05)).chipCode = some (5, chop 0x05) ∧ State.reset.seq.current = none := by decide

theorem wit_NoOperationIssuesNoAction :
    (Instr.nop (cop 7)).wellFormed = true ∧ zeros (cop 7).word 63 12 = true ∧ (cop 0).word = 0 := by decide

theorem wit_ScalarOperationsComplete :
    coreActive issuing (cop 0).core = true ∧ zeros (cop 0xFFFFFFFF0001F027).word 31 17 = true ∧
      (zeros (cop 0x7FFFF047).word 63 31 = true ∧ latS issuing 15 31 7 = none ∧ aluFn 9 3 5 = some 15) ∧
      (zeros (cop 0xFFFFFFFF003FF067).word 31 22 = true ∧ latS issuing 15 31 7 = none) ∧
      zeros (cop 0x1FF087).word 63 21 = true ∧
      (zeros (cop 0x7FFFF0A7).word 63 31 = true ∧ latV issuing 15 63 7 = none) ∧
      (zeros (cop 0x7FF0C7).word 63 23 = true ∧ latS issuing 15 31 7 = none) ∧
      zeros (cop 0x1F0E7).word 63 17 = true := by decide

theorem wit_ScalarFunctions :
    coreActive issuing (cop 0).core = true ∧ issuing.seq.stopped = false ∧ 10 ≤ fld (cop 0x50000040).word 30 27 ∧
      zeros (cop 0xE0).word 63 17 = true ∧ (∃ t, exec (.flags (cop 0xE0)) issuing = .next t) ∧
      let s := { State.reset with commit := { Commit.reset with phase := .decided } }
      s.commit.phase = .decided ∧ unitsResident s = true := by
  refine ⟨by decide, by decide, by decide, by decide, ⟨_, rfl⟩, by decide, by decide⟩

theorem wit_VectorArithmeticCompletes :
    let op := cop 0x3FFF03F037
    coreActive issuing op.core = true ∧ zeros op.word 63 38 = true ∧ latA issuing op = none ∧ flag op.word 36 = true ∧
      zeros op.word 23 18 = true ∧ readsV issuing op (fld op.word 29 24) ∧ readsV issuing op (fld op.word 35 30) ∧
      zeros (cop 0x3FFFF057).word 35 30 = true ∧ flag (cop 0x3FFFF057).word 36 = false := by
  unfold readsV; decide

theorem wit_VectorLogicCompletes :
    let op := cop 0x3FFF03F1B7
    coreActive issuing op.core = true ∧ latA issuing op = none ∧ flag op.word 36 = true ∧ zeros op.word 23 18 = true ∧
      readsV issuing op (fld op.word 29 24) ∧ readsV issuing op (fld op.word 35 30) ∧
      zeros op.word 63 38 = true ∧ zeros (cop 0xF03F03F0F7).word 63 40 = true ∧ zeros (cop 0xF03F03F0F7).word 35 30 = true ∧
      zeros (cop 0xF03F03F0F7).word 23 18 = true ∧ zeros (cop 0x103F03F117).word 63 37 = true ∧
      zeros (cop 0x103F03F117).word 23 18 = true ∧ zeros (cop 0x103F03F117).word 35 30 = true ∧
      zeros (cop 0xFFF1D7).word 35 24 = true ∧ flag (cop 0xFFF1D7).word 36 = false := by
  unfold readsV; decide

theorem wit_ConversionsAndDropoutComplete :
    coreActive issuing (cop 0).core = true ∧ latA issuing (cop 0) = none ∧
      (let op := cop (fields [(38, 1), (62, 1)])
       vcvtOk issuing op = true ∧ fld op.word 45 42 = 0) ∧
      (let op := cop (fields [(42, 3), (46, 1), (53, 15), (57, 30), (62, 3)])
       vcvtOk issuing op = true ∧ fld op.word 45 42 ≠ 0 ∧ fld op.word 47 46 = 1 ∧ latS issuing 15 30 0 = none ∧
         latS issuing 15 31 0 = none ∧ drawBusy issuing op true = none) ∧
      (let op := cop (fields [(42, 57), (24, 63), (58, 30)])
       flag op.word 63 = false ∧ zeros op.word 35 30 = true ∧ fld op.word 62 58 % 2 = 0 ∧ flag op.word 36 = false ∧
         latV issuing 15 63 0 = none ∧
         latS issuing 15 30 0 = none ∧ latS issuing 15 31 0 = none ∧ drawBusy issuing op true = none) := by decide

/-- A linear region of 256 binary32 elements in the tile store, ready, with one consumer to issue. -/
def readyLinear : BitVec 128 := descr [(32, 256), (64, 2), (88, 1), (96, 1)]

/-- The same, filling, with one producer to issue. -/
def fillingLinear : BitVec 128 := descr [(32, 256), (64, 1), (72, 1), (80, 1)]

theorem wit_LoadsAndStoresComplete :
    coreActive issuing (cop 0).core = true ∧
      (let s := withSreg issuing 31 524272
       let op := cop (fields [(24, 31)])
       vaccessOk s op = true ∧ vaccessFits s op = true ∧ latS s 15 31 0 = none ∧ zeros op.word 23 18 = true ∧
         flag op.word 36 = false ∧ portClash s op (vaccessClaims s op (opClk s op) false) = none ∧
         zeros op.word 17 12 = true ∧ latA s op = none ∧ flag op.word 36 = false ∧ flag op.word 39 = false ∧
         portClash s op (vaccessClaims s op (opClk s op + 2) true) = none) ∧
      (let op := cop (fields [(39, 1), (40, 255)])
       let s := withRegion issuing 255 readyLinear
       vaccessOk s op = true ∧ vaccessFits s op = true ∧ latS s 15 0 0 = none ∧ flag op.word 39 = true ∧
         canConsume (regionOf s 15 255) = true ∧ portClash s op (vaccessClaims s op (opClk s op) false) = none) ∧
      (let op := cop (fields [(39, 1), (40, 255)])
       let s := withRegion issuing 255 fillingLinear
       vaccessOk s op = true ∧ vaccessFits s op = true ∧ canProduce (regionOf s 15 255) = true ∧
         portClash s op (vaccessClaims s op (opClk s op + 2) true) = none) := by decide

theorem wit_RowUnitOperationsComplete :
    coreActive issuing (cop 0).core = true ∧ rowBusy issuing (cop 0) = none ∧
      (let op := cop (fields [(12, 63), (18, 63)])
       zeros op.word 63 37 = true ∧ zeros op.word 35 24 = true ∧ flag op.word 36 = false ∧ latA issuing op = none) ∧
      (let op := cop (fields [(18, 63), (38, 63), (44, 64)])
       fld op.word 50 44 ≤ 64 ∧ zeros op.word 63 51 = true ∧ zeros op.word 17 12 = true ∧ zeros op.word 35 24 = true ∧
         flag op.word 37 = false ∧ flag op.word 36 = false ∧ latA issuing op = none) ∧
      (let op := cop (fields [(39, 1), (47, 255)])
       fld op.word 46 39 + fld op.word 55 47 ≤ 256 ∧ zeros op.word 63 56 = true ∧ zeros op.word 37 12 = true) ∧
      (let op := cop (fields [(12, 63), (38, 2)])
       fld op.word 39 38 ≤ 2 ∧ zeros op.word 63 40 = true ∧ zeros op.word 37 18 = true) := by decide

/-- A BF16 tile-block region of one block, ready, with two consumers to issue. -/
def readyTile : BitVec 128 := descr [(1, 1), (4, 1), (32, 4096), (64, 2), (88, 2), (96, 2)]

/-- Two such regions of core 15, and K = 4. -/
def sweepState : State :=
  withSreg (withRegion (withRegion issuing 253 readyTile) 254 (readyTile + descr [(8, 64)])) 30 4

/-- SWEEP of array 1 with a from region 253 and b from region 254, 64 rows and columns. -/
def sweepOp : CoreOp := cop (fields [(3, 1), (5, 1), (12, 2), (18, 252), (26, 254), (43, 64), (50, 64), (57, 30)])

/-- A region of 64 rows of binary32 in the accumulator buffer, ready. -/
def readyRows : BitVec 128 := descr [(0, 1), (32, 4096), (64, 2), (88, 1), (96, 1)]

/-- The same, filling. -/
def fillingRows : BitVec 128 := descr [(0, 1), (32, 4096), (64, 1), (72, 1), (80, 1)]

theorem wit_ArrayOperationsComplete_sweep :
    let v := sweepOf sweepState sweepOp
    coreActive sweepState sweepOp.core = true ∧ sweepEncoding sweepState sweepOp = true ∧ latS sweepState 15 30 0 = none ∧
      latS sweepState 15 31 0 = none ∧ preloadLatency sweepState v = none ∧ drainLatencyFault sweepState v = none ∧
      (∀ n ∈ sweepRegions sweepOp, n < 256 ∧ canConsume (regionOf sweepState 15 n) = true) ∧
      sweepBound sweepState sweepOp v = none ∧ sweepBusy sweepState v = none ∧
      portClash sweepState sweepOp (sweepClaims v) = none := by decide

theorem wit_ArrayOperationsComplete_init :
    (let op := cop (fields [(12, 15), (16, 3)])
     fld op.word 15 12 ≠ 0 ∧ zeros op.word 63 18 = true) ∧
    (let op := cop (fields [(12, 1), (16, 3), (21, 255)])
     let s := withRegion issuing 255 readyRows
     let d := regionOf s 15 255
     coreActive s op.core = true ∧ fld op.word 15 12 ≠ 0 ∧ zeros op.word 20 18 = true ∧ zeros op.word 63 43 = true ∧
       rSpace d = 1 ∧ rFmt d = 0 ∧ canConsume d = true ∧ rowsFit d (fld op.word 42 29) (fld op.word 15 12) = true ∧
       s.cu.inits = []) := by decide

theorem wit_ArrayOperationsComplete_claims :
    let op := cop (fields [(12, 1), (16, 3), (21, 255)])
    let s := withRegion issuing 255 readyRows
    portClash s op (preloadClaims op.core (opClk s op) (rBase (regionOf s 15 255) + fld op.word 42 29)
      (fld op.word 15 12) (rFmt (regionOf s 15 255) == 10)) = none := by decide

/-- DRAIN, or DRAINX, of array 0 into region 255. -/
def drainOp : CoreOp := cop (fields [(12, 1), (16, 3), (21, 255)])

theorem wit_ArrayOperationsComplete_drain :
    let s := withRegion issuing 255 fillingRows
    ∀ copy : Bool,
      let v := drainOf s drainOp copy
      fld drainOp.word 15 12 ≠ 0 ∧ zeros drainOp.word 63 59 = true ∧ flag drainOp.word 18 = false ∧
        drainDestOk s drainOp v.regDesc = true ∧ drainMaskOk s drainOp v.regDesc = true ∧
        (∀ x ∈ drainRegLatency s drainOp, x = none) ∧ fld drainOp.word 20 19 ≠ 2 ∧ canProduce v.regDesc = true ∧
        drainFits drainOp v.regDesc = true ∧ s.cu.drains = [] ∧ portClash s drainOp (drainClaims v) = none := by decide

theorem wit_ArrayOperationsComplete_port :
    let op := cop (fields [(12, 15), (19, 2)])
    let v := drainOf issuing op false
    fld op.word 15 12 ≠ 0 ∧ zeros op.word 63 59 = true ∧ drainDestOk issuing op v.regDesc = true ∧
      drainMaskOk issuing op v.regDesc = true ∧ (∀ x ∈ drainRegLatency issuing op, x = none) ∧ fld op.word 20 19 = 2 ∧
      drainFits op v.regDesc = true ∧ portClash issuing op (drainClaims v) = none := by decide

theorem wit_UncorrectableReadsAbandonTheStep :
    let s := { sweepState with time := opened.time }
    coreActive s (cop 0).core = true ∧ stepOpen s = true ∧ firstFault (sweepChecks s sweepOp) = none ∧
      vaccessOk s (cop 0) = true ∧ vaccessFits s (cop 0) = true ∧ latS s 15 0 0 = none ∧ zeros (cop 0).word 23 18 = true ∧
      flag (cop 0).word 36 = false ∧ flag (cop 0).word 39 = false ∧
      portClash s (cop 0) (vaccessClaims s (cop 0) (opClk s (cop 0)) false) = none := by decide

/-- NET.SEND of 256 elements of region 255 of core 15 into region 255 of core 0. -/
def netOp : CoreOp := cop (fields [(16, 255), (24, 255), (32, 256)])

/-- The two regions of it. -/
def netState : State :=
  let s := withRegion opened 255 readyLinear
  { s with cu := { s.cu with region := s.cu.region.set 255 fillingLinear } }

theorem wit_UncorrectableReadsAbandonTheStep_others :
    stepOpen netState = true ∧ firstFault (netChecks netState netOp) = none ∧
    (let op := cop (fields [(12, 1), (16, 3), (21, 255)])
     let s := withRegion opened 255 readyRows
     let d := regionOf s 15 255
     coreActive s op.core = true ∧ stepOpen s = true ∧ fld op.word 15 12 ≠ 0 ∧ zeros op.word 20 18 = true ∧
       zeros op.word 63 43 = true ∧ rSpace d = 1 ∧ rFmt d = 0 ∧ canConsume d = true ∧
       rowsFit d (fld op.word 42 29) (fld op.word 15 12) = true ∧ s.cu.inits = [] ∧
       portClash s op (preloadClaims op.core (opClk s op) (rBase d + fld op.word 42 29) (fld op.word 15 12)
         (rFmt d == 10)) = none) := by decide

theorem wit_RegionStatesFollowTheirCounts :
    0 < rPtodo fillingRows ∧ 0 < rCtodo readyRows ∧ 0 < rPcount fillingRows ∧ 0 < rCcount readyRows ∧
      rPcount (descr [(72, 2)]) ≠ 1 ∧ rCcount fillingRows = 0 ∧ rCcount readyRows = 1 := by decide

theorem wit_RegionOperationsComplete :
    coreActive issuing (cop 0).core = true ∧
    (let op := cop (fields [(12, 255), (20, 28)])
     let s := withSreg (withSreg issuing 29 256) 30 0x100
     zeros op.word 63 25 = true ∧ fld op.word 24 20 % 4 = 0 ∧ regionLegal (regionArg s op) = true ∧
       (∀ k < 4, latS s 15 (fld op.word 24 20 + k) (opClk s op) = none) ∧ rState (regionOf s 15 255) = 0) ∧
    (let op := cop (fields [(12, 255), (20, 255)])
     let s := withRegion issuing 255 readyRows
     zeros op.word 63 28 = true ∧ rState (regionOf s 15 255) = 2 ∧
       rCtodo (regionOf s 15 255) = rCcount (regionOf s 15 255)) ∧
    (let op := cop (fields [(12, 255), (20, 30)])
     zeros op.word 63 25 = true ∧ fld op.word 24 20 % 2 = 0) ∧
    (let d := regionOf netState 15 255
     let e := netTarget netState netOp
     let count := fld netOp.word 47 32
     coreActive netState netOp.core = true ∧ zeros netOp.word 63 48 = true ∧ fld netOp.word 15 12 < jobCores netState ∧
       fld netOp.word 15 12 ≠ 15 ∧ rSpace d = rSpace e ∧ rLayout d = rLayout e ∧ rFmt d = rFmt e ∧ rStride d = rStride e ∧
       rLayout d = 0 ∧ canConsume d = true ∧ canProduce e = true ∧ count ≤ rBound d ∧ count ≤ rBound e ∧
       netState.cu.nets = [] ∧ portClash netState netOp (netClaims netState netOp) = none) := by decide

theorem wit_StreamOperationsComplete :
    (let op := cop (fields [(12, 15), (16, 30)])
     let s := withSreg issuing 31 0xFFF
     zeros op.word 63 21 = true ∧ fld op.word 20 16 % 2 = 0 ∧ zeros (sregAt s 15 31 0) 31 12 = true ∧
       latS s 15 30 0 = none ∧ latS s 15 31 0 = none) ∧
    (let op := cop (fields [(12, 15), (16, 63)])
     zeros op.word 63 22 = true ∧ latV issuing 15 63 0 = none) ∧
    (let d : BitVec 256 := BitVec.ofNat 256 (2 ^ 64 * (2 + 2 ^ 16 + 2 ^ 32 + 2 ^ 48) + 2 ^ 128)
     let op := cop (fields [(12, 15), (16, 255), (24, 31)])
     let s0 := withSreg (withRegion issuing 255 fillingLinear) 31 2
     let s := { s0 with cu := { s0.cu with stream := [(255, d)] } }
     let r := withRegion s 255 readyLinear
     firstFault (streamChecks s op false) = none ∧ streamCount s op ≠ 0 ∧ firstFault (streamChecks r op true) = none ∧
       firstFault (streamChecks (withSreg s 31 0) op false) = none ∧ streamCount (withSreg s 31 0) op = 0 ∧
       s.seq.stopped = false) := by decide

/-- A stash-set section of 64 sets' one set with a ring of 4 granules and 8 entries. -/
def stashState : State :=
  withSection issuing 12 0x10000 (leBytes 32 (2 ^ 48 * 4 + 2 ^ 76 * 8))

/-- The entry of 256 binary32 elements at index 7 of set 0. -/
def stashEntry7 : StashEntry :=
  { set := 0, index := 7, fmt := 0, count := 256, dropped := false, spilled := false, granules := [3], born := 0 }

/-- STASH.PUSH and STASH.POP of region 255 at the index of s30 with the count of s31. -/
def stashOp : CoreOp := cop (fields [(18, 255), (26, 30), (31, 31)])

/-- The index and the count. -/
def stashRegs (s : State) : State := withSreg (withSreg s 30 7) 31 256

theorem wit_StashAndLinkOperationsComplete_pop :
    let s0 := stashRegs (withRegion stashState 255 fillingLinear)
    let s := { s0 with stash := { s0.stash with entries := [stashEntry7] } }
    firstFault (popChecks s0 stashOp) = none ∧ stashEntry s0 0 7 = none ∧ firstFault (popChecks s stashOp) = none ∧
      stashEntry s 0 7 = some stashEntry7 := by decide

theorem wit_StashAndLinkOperationsComplete_push :
    let s := stashRegs (withRegion stashState 255 readyLinear)
    (planOf (plannedPush s stashOp) stashOp).any (fun p => p.early.isNone && p.outcome == 0 &&
        decide (p.index < fld (setDesc s 0) 95 76) && decide (p.count ≤ rBound (regionOf s 15 255)) && p.count != 0) = true ∧
      zeros stashOp.word 63 36 = true ∧ setDeclared s 0 = true ∧ canConsume (regionOf s 15 255) = true := by decide

/-- A push whose set has no ring: it is dropped, spilled or stops the step. -/
theorem wit_StashAndLinkOperationsComplete_outcomes :
    let d := fun (pol : Nat) => withSection opened 12 0x10000 (leBytes 32 (2 ^ 44 * pol + 2 ^ 76 * 8 + 2 ^ 140 * 4))
    let up := fun (s : State) => { s with
      link := { s.link with ports := modifyAt s.link.ports 6 fun p => { p with mode := .up } }
      stash := { s.stash with area := some (0, 1) } }
    ∀ x ∈ [(d 1, 2), (up (d 0), 1), (d 0, 3), (d 2, 3)],
      let s := stashRegs (withRegion x.1 255 readyLinear)
      (planOf (plannedPush s stashOp) stashOp).any (fun p => p.early.isNone && p.outcome == x.2) = true ∧
        stepOpen s = true := by decide

/-- An all-reduce descriptor of core 15: 256 binary32 elements, send channel 63, receive channel 62. -/
def collState : State :=
  withSection issuing 13 0x20000 (leBytes 64 (1 + 2 ^ 20 * 63 + 2 ^ 26 * 62 + 2 ^ 47 + 2 ^ 64 * 256))

theorem wit_StashAndLinkOperationsComplete_link :
    let a := withSreg (withRegion collState 255 readyLinear) 31 256
    let b := withSreg (withRegion collState 255 fillingLinear) 31 256
    firstFault (channelChecks a (cop (fields [(12, 63), (18, 255), (26, 31)])) true) = none ∧
      firstFault (channelChecks b (cop (fields [(12, 62), (18, 255), (26, 31)])) false) = none := by decide +kernel

theorem wit_LoopBodyRunsItsCount : (5 : Nat) ≤ 5 ∧ (1 : Nat) ≤ 1 ∧ (0 : Nat) < 1 ∧ (0 : Nat) ≤ 5 - 5 := by decide

/-- A loop of bundles 1 to 3 in its last iteration. -/
def loop13 : Loop := { first := 1, last := 3, count := 2, left := 1, brk := false }

/-- The job inside that loop. -/
def looping : State := { issuing with seq := { issuing.seq with current := some 2, loops := [loop13] } }

theorem wit_LoopBreakExitsAfterTheIteration :
    looping.seq.current.isSome = true ∧ looping.seq.flowOps = 0 ∧ zeros (chop (fields [(0, 2), (8, 1), (9, 31)])).word 63 14 = true ∧
      looping.seq.loops = loop13 :: [] ∧ issuing.seq.current.isSome = true ∧ issuing.seq.stopped = false ∧
      issuing.seq.loops = [] ∧ { loop13 with brk := true }.brk = true ∧ 1 ≠ loop13.last := by decide

/-- A state with a sequencer register. -/
def withQreg (s : State) (r : Nat) (v : Word) : State :=
  { s with seq := { s.seq with qreg := s.seq.qreg.set r v } }

theorem wit_ControlFlowOperationsComplete_loop :
    let op := chop (fields [(0, 1), (8, 31), (13, 7)])
    issuing.seq.current.isSome = true ∧ issuing.seq.flowOps = 0 ∧ zeros op.word 63 38 = true ∧ 1 ≤ fld op.word 37 13 ∧
      fld op.word 37 13 ≤ 2 ^ 24 ∧ bundleNow issuing + fld op.word 37 13 < bundleCount issuing ∧
      beyondLoop issuing (bundleNow issuing + fld op.word 37 13) = false ∧ (qregOf issuing 31).toNat = 0 ∧
      (qregOf (withQreg issuing 31 1) 31).toNat ≠ 0 ∧ issuing.seq.loops.length < 8 := by decide

theorem wit_ControlFlowOperationsComplete_branch :
    let op := chop (fields [(0, 3), (8, 2), (10, 31), (32, 7)])
    zeros op.word 31 15 = true ∧ fld op.word 9 8 = 2 ∧ fld op.word 63 32 < bundleCount issuing ∧ knownBodies issuing = [] ∧
      qregOf (withQreg issuing 31 1) 31 ≠ 0 ∧ qregOf issuing 31 = 0 := by decide

theorem wit_ControlFlowOperationsComplete_skip :
    let w := fields [(0, 4), (23, 1), (24, 255), (33, 7)]
    let s := { issuing with seq := { issuing.seq with look := some (w, true) } }
    s.seq.look = some ((chop w).word, true) ∧ zeros w 63 57 = true ∧ (∀ c ∈ skipCores w, c < jobCores s) ∧
      bundleNow s + fld w 56 33 < bundleCount s ∧ beyondLoop s (bundleNow s + fld w 56 33) = false ∧ fld w 56 33 ≠ 0 ∧
      (let v := fields [(0, 5), (8, 2), (15, 4095)]
       zeros v 63 27 = true ∧ fld v 9 8 ≠ 3 ∧ fld v 9 8 ≠ 0) := by decide

theorem wit_SequencerRegisterOperationsComplete :
    issuing.seq.current.isSome = true ∧ zeros (fields [(0, 6), (8, 31), (32, 0xFFFFFFFF)]) 31 13 = true ∧
      zeros (fields [(0, 7), (8, 31), (13, 31), (32, 0xFFFFFFFF)]) 31 18 = true ∧
      (let w := fields [(0, 8), (8, 31), (13, 31), (18, 31), (23, 9)]
       zeros w 63 27 = true ∧ aluFn (fld w 26 23) 3 5 = some 15) ∧
      zeros (fields [(0, 0x12), (8, 31)]) 63 13 = true ∧ zeros (qregOf (withQreg issuing 31 0xFFFF) 31) 31 16 = true := by decide

theorem wit_LaunchesAndStepCommitComplete :
    (let w := fields [(0, 0x10), (20, 30)]
     zeros w 63 25 = true ∧ fld w 24 20 % 2 = 0 ∧ launchLegal collState (fld w 19 8) = true ∧ collState.coll.launches = [] ∧
       collState.seq.current.isSome = true ∧ collState.seq.stopped = false) ∧
    zeros (fields [(0, 0x11)]) 63 8 = true ∧
    (let s := withSection issuing 14 0x30000 (List.replicate 64 0)
     zeros (fields [(0, 0x13)]) 63 20 = true ∧ fld (fields [(0, 0x13)]) 19 8 < sectionCount s 14 64 ∧ s.mem.launched = []) ∧
    zeros (fields [(0, 0x14)]) 63 8 = true ∧ issuing.mem.ueReport = false ∧ issuing.cu.region = [] ∧
    regionHeld (withRegion issuing 255 readyRows) = some 255 ∧ (withRegion issuing 255 readyRows).seq.stopped = false := by decide +kernel

/-- A job whose first bundle is due, its bundles all of no-operations. -/
def due : State :=
  { issuing with
    seq := { issuing.seq with current := none, issued := 0 }
    time := { Time.reset with origin := 1, epoch := 1, loaded := true }
    eth := { Eth.reset with phase := .confirmed, up := true, expiry := 1, owner := 0xFFFFFFFFFFFFFFFF } }

/-- The same with a WAIT for slot 1 in chip slot 7 of bundle 0. -/
def waiting : State :=
  withQreg (withSection due 1 0x1000 (List.replicate 56 0 ++ leBytes 8 (fields [(0, 5)]).toNat ++ List.replicate 512 0)) 0 1

theorem wit_BundlesIssueOrHold_issue :
    issueDue due = true ∧ due.commit.phase = .idle ∧ (nextFlow due).1 < bundleCount due ∧ hasAdvance due (nextFlow due).1 = false ∧
      (∀ c < 8, chipOpcodeOk (chipWord due (nextFlow due).1 c) = true) := by decide

theorem wit_BundlesIssueOrHold_tests :
    holdTests due (nextFlow due).1 = [] ∧ inRunAhead due (nextFlow due).1 = false ∧
      inRunAhead { due with seq := { due.seq with redirect := some 0, fetched := true } } 0 = true ∧
      ({ due with commit := { Commit.reset with phase := .launched } }).commit.phase ≠ .idle ∧
      ∀ c < jobCores due, ∀ n < 4, coreOpcodeOk (coreWord due (nextFlow due).1 c n) = true := by decide

theorem wit_BundlesIssueOrHold_hold :
    issueDue waiting = true ∧ waiting.commit.phase = .idle ∧ (nextFlow waiting).1 < bundleCount waiting ∧
      hasAdvance waiting (nextFlow waiting).1 = false ∧ holdTests waiting (nextFlow waiting).1 ≠ [] ∧
      ∀ x ∈ holdTests waiting (nextFlow waiting).1, x.order = false := by decide +kernel

/-- Bundle 0 holds an EPOCH.ADVANCE in chip slot 7, under a lease of a slice of one device, or of four in a ring. -/
def advancing (extent : Nat) : State :=
  let s := withSection due 1 0x1000 (List.replicate 56 0 ++ leBytes 8 (fields [(0, 0x11)]).toNat ++ List.replicate 512 0)
  { s with eth := { s.eth with entry := List.replicate 12 0 ++ leBytes 3 (extent + 2 ^ 8 + 2 ^ 16) } }

theorem wit_BundlesIssueOrHold_advance :
    let u := fun (s : State) => tellDrained (passBeat (firstBeat s))
    (∀ n ∈ [1, 4], issueDue (advancing n) = true ∧ hasAdvance (advancing n) (nextFlow (advancing n)).1 = true) ∧
      holdTests (u (advancing 1)) 0 = [] ∧ holdTests (u (advancing 4)) 0 ≠ [] ∧
      ∀ x ∈ holdTests (u (advancing 4)) 0, x.order = false := by decide +kernel

theorem wit_BundlesIssueOrHold_end :
    let s := { due with seq := { due.seq with redirect := some 8 } }
    issueDue s = true ∧ s.commit.phase = .idle ∧ bundleCount s ≤ (nextFlow s).1 := by decide

theorem wit_StreamEndAndTimingFaultsComplete :
    (let s := { due with seq := { due.seq with ended := true }, pwr := { Pwr.reset with state := 1 } }
     s.seq.ended = true ∧ elasticDone s = true ∧ leased s = true ∧ s.eth.up = true ∧ s.pwr.state.toNat ≤ 1) ∧
    (let h : Hold := { bundle := 0, start := 0, beats := 1000, fetch := false, waits := true, cores := [], who := (true, 0, 0, 0), late := false, met := false }
     let s := { due with
       seq := { due.seq with hold := some h }, time := { due.time with epoch := 512001 } }
     s.seq.hold = some h ∧ s.seq.stopped = false ∧ s.commit.phase ≠ .launched ∧ h.waits = true ∧
       h.start + holdLimit s < s.time.epoch.toNat ∧ stepOpen s = true ∧
       ({ s with commit := { s.commit with phase := .launched } }).commit.phase = .launched) ∧
    issuing.seq.job.isSome = true ∧ issuing.seq.stopped = false ∧ issuing.pwr.positions.length = 20 ∧
    (positionAt (setPosition issuing 19 fun p => { p with state := 1 }) 19).state = 1 := by decide

theorem wit_FirstFaultIsRecorded :
    let f := (chipOrigin issuing (chop 0), ({ code := 1 } : Flt))
    let g := (coreOrigin issuing (cop 7), ({ code := 0xB } : Flt))
    issuing.seq.stopped = false ∧ (∀ x ∈ [f, g], x.2.code ≠ 0) ∧ g.1.clk / 8 = f.1.clk / 8 ∧
    (let s := raiseFault issuing f.1 f.2
     s.seq.stopped = true ∧ s.seq.fault.code ≠ 0 ∧ ({ g.1 with clk := 8 } : Origin).clk / 8 ≠ s.seq.fault.clk / 8) := by decide

theorem wit_FirstFaultIsRecorded_loads :
    let op := cop (fields [(39, 1), (40, 255)])
    let s := withRegion issuing 255 fillingLinear
    let r := withRegion issuing 255 readyLinear
    let b := withRegion issuing 255 (readyLinear - descr [(32, 128)])
    let use : PortUser := { core := 15, slot := 2, bundle := 0, issue := 0, offset := 0, claims := vaccessClaims r op (opClk r op) false }
    let p := { r with cu := { r.cu with ports := [use] } }
    coreActive issuing op.core = true ∧ issuing.seq.stopped = false ∧ zeros op.word 23 18 = true ∧ flag op.word 36 = false ∧
      (∀ u ∈ [s, b, p], vaccessOk u op = true ∧ latS u 15 0 0 = none) ∧ canConsume (regionOf s 15 255) = false ∧
      canConsume (regionOf b 15 255) = true ∧ vaccessFits b op = false ∧ canConsume (regionOf p 15 255) = true ∧
      vaccessFits p op = true ∧ use ∈ p.cu.ports ∧ ∃ k ∈ vaccessClaims p op (opClk p op) false, k ∈ use.claims := by decide

theorem wit_FirstFaultIsRecorded_busy :
    (let s := { sweepState with cu := { sweepState.cu with sweeps := [sweepOf sweepState sweepOp] } }
     let v := sweepOf s sweepOp
     sweepEncoding s sweepOp = true ∧ latS s 15 30 0 = none ∧ latS s 15 31 0 = none ∧ preloadLatency s v = none ∧
       drainLatencyFault s v = none ∧ (∀ n ∈ sweepRegions sweepOp, canConsume (regionOf s 15 n) = true) ∧
       sweepBound s sweepOp v = none ∧ 0 < v.slices ∧
       ∃ x ∈ s.cu.sweeps, x.core = v.core ∧ x.mask &&& v.mask ≠ 0 ∧ 0 < x.slices ∧ v.first ≤ x.first + x.slices - 1) ∧
    (let op := cop (fields [(12, 63), (18, 63)])
     let s := { issuing with cu := { issuing.cu with rowFree := issuing.cu.rowFree.set 15 1 } }
     zeros op.word 63 37 = true ∧ zeros op.word 35 24 = true ∧ flag op.word 36 = false ∧ latA s op = none ∧
       opClk s op < (s.cu.rowFree.get op.core).toNat) ∧
    (let op := chop (fields [(0, 1), (8, 31), (13, 6)])
     let u := withQreg issuing 31 1
     let s := { u with seq := { u.seq with loops := List.replicate 8 { loop13 with first := 0, last := 7 } } }
     s.seq.current.isSome = true ∧ s.seq.flowOps = 0 ∧ zeros op.word 63 38 = true ∧ fld op.word 37 13 = 6 ∧
       bundleNow s + 6 < bundleCount s ∧ beyondLoop s (bundleNow s + 6) = false ∧ qregOf s (fld op.word 12 8) ≠ 0 ∧
       s.seq.loops.length = 8) := by decide

/-- The schedule has advanced by ten beats. -/
def later : State := { issuing with seq := { issuing.seq with issued := 10 } }

/-- A result of core 15 due in clk 3. -/
def landing (d : Dest) : Result :=
  { core := 15, slot := 3, bundle := 0, issue := 0, due := 3, dest := d, nonfin := true, satf := false }

/-- The state with that result in flight. -/
def withResult (d : Dest) : State := { later with cu := { later.cu with inflight := [landing d] } }

theorem wit_ShortResultsLand :
    (∀ d ∈ [Dest.nowhere, .vector 63 255 [1], .scalar 31 [2], .stat [(255, 3)], .tile 7 (List.replicate 256 3), .acc 5 (List.replicate 256 4)],
      (withResult d).cu.inflight.find? (fun y => y.core == 15) = some (landing d)) ∧
    (landing .nowhere).due < clkEnd (withResult .nowhere) ∧ (withResult .nowhere).cu.lost = [] ∧
    (List.replicate 256 (3 : Word)).length = 256 := by decide +kernel

theorem wit_RegionCompletionsComplete :
    (let d := descr [(0, 1), (32, 4096), (64, 1), (72, 1)]
     let s0 := withRegion later 255 d
     let s := { s0 with cu := { s0.cu with schedEnds := [{ key := 4095, prod := true, due := 3, done := false }] } }
     rState (regionOf s 15 255) = 1 ∧ rPtodo (regionOf s 15 255) < rPcount (regionOf s 15 255) ∧
       (firstEnd 4095 true s.cu.schedEnds).any (fun e => decide (e.due < clkEnd s)) = true) ∧
    (let d := descr [(0, 1), (32, 4096), (64, 3), (88, 1)]
     let s0 := withRegion later 255 d
     let s := { s0 with cu := { s0.cu with schedEnds := [{ key := 4095, prod := false, due := 3, done := false }] } }
     rState (regionOf s 15 255) = 3 ∧ rCtodo (regionOf s 15 255) < rCcount (regionOf s 15 255) ∧
       (firstEnd 4095 false s.cu.schedEnds).any (fun e => decide (e.due < clkEnd s)) = true) := by decide

/-- A fill or spill of one element into or out of region 255 that has moved it. -/
def movedOne (spill : Bool) (r : BitVec 128) : Captured :=
  { core := 15, engine := 15, slot := 3, bundle := 0, issue := 0, spill := spill, add := false,
    desc := BitVec.ofNat 256 (2 ^ 64 * (1 + 2 ^ 16 + 2 ^ 32 + 2 ^ 48) + 2 ^ 128), regDesc := r, region := 255, count := 1,
    start := 0, fresh := false, moved := [0], asked := [], part := [], freed := false }

theorem wit_RegionCompletionsComplete_elastic (spill : Bool) :
    let d := if spill then descr [(0, 1), (32, 4096), (64, 3), (88, 1)] else descr [(0, 1), (32, 4096), (64, 1), (72, 1)]
    let s0 := withRegion later 255 d
    let s := { s0 with cu := { s0.cu with captured := [movedOne spill d] } }
    (freeElastic s 15 255 spill).isSome = true := by
  cases spill <;> decide

/-- The sweep of sweepOp as it stands in the arrays. -/
def sweeping : Sweep :=
  { core := 15, slot := 3, bundle := 0, issue := 0, first := 10, slices := 4, mask := 1, bank := 3,
    aRegs := [readyTile, 0, 0, 0], bReg := readyTile, aCol := false, bCol := false, rshift := false, chain := 1, rows := 64,
    cols := 64, k := 4, g := 4, q := 1, kscale := 0, done := 0 }

theorem wit_GroupSumsAccumulate :
    let s := { later with cu := { later.cu with sweeps := [sweeping] } }
    nextSweep s 15 = some 0 ∧ s.cu.sweeps[0]? = some sweeping ∧ groupClk sweeping 0 < clkEnd s ∧ s.cu.inits = [] ∧
      s.cu.drains = [] ∧ s.cu.nets = [] ∧ s.cu.lost = [] ∧ sweeping.g * sweeping.done < sweeping.k ∧ sweeping.rows ≤ 64 ∧
      sweeping.cols ≤ 64 ∧ sweeping.bank < 4 := by decide

/-- A drain of array 0, bank 3, to a destination. -/
def draining (dest : Nat) (started : Bool) : Drain :=
  { core := 15, slot := 3, bundle := 0, issue := 0, first := 10, mask := 1, bank := 3, clear := false, dest := dest,
    regDesc := fillingRows, region := 255, off := 0, rnd := 0, sat := false, scale := 0, gen := 0, offset := 0, draw := 0,
    step := 0, micro := 0, copy := false, masked := false, qbase := 0, kbase := 0, started := started,
    unread := (if started then 63 else 64), buffer := (if started then [List.replicate 256 0] else []), toCome := 64, shadow := [], cleared := false }

theorem wit_DrainEventsComplete :
    (let s := { later with cu := { later.cu with drains := [draining 0 false] } }
     s.cu.drains[0]? = some (draining 0 false) ∧
       nextFirstRead s 15 = some 0 ∧ (draining 0 false).first < clkEnd s ∧ (draining 0 false).unread = 64) ∧
    ∀ dest ∈ [0, 1, 2, 3],
      let s := { later with cu := { later.cu with drains := [draining dest true] } }
      let row : List (BitVec 48) := List.replicate 256 0
      s.cu.drains[0]? = some (draining dest true) ∧ nextArrival s 15 = some 0 ∧ drainArrivalClk (draining dest true) < clkEnd s ∧
        (draining dest true).buffer = row :: [] ∧ row.length = 256 ∧ 1 < (draining dest true).toCome := by
  decide +kernel

/-- A write of the links' path of the last byte of HBM's last sector but none. -/
def lastSector : MemOp :=
  { who := .link, kind := .write, sector := 6442450943, mask := 1, data := [7], ecc := .clean, sram := .clean }

theorem wit_MemoryOperationsComplete :
    512 * lastSector.sector < hbmLimit ∧ poolFull issuing lastSector = false ∧
      issuing.mem.held.any (fun x => x.who == lastSector.who) = false ∧
      waitsForChannel issuing issuing.mem.tags lastSector = false ∧ lastSector.ecc ≠ Ecc.uncorrectable ∧
      protectedBy issuing (opAddr issuing lastSector) = none ∧
      (∀ i < 64, badWord issuing (opAddr issuing lastSector + 8 * i) = false) ∧
    (let a := opAddr issuing lastSector
     let s := { issuing with mem := { issuing.mem with maintenance := [(stackOf issuing.mem.salt a, channelOf a, 0)] } }
     poolFull s lastSector = false ∧ waitsForChannel s s.mem.tags lastSector = true) ∧
    ({ issuing with mem := { issuing.mem with held := [lastSector] } }).mem.held.any (fun x => x.who == lastSector.who) = true ∧
    hbmLimit ≤ 512 * 6442450944 := by decide +kernel

/-- A tag that may free. -/
def tag0 : Tag := { die := 0, pool := .fetch, who := .fetch, kind := .read, sector := 0, issue := 0, slot := 0, waits := none, late := false }

/-- R237: the first spill after a STREAM.LOAD waits for the write tags of earlier operations of its engine, not for its own. -/
theorem test_fresh_spill :
    let c := { movedOne true 0 with moved := [], fresh := true, issue := 8 }
    let w := fun i => { tag0 with who := .stream 15 15, kind := .write, issue := i, slot := 3 }
    let s := fun i => { issuing with mem := { issuing.mem with tags := [w i] } }
    mayStart (s 8) [] c = true ∧ mayStart (s 7) [] c = false := by decide

/-- A tag that may free after one that may not, and a pool without a free tag. -/
theorem wit_MemoryOperationsComplete_tags :
    (let a := { tag0 with waits := some lastSector }
     let s := { issuing with mem := { issuing.mem with tags := [a] ++ tag0 :: [] } }
     tagReady s tag0 = true ∧ (∀ y ∈ [a], tagReady s y = false) ∧ s.mem.held = []) ∧
    (let m : MemOp := { lastSector with who := .fetch, kind := .read, sector := 0 }
     let s := { issuing with mem := { issuing.mem with tags := List.replicate 256 tag0 } }
     poolFull s m = true) := by decide +kernel

theorem wit_BankDieEventsComplete :
    3298534883327 < hbmLimit ∧ badWord issuing 3298534883327 = false ∧ (List.replicate 24 1).length = 24 ∧ issuing.mem.tags = [] ∧
    badWord (markWord issuing 3298534883327 true) 3298534883327 = true ∧
    (let c := { movedOne true (descr [(0, 1), (32, 4096), (64, 3), (88, 1)]) with moved := [], asked := [(0, 5)] }
     let s := { issuing with cu := { issuing.cu with captured := [c] } }
     s.cu.captured.find? (fun c => c.core == 15 && c.engine == 15 && c.asked.any fun x => x.1 == 0) = some c ∧
       ((unitAddrs c 0).all fun a => firstIn s c (a / 512)) = true) := by decide

/-- Twenty positions, number 18 Active as logical core 15 and number 19 its row's Spare. -/
def placed : State :=
  { issuing with
    sec := { Sec.reset with role := some .maker, life := 1 }
    pwr := { Pwr.reset with
      positions := List.replicate 18 Position.reset ++ [{ Position.reset with state := 1, logical := 15, width := 64 },
        { Position.reset with state := 2, width := 64 }]
      capable := List.replicate 15 none ++ [some 18] } }

theorem wit_CorePositionEventsComplete :
    placed.pwr.positions.length = 20 ∧ sessionIs placed .maker = true ∧ flag (50 : Word) 5 = true ∧ fld (50 : Word) 4 0 = 18 ∧
      (positionAt placed 18).state = 1 ∧ (positionAt placed 19).state = 2 ∧ sessionIs issuing .maker = false ∧
      placed.seq.job.isSome = true ∧ placed.seq.stopped = false ∧
    (let s := setPosition placed 18 fun p => { p with state := 3 }
     s.pwr.positions.length = 20 ∧ s.pwr.capable.findIdx? (· == some 18) = some 15 ∧ (positionAt s 18).state = 3 ∧
       spareFits s (5 * (18 / 5) + 4) = true ∧
       (let u := setPosition s 19 fun p => { p with width := 32 }
        spareFits u 19 = false ∧ leased u = false ∧ (positionAt u 18).state = 3)) := by decide

/-- A Meadowsweet launch of descriptor 0, of a kind. -/
def optState (kind : Nat) (p : LaunchPhase) : State :=
  let s := withSection issuing 14 0x30000 (leBytes 64 (2 ^ 44 * kind + 2 ^ 192))
  { s with mem := { s.mem with launches := [{ desc := 0, issue := 0, lane := 7, phase := p, coef := [] }] } }

theorem wit_MeadowsweetCommandsComplete :
    (∀ kind ∈ [1, 4], ∀ p ∈ [LaunchPhase.waiting, .pass1, .final],
      let s := optState kind p
      let l : OptLaunch := { desc := 0, issue := 0, lane := 7, phase := p, coef := [] }
      optLaunchOf s 0 = some l ∧ earlierDone s l = true ∧ updateWrites s 0 = false ∧ s.mem.bad = [] ∧
        oKind (optDescr s 0) = kind ∧ recordCount (optDescr s 0) ≠ 0) ∧
    isTrust 4 = true ∧ isTrust 1 = false := by decide +kernel

theorem wit_CommitCommandsComplete :
    (let s := { opened with
       commit := { Commit.reset with phase := .gathered }, time := { opened.time with epoch := 513 } }
     s.commit.phase = .gathered ∧ atSlotStart s = true ∧ s.coll.reduction.entered = false) ∧
    (∀ b ∈ [(0 : Byte), 1, 2],
      let s := { opened with
        commit := { Commit.reset with phase := .launched }
        coll := { opened.coll with reduction := { TreeJoin.empty with down := some [b] } } }
      s.commit.phase = .launched ∧ s.coll.reduction.down = some [b] ∧ scalesMet s = [] ∧ s.mem.staged.wf = true ∧
        (numAt [b] 0 1).testBit 0 = (b == 1)) ∧
    (let s := { opened with commit := { Commit.reset with phase := .decided, good := true } }
     s.commit.phase = .decided ∧ unitsResident s = true ∧ s.eth.stopping = false ∧ s.eth.phase ≠ .lapsing ∧
       s.mem.bad = [] ∧ s.link.waiting = none ∧ s.rsl.slots.length = 2 ∧ s.commit.good = true ∧ s.commit.busy = false ∧
       s.rsl.lastSnap.toNat + snapInterval s ≤ (s.rsl.commits + 1).toNat) ∧
    (let s := { opened with commit := { Commit.reset with phase := .decided, skiprun := 3 } }
     s.commit.good = false ∧ numAt (commitConfig s) 17 1 ≤ s.commit.skiprun) := by decide

theorem wit_SnapshotCommandsComplete :
    (let s := { opened with rsl := { Rsl.reset with filling := some 1, left := [0] } }
     s.mem.hbm.wf = true ∧ s.rsl.filling = some 1 ∧ s.rsl.left = [0] ∧ pageDamaged s 0 = none) ∧
    (let full : Slot := { Slot.empty with state := 2, partner := true, due := [.flash, .store] }
     let s := { opened with
       rsl := { Rsl.reset with slots := [Slot.empty, full], first := 0 }, eth := { Eth.reset with up := true } }
     s.rsl.slots.length = 2 ∧ mayLower s 1 .flash = true ∧ mayLower s 1 .store = true ∧ s.rsl.remote.wf = true ∧ s.eth.up = true) ∧
    (let full : Slot := { Slot.empty with state := 2, copying := [.flash, .store], due := [], stored := 1000000 }
     let part : Slot := { Slot.empty with state := 1, copying := [.partner] }
     let s := { opened with rsl := { Rsl.reset with slots := [part, full], filling := some 0 } }
     s.rsl.slots.length = 2 ∧ (∀ l ∈ [Layer.flash, .store], copyMade s 1 l = true ∧ l ∈ (slotAt s 1).copying) ∧
       (slotAt s 1).state = 2 ∧ copyMade s 0 .partner = true ∧ (slotAt s 0).state = 1 ∧ s.rsl.filling = some 0) := by decide

/-- A topology: coordinate 0 of a torus of 4 by 1 by 1, port 0 with label X+ towards coordinate 1. -/
def topo4 : List Byte := leBytes 60 (1 + 2 ^ 224 * (4 + 2 ^ 8 + 2 ^ 16) + 2 ^ 256 * (1 + 2 ^ 21) + 2 ^ 224 * 2 ^ 224 * (6 * 2 ^ 18))

/-- An open directory entry of job 7 for that torus, all of it the job's slice. -/
def entry7 : List Byte :=
  leBytes 32 (7 + 2 ^ 16 + 2 ^ 24 * 3 + 2 ^ 32 * 64 + 2 ^ 40 * 16 + 2 ^ 88 + 2 ^ 96 * 4 + 2 ^ 104 + 2 ^ 112 + 2 ^ 192 * 100) ++
    List.replicate 16 0 ++ leBytes 4 256 ++ List.replicate 40 0 ++ leBytes 12 (1 + 2 ^ 64) ++ List.replicate 152 0

/-- The same device with its step open under a lease of job 7, its schedule begun at tick 1. -/
def linked : State :=
  { opened with
    link := { Link.reset with topo := topo4 }
    eth := { Eth.reset with up := true, phase := .confirmed, entry := entry7, owner := 9, expiry := 5 }
    pwr := { Pwr.reset with domains := 0xFFFFFFFFFF, state := 0 }
    sec := { Sec.reset with stage := 8, life := 3, bypass := false, addr := 5 } }

/-- A port's state set. -/
def withPort (s : State) (p : Nat) (f : Port → Port) : State := { s with link := { s.link with ports := modifyAt s.link.ports p f } }

/-- The children of rank 0 in the tree of the ring of 4 have sent a payload each. -/
def kidsSent (s : State) (k : Nat) (p : RecoveryPayload) : State :=
  { s with coll := { s.coll with barrier := { TreeJoin.empty with kids := [(1, barrierBytes k p), (3, barrierBytes k p)] } } }

/-- A payload of a device that needs nothing. -/
def calm : RecoveryPayload := { need := false, mismatch := false, none := true, target := noTarget, rmin := 0, rmax := 0 }

/-- The device before the decide barrier, its children's payloads there. -/
def deciding (p : RecoveryPayload) : State :=
  kidsSent { linked with rsl := { Rsl.reset with phase := .decide, rewind := some (captureRecord linked) } } 1 p

/-- What the barrier of a state has joined. -/
def joined (s : State) (k : Nat) (own : RecoveryPayload) : Option RecoveryPayload :=
  (enterJoin s 1 (barrierBytes k own)).coll.barrier.down.map barrierOf

theorem wit_RecoveryCommandsComplete_decide :
    (∀ s : State, s = deciding calm → s.rsl.phase = .decide ∧
      (joined s 1 (decidePayload s)).any (fun q => !q.need && q.rmin == q.rmax) = true) ∧
    (deciding calm).rsl.rewind = some (captureRecord linked) ∧ scanning (deciding calm) = false ∧
    (∀ p ∈ [{ calm with need := true, target := 5 }, { calm with rmax := 1, target := 5 }],
      (joined (deciding p) 1 (decidePayload (deciding p))).any
        (fun q => (q.need || q.rmin != q.rmax) && q.target != noTarget) = true) ∧
    (joined (deciding { calm with need := true }) 1 (decidePayload (deciding { calm with need := true }))).any
      (fun q => q.need && q.target == noTarget) = true := by
  refine ⟨fun s h => ?_, rfl, by decide, ?_, ?_⟩
  · subst h; decide +kernel
  · decide +kernel
  · decide +kernel

/-- At the start barrier. -/
def starting : State := { linked with time := { Time.reset with locked := true, epoch := 5 } }

theorem wit_RecoveryCommandsComplete_barriers :
    (let s := kidsSent { linked with
       rsl := { Rsl.reset with phase := .restart, record := some (captureRecord linked), last := 2, runs := 3 } } 2 (plainPayload false)
     s.rsl.phase = .restart ∧ s.rsl.runs.toNat < 4 ∧ (joined s 2 (plainPayload false)).isSome = true) ∧
    4 ≤ (4 : Byte).toNat ∧
    (∀ m : Bool,
      let s := kidsSent { linked with rsl := { Rsl.reset with phase := .release, mismatch := false } } 3 (plainPayload m)
      s.rsl.phase = .release ∧ (joined s 3 (plainPayload s.rsl.mismatch)).any (fun q => q.mismatch == m) = true) ∧
    (let s := kidsSent starting 0 (plainPayload false)
     s.eth.phase = .confirmed ∧ s.time.locked = true ∧ s.time.origin = 0 ∧ s.seq.job.isSome = true ∧ s.eth.spare = false ∧
       (joined s 0 (plainPayload false)).isSome = true ∧ s.coll.barrier.entered = false ∧
       treeParent (jobTopo s) 7 (myRank s) = none ∧ kidsMet s 1 (barrierBytes 0 (plainPayload false))) := by
  refine ⟨by decide +kernel, by decide, by decide +kernel, ?_⟩
  unfold kidsMet
  decide +kernel

theorem wit_RecoveryCommandsComplete_waits :
    (∀ s ∈ [linked, starting], s.coll.barrier.entered = false ∧ s.coll.barrier.down = none) ∧
      (∀ k ≤ 3, ¬ kidsMet linked 1 (barrierBytes k calm)) ∧ ¬ kidsMet starting 1 (barrierBytes 0 (plainPayload false)) := by
  unfold kidsMet
  decide +kernel

/-- A registered launch of the descriptor of collState, issued for slot 2, with the send binding of core 15. -/
def launch0 (sends : List Binding) : Launch :=
  { desc := 0, slot := 2, issue := 0, lane := 7, registered := true, started := false, slipped := false, slips := 0, epoch := 0,
    sends := sends, recvs := [], vector := [], chunks := [], result := [], seen := [], given := [] }

/-- A send binding of core 15. -/
def bound15 : Binding :=
  { core := 15, region := 255, issue := 0, regDesc := readyLinear, count := 256, widen := false, step := 0, doneB := true, freed := true }

/-- The linked device with a collective descriptor of kind k in its job image and a launch of it; the counter is at the start of
slot 3. -/
def launchState (k : Nat) (l : Launch) : State :=
  let s := withSection linked 13 0x20000 (leBytes 64 (k + 2 ^ 20 * 63 + 2 ^ 26 * 62 + 2 ^ 47 + 2 ^ 64 * 256))
  { s with coll := { s.coll with launches := [l] }, time := { s.time with epoch := 1 + 512 * 3 } }

theorem wit_CollectiveCommandsComplete_slot :
    ∀ b ∈ [[], [bound15]],
      let s := launchState 1 (launch0 b)
      oldestLaunch s 0 = some 0 ∧ slotNow s = some 3 ∧ s.coll.launches[0]? = some (launch0 b) ∧ (launch0 b).started = false ∧
        (launch0 b).slot ≤ 3 ∧ atSlotStart s = true ∧ launchReady s (launch0 b) = !b.isEmpty := by decide +kernel

/-- A collective packet for the linked device, of descriptor 0, from coordinate 1. -/
def chunkOf (aux : DWord) : Packet :=
  { dest := 0, src := 1, kind := 2, jobtag := 7, lseq := 0, aux := aux, payload := [1, 2], crc := 0 }

theorem wit_CollectiveCommandsComplete_packet :
    (let s := withPort (launchState 3 (launch0 [])) 0 fun p => { p with mode := .up }
     let p := chunkOf 0
     (portOf s 0).mode = .up ∧ p.kind = 2 ∧ addrCoord p.dest = myCoord s ∧ p.jobtag = jobTag s ∧ jobTag s ≠ 0 ∧ isSystem p = false ∧
       s.coll.barred.contains 1 = false ∧ takesData s = true ∧ fld p.aux 31 16 = fld s.coll.layout 15 0 ∧ flag p.aux 12 = false ∧
       p.payload ≠ [] ∧ chunkLaunch s 0 (2 * rankOf s (jobTopo s) 1, 0) = some 0 ∧ cKind (collDescr s 0) = 3 ∧
       hasData s (chunkOf 0x10000) = true ∧ fld (chunkOf 0x10000).aux 31 16 ≠ fld s.coll.layout 15 0 ∧ isSystem (chunkOf 0x10000) = false ∧
       ({ s with coll := { s.coll with barred := [1] } }).coll.barred.contains 1 = true) ∧
    (let s := launchState 8 (launch0 [])
     let p := chunkOf 0x1000
     addrCoord p.dest = myCoord s ∧ p.jobtag = jobTag s ∧ flag p.aux 12 = true ∧ isSystem p = false ∧ cKind (collDescr s 0) = 8 ∧
       takesData s = true ∧ hasData s p = true ∧ fld p.aux 31 16 = fld s.coll.layout 15 0 ∧ hasData s { p with payload := [] } = false ∧
       ∀ l ∈ s.coll.launches, l.desc = 0 → l.started = true → ∀ b ∈ l.sends, b.doneB = true) := by decide +kernel

/-- A chunk of an all-reduce that waits for credit of the branch through port 0, since tick 0, past the hold limit. -/
def blocked : State :=
  let s0 := launchState 1 { launch0 [bound15] with started := true }
  let s := withSection (withPort linked 0 fun p => { p with mode := .up }) 13 0x20000 (leBytes 64 (1 + 2 ^ 16 + 2 ^ 20 * 63 + 2 ^ 26 * 62 + 2 ^ 47 + 2 ^ 64 * 256))
  { s with
    coll := { s0.coll with waits := [{ desc := 0, rank := 1, down := true, aux := 0, data := [1], since := 0 }] }
    time := { s0.time with epoch := 512001 } }

theorem wit_CollectiveCommandsComplete_rest :
    (portOf (withPort linked 6 fun p => { p with mode := .up }) 6).mode = .up ∧ linked.coll.drained.contains (6, 5) = false ∧
    (let s := withPort linked 6 fun p => { p with mode := .mgmt }
     portOpen s 6 = true ∧ noticeSeen s (fenceNotice 1 8) = false ∧ (8 : BitVec 16) ≠ jobTag s ∧
       (portOf s 6).waiting = [] ∧ hasRoom s 6 (fencePacket s 6 1 8) = true ∧
       noticeSeen { s with link := { s.link with notices := [(fenceNotice 1 8, 1)] } } (fenceNotice 1 8) = true) ∧
    (branchExpired blocked 0 0 = true ∧ cKind (collDescr blocked 0) = 1 ∧ stepOpen blocked = true) ∧
    (let l := { launch0 [bound15] with started := true, recvs := [bound15] }
     let s := launchState 1 l
     oldestLaunch s 0 = some 0 ∧ s.coll.launches[0]? = some l ∧ l.started = true ∧ launchBound s l = true ∧
       allAcked s 0 = true) := by decide +kernel

theorem wit_TimeCommandsComplete :
    linked.link.ports.length = 7 ∧ (portOf (withPort linked 6 fun p => { p with mode := .mgmt }) 6).mode = .mgmt ∧
    (let s := { linked with time := { linked.time with parent := 7, ptp := true, thetas := [5, -3], ptpSeen := true } }
     s.time.loaded = true ∧ parentHeld (chooseParent s) = false ∧ s.time.ptpSeen = true ∧ (chooseParent s).time.thetas ≠ []) ∧
    (let s0 := withPort linked 0 fun p => { p with mode := .up, stratum := 3 }
     let s := { s0 with time := { s0.time with parent := 0, ptpSeen := false } }
     s.time.loaded = true ∧ parentHeld (chooseParent s) = false ∧ leased s = true ∧ myRank s = 0 ∧ s.time.ptpSeen = false) ∧
    (let s0 := withPort linked 0 fun p => { p with mode := .up, stratum := 3, exchanges := 100 }
     let s := { s0 with time := { s0.time with parent := 0, thetas := [5, -3] }, eth := { s0.eth with phase := .none } }
     s.time.loaded = true ∧ parentHeld (chooseParent s) = false ∧ leased s = false ∧ (chooseParent s).time.thetas ≠ []) ∧
    (let s := { linked with time := { linked.time with loading := true } }
     let m : PtpKind → PtpMessage := fun k => { domain := 0, framed := false, kind := k }
     s.eth.up = true ∧ badFrame whole = false ∧ badFrame { whole with length := 9217 } = true ∧ badFrame { whole with tags := 2 } = true ∧
       badFrame { whole with bad := true } = true ∧ (∀ k ∈ [PtpKind.sync 1 2, .syncTwoStep 2, .followUp 1, .delayResponse 3 4],
         ptpMine s (m k) = true ∧ ptpMine s { m k with domain := 1 } = false ∧ ptpMine s { m k with framed := true } = false) ∧
       ({ s.time with sync := some (some 1, 2) }).sync = some (some 1, 2) ∧ ({ s.time with sync := some (none, 2) }).sync = some (none, 2) ∧
       linked.time.loading = false ∧ linked.time.loaded = true ∧ s.time.loading = true ∧ (portOf (withPort s 6 fun p => { p with mode := .check }) 6).mode = .check) := by
  decide

theorem wit_PortTrainingCommandsComplete :
    linked.link.ports.length = 7 ∧ linked.link.waiting = none ∧ linked.pwr.busy = false ∧ linked.pwr.state ≠ 3 ∧
      (∀ p < 7, (portOf linked p).mode ≠ .ident) ∧
      (portOf linked 0).mode = .down ∧ mayTrain linked 0 = true ∧ (portOf linked 0).retry = false ∧
      tooFewGroups 0 (portOf linked 0).badGroups = false ∧
      tooFewGroups 0 (portOf (withPort linked 0 fun p => { p with badGroups := 3 }) 0).badGroups = true ∧
      (portOf (withPort linked 0 fun p => { p with mode := .train }) 0).mode = .train ∧
      (portOf (withPort linked 0 fun p => { p with retry := true }) 0).retry = true ∧
      sessionIs { linked with sec := { linked.sec with role := some .installer } } .installer = true ∧
      sessionIs linked .installer = false := by decide

/-- The identity block of the expected peer on port 0. -/
def peer1 : IdBlock :=
  { serial := 1, coord := 1, physPort := 0, label := 1, gen := 3, vers := 7, fwrev := 0, features := 0x7F, required := 0, jobtag := 0,
    toposeq := 1 }

/-- A data packet of job 7 that has not been acknowledged. -/
def data7 : Packet := { dest := 0, src := 0, kind := 1, jobtag := 7, lseq := 0, aux := 0, payload := [], crc := 0 }

theorem wit_PortStateCommandsComplete :
    (let s := withPort linked 0 fun p => { p with mode := .ident, version := 3 }
     s.link.ports.length = 7 ∧ s.link.waiting = none ∧ (portOf s 0).mode = .ident ∧
       (∀ o, (portOf s 0).peer = some o → o.serial = peer1.serial) ∧ commonVersion 0 peer1 = some 3 ∧ (portOf s 0).version = 3 ∧
       meetsEntry s (labelEntry s 0) peer1 = true ∧
       ∀ p < 7, p ≠ 0 → (portOf s p).mode ≠ .ident) ∧
    (let s := withPort linked 0 fun p => { p with mode := .check, peer := some { peer1 with label := 0 } }
     (portOf s 0).mode = .check ∧ (portOf s 0).fast = false ∧ (portOf s 0).peer.any (meetsEntry s (labelEntry s 0)) = false) ∧
    (let s := withPort linked 0 fun p => { p with mode := .up, unacked := [data7] }
     (portOf s 0).mode ≠ .down ∧ portOpen s 0 = true ∧ stepOpen s = true ∧ jobTag s ≠ 0 ∧ data7 ∈ (portOf s 0).unacked ∧
       isData data7 = true ∧ data7.jobtag = jobTag s ∧ 1 < (laneGroups 0).1 ∧
       tooFewGroups 0 (putFlag (portOf s 0).groupsOut 1 true) = false ∧
       tooFewGroups 0 (putFlag (portOf (withPort s 0 fun p => { p with groupsOut := 1 }) 0).groupsOut 1 true) = true) := by
  decide

theorem wit_LinkTrafficCommandsComplete :
    (let s := withPort linked 0 fun p => { p with mode := .up }
     let n : Notice := { origin := 1, link := some (1, 0), up := false, tags := [8] }
     s.link.waiting = none ∧ portOpen s 0 = true ∧ noticeSeen s n = false ∧ n.tags.contains (jobTag s) = false ∧
       (portOf s 0).waiting = [] ∧ hasRoom s 0 (newPacket s (peerCoord s 0) 4 0 (noticePayload n n.tags)) = true ∧ n.tags.length ≤ 2040 ∧
       s.link.ports.length = 7 ∧ carriesPackets (portOf s 0).mode = true ∧
       (let p := { data7 with crc := packetCrc data7 }
        carries (portOf s 0).mode p = true ∧ p.kind ≠ 3 ∧ p.crc = packetCrc p ∧ p.lseq = (portOf s 0).rxSeq ∧
          addrCoord p.dest = myCoord s ∧ fld p.dest 43 0 < hbmLimit ∧ carriesCount p = false) ∧
       (let p := { data7 with kind := 2, src := 1, aux := 0x100008000 }
        let q := { p with crc := packetCrc p }
        carries (portOf s 0).mode q = true ∧ q.kind ≠ 3 ∧ q.kind ≠ 1 ∧ q.crc = packetCrc q ∧ q.lseq = (portOf s 0).rxSeq ∧
          addrCoord q.dest = myCoord s ∧ carriesCount q = true ∧ q.src = (peerCoord s 0).setWidth 24 ∧ q.jobtag = jobTag s ∧
          stepOpen s = true ∧ fld q.aux 63 32 ≠ (portOf s 0).received.toNat) ∧
       chainOpen s = true ∧ chainOpen { s with sec := { s.sec with bypass := true } } = false ∧
       data7.crc ≠ packetCrc data7 ∧ carries (portOf s 0).mode data7 = true ∧ (portOf s 0).fails = 0 ∧ 3 ≤ s.sec.stage ∧
       updateOk s [] = false) := by decide +kernel

/-- An update with topology sequence 2 for the part of serial number 7. -/
def update2 : List Byte := leBytes 60 (2 + 2 ^ 64 * 7 + 2 ^ 224 * (4 + 2 ^ 8 + 2 ^ 16) + 2 ^ 256 * (1 + 2 ^ 21) + 2 ^ 224 * 2 ^ 224 * (6 * 2 ^ 18)) ++ List.replicate 196 0

/-- An update of a valid signature: the verification and the serial number are opaque, so both are premises. -/
theorem wit_LinkTrafficCommandsComplete_update (h : Config.serial = 7)
    (k : Config.ecdsaVerify (installerKey linked) (Config.sha512 (bytesAt update2 0 124)) (bytesAt update2 124 132) = true) :
    updateOk linked update2 = true ∧ 3 ≤ linked.sec.stage ∧ leased linked = true ∧ stepOpen linked = true ∧
      linked.commit.limit = false ∧ leased { linked with eth := Eth.reset } = false := by
  constructor
  · simp only [updateOk, h, k]
    decide +kernel
  · and_intros <;> decide +kernel

/-- A transfer with identity 3. -/
def xfer (target : Nat) (use : TransferUse) (retried : Bool) : Pending :=
  { id := 3, target := target, use := use, ns := 0, addr := 0, count := 0, bytes := [], retried := retried, parked := false, issued := 0 }

/-- The linked device with that transfer in flight, in a phase of its lease, with a feed of 2 slots. -/
def feeding (p : Pending) (ph : LeasePhase) : State :=
  let s := withSection linked 6 0x40000 (leBytes 16 (2 ^ 64 * 2))
  { s with eth := { s.eth with transfers := [p], phase := ph }, time := { s.time with epoch := 2000000001 } }

theorem wit_TransferCommandsComplete :
    (∀ p ∈ [xfer 7 .write false, xfer 8 .leaseSlot false, xfer 8 .claimSwap false, xfer 7 (.unit 1) true, xfer 9 .partner false],
      (feeding p .swap).eth.transfers.find? (·.id == 3) = some p ∧ p.issued.toNat + 2000000000 < (feeding p .swap).time.epoch.toNat) ∧
    (feeding (xfer 8 .leaseSlot false) .slotRead).eth.phase = .slotRead ∧ linked.eth.up = true ∧ fld (0 : DWord) 47 0 = 0 ∧
    (let s := feeding (xfer 7 (.unit 1) true) .confirmed
     feedBase s = 0 ∧ 1 < feedBase s + feedSlots s ∧ 0 ∉ s.eth.resident ∧ s.eth.arrived = [] ∧ s.eth.reach.getLsbD 7 = false ∧ leased s = true ∧ s.seq.job.isSome = true ∧
       (unitsInFlight s).length < 64 ∧ nextUnitOf s = some 0 ∧ s.sec.stage ≠ 0) ∧
    (let s := { feeding (xfer 8 .claimSwap false) .swap with pwr := { linked.pwr with intlk := true, domains := 0 } }
     s.eth.phase = .swap ∧ s.sec.life = 3 ∧ s.pwr.intlk = true ∧ 0 ∈ livePositions s ∧ s.pwr.domains.getLsbD 0 = false) ∧
    linked.pwr.intlk = false ∧
    (let p := { xfer 8 .write true with parked := true }
     let s := { feeding p .confirmed with time := { linked.time with epoch := 10000000000 } }
     p ∈ s.eth.transfers ∧ p.issued.toNat + 10000000000 ≤ s.time.epoch.toNat ∧ s.eth.up = true) := by decide +kernel

theorem wit_LeaseCommandsComplete_renewal :
    leased linked = true ∧ linked.eth.up = true ∧ ({ linked.eth with up := false }).up = false ∧
      (∀ u ∈ [TransferUse.renewal, .entryState, .directory],
        (feeding (xfer 8 u false) .confirmed).eth.transfers.find? (·.id == 3) = some (xfer 8 u false)) ∧
      (10 : DWord) ≠ linked.eth.owner ∧ linked.seq.stopped = false ∧ linked.commit.limit = false ∧ inBarrier linked = false ∧
      linked.rsl.phase ≠ .ended ∧
      (let s := { linked with eth := { linked.eth with phase := .claimed }, time := { linked.time with epoch := 10000000001 } }
       s.eth.phase = .claimed ∧ 0 ∈ ringLabels s ∧ slicePortOk s 0 = false ∧ confirmExpired s = true ∧
         confirmExpired { s with time := linked.time } = false) := by decide +kernel

theorem wit_LeaseCommandsComplete :
    (let good : Position := { Position.reset with state := 1, width := 64 }
     let s := { linked with
       eth := { Eth.reset with up := true }
       pwr := { Pwr.reset with state := 2, positions := List.replicate 20 good } }
     s.sec.stage = 8 ∧ s.sec.life = 3 ∧ s.eth.phase = .none ∧ s.eth.up = true ∧ s.pwr.busy = false ∧ s.pwr.state = 2 ∧
       numAt (leBytes 8 (1 + 2 ^ 32)) 0 4 = 1 ∧ numAt (leBytes 8 (1 + 2 ^ 32)) 4 4 = 1 ∧ entryOk entry7 = true ∧
       openHere s entry7 = true ∧ joinCheck s entry7 = none) ∧
    (let s0 := withPort linked 0 fun p => { p with mode := .up, label := 0, peer := some { peer1 with jobtag := 7 } }
     let s1 := withPort s0 1 fun p => { p with mode := .up, label := 1, peer := some { peer1 with jobtag := 7 } }
     let t := leBytes 32 (1 + 2 ^ 224 * (4 + 2 ^ 8 + 2 ^ 16)) ++ leBytes 28 (1 + 2 ^ 21 + 2 ^ 32 * (3 + 2 ^ 18 + 2 ^ 21))
     let s := { s1 with eth := { s1.eth with phase := .claimed }, link := { s1.link with topo := t } }
     s.eth.phase = .claimed ∧ s.seq.job.isSome = true ∧ (∀ x ∈ s.eth.transfers, x.use ≠ .partner) ∧ ringLabels s = [0, 1] ∧
       (∀ l ∈ ringLabels s, slicePortOk s l = true) ∧ s.eth.spare = false) ∧
    (let s := { linked with time := { linked.time with epoch := 5 } }
     s.eth.phase = .confirmed ∧ s.eth.expiry.toNat ≤ s.time.epoch.toNat ∧
       s.eth.expiry.toNat + 1000000 * numAt s.eth.entry 28 4 ≤ s.time.epoch.toNat ∧
       ({ s with eth := { s.eth with phase := .lapsing } }).eth.phase = .lapsing) := by decide +kernel

/-- At the start of a slot with a gathered commit, its children's payloads there or not. -/
def gathered (kids : List (Nat × List Byte)) : State :=
  { withPort linked 1 (fun p => { p with mode := .up }) with
    commit := { Commit.reset with phase := .gathered }
    time := { linked.time with epoch := 513 }
    coll := { linked.coll with reduction := { TreeJoin.empty with kids := kids } } }

theorem wit_CommitCommandsComplete_join :
    (gathered []).commit.phase = .gathered ∧ atSlotStart (gathered []) = true ∧
      ¬ kidsMet (gathered []) 0 (reductionPayload (gathered [])) ∧
      kidsMet (gathered [(1, [0]), (3, [1])]) 0 (reductionPayload (gathered [(1, [0]), (3, [1])])) ∧
      treeParent (jobTopo linked) 7 (myRank linked) = none := by
  unfold kidsMet
  decide +kernel

/-- Rank 2 of the ring: its port X+ leads to no neighbour in the tree. -/
def offTree : State :=
  let t := leBytes 60 (1 + 2 ^ 192 * 2 + 2 ^ 224 * (4 + 2 ^ 8 + 2 ^ 16) + 2 ^ 256 * (3 + 2 ^ 21))
  let s := withPort linked 0 fun p => { p with mode := .up, label := 0, peer := some { peer1 with coord := 3, jobtag := 7 } }
  { s with link := { s.link with topo := t } }

/-- A scale record of the job that holds an uncorrectable word. -/
def badScale : State :=
  let s := withSection opened 9 0x50000 (List.replicate 8 0)
  { s with mem := { s.mem with bad := [(physAddr s (scaleRecordAddr s 0) / 8, 0xFF)] } }

theorem wit_CommitCommandsComplete_counts :
    0 ∈ ownedPorts offTree ∧ 0 ∉ treePorts offTree ∧ (portOf offTree 0).waiting = [] ∧
      hasRoom offTree 0 (newPacket offTree (peerCoord offTree 0) 2 (systemAux offTree 0 false 0) []) = true ∧
      opened.rsl.left = [] ∧ scalesMet badScale ≠ [] := by decide +kernel

theorem wit_SnapshotCommandsComplete_pages :
    committedPages { opened with mem := { opened.mem with classes := [{ first := 7, last := 7, cls := 1 }] } } ≠ [] := by decide

/-- A record in force that lists storage target 0 and whose access list's entry 0 gives the source 9 with key 4 the operator's role. -/
def listing : State :=
  let head := leBytes 64 (0x4E544548 + 2 ^ 32 + 2 ^ 40)
  let dir := leBytes 16 (6 + 2 ^ 32 * 320 + 2 ^ 64 * 2656)
  let list := List.replicate 96 0 ++ [7] ++ List.replicate 2047 0 ++ leBytes 32 (9 + 2 ^ 128 * 4 + 2 ^ 160) ++ List.replicate 480 0
  { linked with sec := { linked.sec with record := head ++ dir ++ List.replicate 240 0 ++ list } }

theorem wit_EthernetCommandsComplete :
    (let s := { linked with eth := Eth.reset }
     s.pwr.domains.getLsbD 39 = true ∧ s.eth.up = false ∧ s.eth.badLanes &&& modeLanes true = 0) ∧
    linked.eth.up = true ∧ linked.pwr.state.toNat ≤ 2 ∧ linked.pwr.busy = false ∧
    rdmaRange 0x20000 8 = true ∧ rdmaRange 0x1FFFFC 4 = true ∧ (0x1FFFFC : Nat) % 4 = 0 ∧ rdmaRange 0x20001 4 = true ∧
    (0x20001 : Nat) % 4 ≠ 0 ∧ rdmaRange 0x200000 4 = false ∧ (0 : BitVec 128).toNat = numAt (network linked) 16 16 ∧
    (1 : BitVec 128).toNat ≠ numAt (network linked) 16 16 := by decide

theorem wit_EthernetCommandsComplete_listed :
    let listed := fun (source key : Nat) (i : Nat) =>
      (accessRole listing i).isSome && (accessEntry listing i).1 == source && (accessEntry listing i).2.1 == key
    listing.eth.up = true ∧ (List.range 16).find? (listed 9 4) = some 0 ∧ accessRole listing 0 = some .operator ∧
      (List.range 16).find? (listed 9 5) = none ∧ targetListed listing 0 = true ∧ numAt listing.eth.entry 76 1 = 0 ∧
      numAt listing.eth.entry 104 1 = 0 := by decide +kernel

/-- A record for the part of serial number 7: seven sections, all of them in form, its signatures zero. -/
def record7 : List Byte :=
  let entry := fun (t off size : Nat) => leBytes 16 (t + 2 ^ 32 * off + 2 ^ 64 * size)
  let head := leBytes 12 (0x4E544548 + 2 ^ 32 + 2 ^ 48 * 7 + 2 ^ 64 * 4516) ++ leBytes 52 (2 ^ 32 * 7)
  let dir := entry 1 320 196 ++ entry 2 576 832 ++ entry 3 1408 60 ++ entry 4 1472 32 ++ entry 5 1536 128 ++ entry 6 1664 2656 ++
    entry 7 4352 32
  head ++ dir ++ List.replicate 1232 0 ++ leBytes 60 (1 + 2 ^ 64 * 7 + 2 ^ 224 * (4 + 2 ^ 8 + 2 ^ 16) + 2 ^ 256 * (1 + 2 ^ 21) + 2 ^ 224 * 2 ^ 224 * (6 * 2 ^ 18)) ++
    List.replicate 2884 0 ++ leBytes 32 (2600 + 2 ^ 16 * 16 + 2 ^ 24 * 95) ++ List.replicate 132 0

/-- A Sealed part before boot, with no boot control block, or one of BCSEQ 1 with ACTIVE 0 and TRIAL 1. -/
def bootControl (trial : Nat) : State :=
  { State.reset with
    sec := { Sec.reset with
      life := 2
      nor := if trial = 0 then [] else [(0x7F00000, 1), (0x7F00009, 1), (0x7F0003C, 0x14), (0x7F0003D, 0xF4), (0x7F0003E, 0xFF),
        (0x7F0003F, 0x04)] } }

/-- The record is in a slot. -/
def flashed (b : Bool) (trial : Nat) : State :=
  { bootControl trial with
    sec := { (bootControl trial).sec with nor := (bootControl trial).sec.nor.setList (slotBase b) record7 } }

/-- A slot gives back the record written into it. -/
theorem slotRecord_of (s : State) (b : Bool) (h : numAt (record7.take 320) 0 4 = 0x4E544548 ∧ numAt (record7.take 320) 8 4 = 4516)
    (k : ∀ i < 4516, s.sec.nor.get (slotBase b + i) = record7.getD i 0) (n : record7.length = 4516) : slotRecord s b = record7 := by
  have part : ∀ m ≤ 4516, s.sec.nor.getList (slotBase b) m = record7.take m := by
    intro m hm
    refine List.ext_getElem ?_ ?_
    · simp [Sparse.getList, n]; omega
    · intro i h1 h2
      simp [Sparse.getList] at h1 ⊢
      rw [k i (by omega), List.getD_eq_getElem?_getD, List.getElem?_eq_getElem (by omega)]
      rfl
  unfold slotRecord
  dsimp only
  rw [part 320 (by omega), h.1, h.2, if_pos ⟨rfl, by decide⟩, part 4516 (by omega), ← n, List.take_length]

/-- The record's sections. -/
theorem sections7 : recordSection record7 2 = List.replicate 832 0 ∧ recordSection record7 6 = List.replicate 2656 0 ∧
    recordSection record7 5 = List.replicate 128 0 := by decide +kernel

/-- A network section of zeros is in form. -/
theorem network7 : networkOk (List.replicate 2656 0) = true := by
  simp only [networkOk, numAt, bytesAt, zeroAt, allZero, addressOk, List.drop_replicate, List.take_replicate]
  decide +kernel

/-- The record is in form. -/
theorem form7 : recordForm record7 = true := by
  unfold recordForm
  dsimp only
  rw [sections7.1, sections7.2.1, sections7.2.2, network7]
  decide +kernel

/-- The record passes where its signatures verify: serial number and verification are opaque, so these are premises. -/
theorem wit_BootCommandsComplete_record (s : State) (hl : s.sec.life = 2) (hs : Config.serial = 7) (hr : recordSigned record7 = true)
    (hf : firmwareSigned s record7 = true) : recordCheck s record7 = 0 := by
  have key : recordKeyOk s record7 = true := by unfold recordKeyOk; rw [hl]; rfl
  have sn : numAt record7 16 16 = (7 : BitVec 128).toNat := by decide +kernel
  unfold recordCheck
  rw [form7, key, hr, hf, sn, hs]
  rfl

/-- Two states whose boot flash agrees from the boot control on. -/
theorem write_of {s t : State} (h : ∀ a, 0x7F00000 ≤ a → s.sec.nor.get a = t.sec.nor.get a) :
    (∀ o n, controlNum s o n = controlNum t o n) ∧
      ∀ x n a, 0x7F00000 ≤ a → (writeControl s x n).sec.nor.get a = (writeControl t x n).sec.nor.get a := by
  have copy : ∀ k, controlCopy s k = controlCopy t k := by
    intro k
    unfold controlCopy Sparse.getList
    exact List.map_congr_left fun i _ => h _ (by omega)
  have gov : governing s = governing t := by unfold governing; rw [copy, copy]
  have num : ∀ o n, controlNum s o n = controlNum t o n := by
    intro o n
    unfold controlNum
    rw [gov]
    cases governing t with
    | none => rfl
    | some k => dsimp only; rw [copy]
  refine ⟨num, fun x n a ha => ?_⟩
  unfold writeControl
  rw [gov, num]
  dsimp only
  rw [Sparse.get_setList, Sparse.get_setList, h a ha]

/-- A record in a slot leaves the boot control as it is. -/
theorem control_of (b : Bool) (trial a : Nat) (h : 0x7F00000 ≤ a) :
    (flashed b trial).sec.nor.get a = (bootControl trial).sec.nor.get a := by
  have n : record7.length = 4516 := by decide +kernel
  show ((bootControl trial).sec.nor.setList (slotBase b) record7).get a = _
  rw [Sparse.get_setList_outside]
  cases b <;> simp only [slotBase, n, Bool.false_eq_true, if_false, if_true] <;> omega

/-- And the slot holds it. -/
theorem held7 (b : Bool) (trial i : Nat) (h : i < 4516) :
    (flashed b trial).sec.nor.get (slotBase b + i) = record7.getD i 0 := by
  show ((bootControl trial).sec.nor.setList (slotBase b) record7).get (slotBase b + i) = _
  rw [Sparse.get_setList, if_pos (by rw [show record7.length = 4516 by decide +kernel]; omega)]
  congr 1
  omega

theorem wit_BootCommandsComplete_blank :
    State.reset.sec.stage < 2 ∧ State.reset.pwr.intlk = false ∧ bootTrial State.reset = 0 ∧
      recordCheck State.reset (slotRecord State.reset (bootActive State.reset)) ≠ 0 ∧
      recordCheck State.reset (slotRecord State.reset !bootActive State.reset) ≠ 0 := by decide +kernel

theorem wit_BootCommandsComplete_active :
    let s := flashed false 0
    s.sec.stage < 2 ∧ s.pwr.intlk = false ∧ s.sec.life = 2 ∧ bootTrial s = 0 ∧ slotRecord s (bootActive s) = record7 := by
  have c := (write_of (control_of false 0)).1
  have a : bootActive (flashed false 0) = false := by
    show (controlNum (flashed false 0) 8 1 == 1) = false
    rw [c]
    decide +kernel
  refine ⟨by decide +kernel, by decide +kernel, by decide +kernel, ?_, ?_⟩
  · show controlNum (flashed false 0) 9 1 = 0
    rw [c]
    decide +kernel
  · rw [a]
    exact slotRecord_of _ _ (by decide +kernel) (held7 false 0) (by decide +kernel)

theorem wit_BootCommandsComplete_trial :
    let s := flashed true 1
    let w := writeControl s (bootActive s) 2
    s.sec.stage < 2 ∧ s.pwr.intlk = false ∧ w.sec.life = 2 ∧ bootTrial s = 1 ∧ slotRecord w (!bootActive w) = record7 := by
  have c := write_of (control_of true 1)
  have a : bootActive (flashed true 1) = false := by
    show (controlNum (flashed true 1) 8 1 == 1) = false
    rw [c.1]
    decide +kernel
  have w : bootActive (writeControl (flashed true 1) false 2) = false := by
    show (controlNum (writeControl (flashed true 1) false 2) 8 1 == 1) = false
    rw [(write_of (c.2 false 2)).1]
    unfold writeControl
    rw [show governing (bootControl 1) = some 0 by decide +kernel, show controlNum (bootControl 1) 0 8 = 1 by decide +kernel]
    dsimp only
    rw [show crc32 (leBytes 8 (1 + 1) ++ [BitVec.ofNat 8 false.toNat, BitVec.ofNat 8 2] ++ List.replicate 50 0) = 0x05C87330 by decide +kernel]
    decide +kernel
  refine ⟨by decide +kernel, by decide +kernel, by decide +kernel, ?_, ?_⟩
  · show controlNum (flashed true 1) 9 1 = 1
    rw [c.1]
    decide +kernel
  · rw [a, w]
    refine slotRecord_of _ _ (by decide +kernel) (fun i hi => ?_) (by decide +kernel)
    rw [← held7 true 1 i hi]
    unfold writeControl
    refine Sparse.get_setList_outside _ _ _ _ (Or.inl ?_)
    simp only [Bool.not_false, slotBase, if_true]
    omega

theorem wit_BootCommandsComplete_stages :
    (let s := { linked with sec := { linked.sec with stage := 3, life := 3 } }
     s.sec.stage = 3 ∧ s.sec.life ≠ 4 ∧ s.pwr.tripped = false ∧ s.pwr.intlkStop = false ∧ lowering s = false) ∧
    (let s := { linked with pwr := { linked.pwr with intlk := true } }
     s.pwr.intlk = true ∧ anythingOn s = true ∧ anythingOn State.reset = false) ∧
    computeOn State.reset = false ∧ linked.pwr.positions.length = 20 ∧ computeOn linked = true ∧ rowsFull linked = true ∧ (positionAt linked 18).state = 0 ∧
    18 % 5 < 4 ∧ linked.pwr.waking = [] ∧ linked.time.loaded = true := by decide

/-- A slot of nothing but zeros. -/
theorem slotRecord_blank (s : State) (b : Bool) (k : ∀ i < 320, s.sec.nor.get (slotBase b + i) = 0) :
    slotRecord s b = List.replicate 320 0 := by
  have part : ∀ m ≤ 320, s.sec.nor.getList (slotBase b) m = List.replicate m 0 := by
    intro m hm
    refine List.ext_getElem (by simp [Sparse.getList]) fun i h1 _ => ?_
    simp [Sparse.getList] at h1 ⊢
    exact k i (by omega)
  have h := part 320 (by omega)
  unfold slotRecord
  dsimp only
  rw [h, if_neg (by decide +kernel)]

/-- It passes no check. -/
theorem blank_fails (s : State) : recordCheck s (List.replicate 320 0) = 1 := by
  unfold recordCheck
  rw [show recordForm (List.replicate 320 0) = false by decide +kernel]
  rfl

theorem wit_BootCommandsComplete_other :
    let s := flashed true 0
    bootTrial s = 0 ∧ bootActive s = false ∧ recordCheck s (slotRecord s false) ≠ 0 ∧ slotRecord s true = record7 ∧
      s.sec.slotBad.getLsbD 1 = false := by
  have c := (write_of (control_of true 0)).1
  refine ⟨?_, ?_, ?_, slotRecord_of _ _ (by decide +kernel) (held7 true 0) (by decide +kernel), by decide +kernel⟩
  · show controlNum (flashed true 0) 9 1 = 0
    rw [c]
    decide +kernel
  · show (controlNum (flashed true 0) 8 1 == 1) = false
    rw [c]
    decide +kernel
  · rw [slotRecord_blank _ _ fun i hi => ?_, blank_fails]
    · decide
    · show ((bootControl 0).sec.nor.setList (slotBase true) record7).get (slotBase false + i) = 0
      rw [Sparse.get_setList_outside _ _ _ _ (Or.inl (by simp only [slotBase, if_true, Bool.false_eq_true, if_false]; omega))]
      rfl

/-- Where a boot control block goes and what it holds, from the governing copy, its BCSEQ and the CRC. -/
theorem writeControl_nor (s : State) (k n t : Nat) (a : Bool) (c : BitVec 32) (g : governing s = some k) (h : controlNum s 0 8 = n)
    (hc : crc32 (leBytes 8 (n + 1) ++ [BitVec.ofNat 8 a.toNat, BitVec.ofNat 8 t] ++ List.replicate 50 0) = c) :
    (writeControl s a t).sec.nor = s.sec.nor.setList (0x7F00000 + 0x80000 * (1 - k))
      (leBytes 8 (n + 1) ++ [BitVec.ofNat 8 a.toNat, BitVec.ofNat 8 t] ++ List.replicate 50 0 ++ leBytes 4 c.toNat) := by
  rw [writeControl, g, h]
  dsimp only
  rw [hc]

/-- The blocks written from `bootControl 1`: TRIAL = 2 goes to copy 1, the end of the trial over copy 0. -/
def control2 : List Byte :=
  leBytes 8 (1 + 1) ++ [BitVec.ofNat 8 false.toNat, BitVec.ofNat 8 2] ++ List.replicate 50 0 ++ leBytes 4 (0x05C87330 : BitVec 32).toNat
def control3 : List Byte :=
  leBytes 8 (2 + 1) ++ [BitVec.ofNat 8 false.toNat, BitVec.ofNat 8 0] ++ List.replicate 50 0 ++ leBytes 4 (0x80171CD8 : BitVec 32).toNat

theorem gov1 : governing (bootControl 1) = some 0 := by decide +kernel

theorem seq1 : controlNum (bootControl 1) 0 8 = 1 := by decide +kernel

theorem crc_control2 :
    crc32 (leBytes 8 (1 + 1) ++ [BitVec.ofNat 8 false.toNat, BitVec.ofNat 8 2] ++ List.replicate 50 0) = 0x05C87330 := by decide +kernel

theorem crc_control3 :
    crc32 (leBytes 8 (2 + 1) ++ [BitVec.ofNat 8 false.toNat, BitVec.ofNat 8 0] ++ List.replicate 50 0) = 0x80171CD8 := by decide +kernel

theorem write2 : (writeControl (bootControl 1) false 2).sec.nor = (bootControl 1).sec.nor.setList 0x7F80000 control2 :=
  writeControl_nor _ _ _ _ _ _ gov1 seq1 crc_control2

/-- Two states of one flash have one boot control. -/
theorem control_of_nor (s t : State) (h : s.sec.nor = t.sec.nor) : governing s = governing t ∧ ∀ o n, controlNum s o n = controlNum t o n := by
  have c : ∀ k, controlCopy s k = controlCopy t k := by intro k; unfold controlCopy; rw [h]
  have g : governing s = governing t := by unfold governing; rw [c, c]
  refine ⟨g, fun o n => ?_⟩
  unfold controlNum
  rw [g]
  cases governing t with
  | none => rfl
  | some k => dsimp only; rw [c]

/-- The flash with the second block, and with the third. -/
def flash2 : State := { bootControl 1 with sec := { (bootControl 1).sec with nor := (bootControl 1).sec.nor.setList 0x7F80000 control2 } }
def flash3 : State := { flash2 with sec := { flash2.sec with nor := flash2.sec.nor.setList 0x7F00000 control3 } }

theorem gov2 : governing flash2 = some 1 := by decide +kernel

theorem seq2 : controlNum flash2 0 8 = 2 := by decide +kernel

theorem write3 : (writeControl (writeControl (bootControl 1) false 2) false 0).sec.nor = flash3.sec.nor := by
  have h := control_of_nor (writeControl (bootControl 1) false 2) flash2 write2
  rw [writeControl_nor _ 1 2 _ _ _ (h.1.trans gov2) ((h.2 0 8).trans seq2) crc_control3, write2]
  rfl

/-- What those blocks say. -/
theorem flash_controls : controlNum flash2 8 1 = 0 ∧ controlNum flash2 9 1 = 2 ∧ controlNum flash3 8 1 = 0 := by decide +kernel

theorem controls : controlNum (writeControl (bootControl 1) false 2) 8 1 = 0 ∧ controlNum (writeControl (bootControl 1) false 2) 9 1 = 2 ∧
    controlNum (writeControl (writeControl (bootControl 1) false 2) false 0) 8 1 = 0 := by
  rw [(control_of_nor _ flash2 write2).2, (control_of_nor _ flash2 write2).2, (control_of_nor _ flash3 write3).2]
  exact flash_controls

theorem boot1 : bootTrial (bootControl 1) = 1 ∧ bootActive (bootControl 1) = false := by decide +kernel

/-- Below the boot control it is blank. -/
theorem blank1 (a : Nat) (h : a < 0x7F00000) : (bootControl 1).sec.nor.get a = 0 := by
  show Sparse.get [(0x7F00000, 1), (0x7F00009, 1), (0x7F0003C, 0x14), (0x7F0003D, 0xF4), (0x7F0003E, 0xFF), (0x7F0003F, 0x04)] a = 0
  simp only [Sparse.get]
  repeat rw [if_neg (by omega)]

/-- So neither slot holds a record. -/
theorem blank2 : slotRecord (writeControl (bootControl 1) false 2) true = List.replicate 320 0 := by
  refine slotRecord_blank _ _ fun i hi => ?_
  have hi' : slotBase true + i < 0x7F00000 := by simp only [slotBase, if_true]; omega
  rw [write2, Sparse.get_setList_outside _ _ _ _ (Or.inl (by omega)), blank1 _ hi']

theorem blank3 : slotRecord (writeControl (writeControl (bootControl 1) false 2) false 0) false = List.replicate 320 0 := by
  refine slotRecord_blank _ _ fun i hi => ?_
  have hi' : slotBase false + i < 0x7F00000 := by simp only [slotBase, Bool.false_eq_true, if_false]; omega
  rw [write3, show flash3.sec.nor = ((bootControl 1).sec.nor.setList 0x7F80000 control2).setList 0x7F00000 control3 from rfl,
    Sparse.get_setList_outside _ _ _ _ (Or.inl hi'), Sparse.get_setList_outside _ _ _ _ (Or.inl (by omega)), blank1 _ hi']

/-- Nothing governs but slot A before and after. -/
theorem active2 : bootActive (writeControl (bootControl 1) false 2) = false := by unfold bootActive; rw [controls.1]; rfl

theorem active3 : bootActive (writeControl (writeControl (bootControl 1) false 2) false 0) = false := by
  unfold bootActive; rw [controls.2.2]; rfl

theorem trial2 : bootTrial (writeControl (bootControl 1) false 2) = 2 := controls.2.1

theorem blank_refused (s : State) (b : Bool) (h : slotRecord s b = List.replicate 320 0) : recordCheck s (slotRecord s b) ≠ 0 := by
  rw [h, blank_fails]
  exact Nat.one_ne_zero

theorem fails2 : recordCheck (writeControl (bootControl 1) false 2) (slotRecord (writeControl (bootControl 1) false 2) true) ≠ 0 :=
  blank_refused _ _ blank2

theorem blank_active_refused (s : State) (b : Bool) (a : bootActive s = b) (h : slotRecord s b = List.replicate 320 0) :
    recordCheck s (slotRecord s (bootActive s)) ≠ 0 := by
  rw [a]
  exact blank_refused s b h

theorem fails3 : recordCheck (writeControl (writeControl (bootControl 1) false 2) false 0)
    (slotRecord (writeControl (writeControl (bootControl 1) false 2) false 0)
      (bootActive (writeControl (writeControl (bootControl 1) false 2) false 0))) ≠ 0 :=
  blank_active_refused _ _ active3 blank3

/-- A trial whose slot fails, and one that was in progress: neither slot holds a record, or the active one does. -/
theorem wit_BootCommandsComplete_fallen :
    let s := bootControl 1
    let w := writeControl s false 2
    let v := writeControl w false 0
    bootTrial s = 1 ∧ bootActive s = false ∧ bootActive w = false ∧ recordCheck w (slotRecord w true) ≠ 0 ∧
      recordCheck v (slotRecord v (bootActive v)) ≠ 0 ∧ bootTrial w = 2 :=
  ⟨boot1.1, boot1.2, active2, fails2, fails3, trial2⟩

/-- A change of boot control stays above the slots. -/
theorem writeControl_below (s : State) (b : Bool) (t x : Nat) (h : x < 0x7F00000) :
    (writeControl s b t).sec.nor.get x = s.sec.nor.get x := by
  unfold writeControl
  exact Sparse.get_setList_outside _ _ _ _ (Or.inl (by omega))

theorem active_returned : bootActive (writeControl (writeControl (flashed false 1) false 2) false 0) = false := by
  have c := write_of ((write_of (control_of false 1)).2 false 2)
  have d := (write_of (c.2 false 0)).1 8 1
  unfold bootActive
  rw [d, controls.2.2]
  rfl

theorem wit_BootCommandsComplete_returned :
    let w := writeControl (flashed false 1) false 2
    let v := writeControl w false 0
    bootActive v = false ∧ slotRecord v false = record7 := by
  refine ⟨active_returned, slotRecord_of _ _ (by decide +kernel) (fun i hi => ?_) (by decide +kernel)⟩
  have h : slotBase false + i < 0x7F00000 := by simp only [slotBase, Bool.false_eq_true, if_false]; omega
  rw [← held7 false 1 i hi, writeControl_below _ _ _ _ h, writeControl_below _ _ _ _ h]

/-- A row with one position out of service and its spare, and a trial at its end. -/
theorem wit_BootCommandsComplete_spare :
    let s := setPosition { linked with sec := { linked.sec with stage := 5, trial := true } } 15 fun p => { p with state := 3 }
    rowsFull s = true ∧ (positionAt s 19).state = 0 ∧ (positionAt s 15).state ≠ 0 ∧ (positionAt s 16).state = 0 ∧
      (∀ k, k < 4 → (positionAt s k).state = 0) ∧ s.sec.trial = true := by decide

/-- A session of a role in a part in Maker or Field state. -/
def session (r : Role) : State :=
  { linked with sec := { linked.sec with role := some r, life := (if r = .maker then 1 else 3) } }

/-- The same without a lease. -/
def unleased (r : Role) : State := { session r with eth := { Eth.reset with up := true } }

theorem wit_RecordCommandsComplete :
    updateRight (session .installer) = true ∧ updateRight (session .maker) = true ∧ updateRight (session .operator) = false ∧
      (14335 : BitVec 14).toNat ≤ 14335 ∧ bootTrial (session .installer) ≠ 1 ∧ leased (session .installer) = true ∧
      leased (unleased .installer) = false ∧
      recordCheck (session .installer) (slotRecord (session .installer) !bootActive (session .installer)) ≠ 0 := by decide +kernel

theorem wit_LifeCycleCommandsComplete (h : tokenOk (session .installer) = true) :
    State.reset.sec.life = 0 ∧ sessionIs (session .maker) .maker = true ∧ (session .maker).sec.life = 1 ∧
      sessionIs (session .installer) .installer = true ∧ tokenOk (session .installer) = true ∧ (session .installer).sec.life = 3 ∧
      (session .operator).sec.role.any (roleActs (session .operator)) = true ∧
      linked.sec.life ≠ 0 ∧ sessionIs linked .maker = false ∧ linked.sec.role.any (roleActs linked) = false := by
  and_intros
  all_goals first | exact h | decide

theorem wit_JobStopAndAttestationComplete :
    (let s := session .operator
     sessionIs s .operator = true ∧ leased s = true ∧ s.seq.stopped = false ∧ s.commit.limit = false ∧ inBarrier s = false ∧
       s.rsl.phase ≠ .ended ∧ ({ s.seq with stopped := true }).stopped = true ∧ s.sec.role.any (roleActs s) = true) ∧
    leased (unleased .operator) = false ∧ sessionIs linked .operator = false ∧ linked.sec.role.any (roleActs linked) = false ∧
    (let s := { linked with sec := { linked.sec with attesting := some (none, 3) } }
     s.sec.attesting = some (none, 3)) ∧
    linked.link.ports.length = 7 ∧
    (let s := withPort { linked with sec := { linked.sec with attesting := some (some 0, 3) } } 0 fun p => { p with mode := .mgmt }
     s.sec.attesting = some (some (0 : Fin 7), 3) ∧ mapEnabled s.link.topo 0 = true ∧ carriesPackets (portOf s 0).mode = true) ∧
    mapEnabled linked.link.topo 6 = false ∧ carriesPackets (portOf linked 0).mode = false := by decide

/-- A whole frame of a type to an address with a payload. -/
def frame (dest typ len offset : Nat) (payload : List Word) : Frame :=
  withCrc { dest := BitVec.ofNat 16 dest, src := 0, typ := BitVec.ofNat 8 typ, tag := 9, len := BitVec.ofNat 8 len, status := 0,
            offset := BitVec.ofNat 32 offset, payload := payload, crc := 0 }

theorem wit_SessionCommandsComplete (h : Config.ecdsaVerify Config.makerKey (sessionHash linked 3 0) [] = true) :
    chainOpen linked = true ∧ frameOk (frame 5 5 0 0 []) = true ∧ forMe linked (frame 5 5 0 0 []) = true ∧ (frame 5 5 0 0 []).len = 0 ∧
      frameOk (frame 5 5 1 0 [3]) = true ∧ forMe linked (frame 5 5 1 0 [3]) = true ∧ (frame 5 5 1 0 [3]).len ≠ 0 ∧
      linked.sec.lockout = false ∧ ({ linked with sec := { linked.sec with lockout := true } }).sec.lockout = true ∧
      attemptRole linked 3 0 [] = some .maker ∧ attemptRole linked 0 0 [] = none := by
  and_intros
  rotate_right 2
  all_goals first | decide +kernel | rfl | skip
  show (if Config.ecdsaVerify Config.makerKey (sessionHash linked 3 0) [] = true then some Role.maker else none) = some .maker
  rw [if_pos h]

theorem wit_ChainFramesComplete :
    chainOpen linked = true ∧ chainOpen { linked with sec := { linked.sec with bypass := true } } = false ∧
    frameOk (frame 0xFFF 1 1 0 [4093]) = true ∧ (frame 0xFFF 1 1 0 [4093]).typ = 1 ∧ (frame 0xFFF 1 1 0 [4093]).payload = [4093] ∧
    frameOk (frame 0xFFF 1 1 0 [4094]) = true ∧ (frame 0xFFF 1 1 0 [4094]).payload = [4094] ∧
    (let f := frame 5 2 2 0x1000 []
     frameOk f = true ∧ forMe linked f = true ∧ f.typ = 2 ∧ f.len.toNat = 2 ∧ f.offset.toNat % 4 = 0 ∧
       chainReads linked 0x1004 = true ∧ chainReads linked 0x20000 = false ∧ (frame 5 2 2 0x1002 []).offset.toNat % 4 ≠ 0) ∧
    (let f := frame 5 3 1 0x10024 [1]
     frameOk f = true ∧ forMe linked f = true ∧ f.typ = 3 ∧ f.dest ≠ 0xFFF ∧ f.offset.toNat % 4 = 0 ∧ f.payload = [1]) ∧
    forMe linked (frame 6 3 1 0x10024 [1]) = false ∧ frameOk (frame 6 3 1 0x10024 []) = false ∧ 1 ≤ linked.sec.stage := by
  decide +kernel

/-- Misaligned writes, to this device and to all. -/
theorem wit_ChainFramesComplete_misaligned :
    ∀ d ∈ [5, 0xFFF],
      let f := frame d 3 1 0x10026 [1]
      chainOpen linked = true ∧ frameOk f = true ∧ f.typ = 3 ∧ f.offset.toNat % 4 ≠ 0 ∧ (forMe linked f || f.dest == 0xFFF) = true := by
  decide +kernel

theorem wit_ChainFramesComplete_latch (i : Nat) (h : i < 2) :
    chainReads linked (0x1000 + 4 * i) = true ∧ latchRead linked (0x1000 + 4 * i) = linked := by
  refine ⟨?_, ?_⟩
  · simp [chainReads]; omega
  · unfold latchRead
    rw [if_neg (by omega), if_neg (by omega), if_neg (by omega)]

theorem wit_RegisterAccessesComplete :
    1 ≤ linked.sec.stage ∧ powerRight (session .installer) = true ∧ powerRight linked = false ∧ updateRight (session .maker) = true ∧
      (session .maker).sec.role.any (roleActs (session .maker)) = true ∧ sessionIs (session .installer) .installer = true ∧
      flag (128 : Word) 7 = true ∧
    fld (0x553E8 : Word) 11 0 = 1000 ∧ fld (0x553E8 : Word) 18 12 = 85 ∧ fld (0x64A28 : Word) 11 0 = 2600 ∧
    fld (0x64A28 : Word) 18 12 = 100 ∧
    readerReads (session .operator) .chain 0x30300 = true ∧ readerReads (session .operator) .chain 0x21000 = true ∧
    readerReads (session .operator) .chain (0x20004 + 16 * 31) = true ∧
    (let s := { linked with
       sec := { linked.sec with suppressed := [(0x41, 3)], second := 1 } }
     s.sec.suppressed ≠ [] ∧ s.sec.second ≠ epochSecond s ∧ s.sec.head.toNat + s.sec.suppressed.length < auditCapacity) := by
  decide +kernel

theorem wit_PowerCommandsComplete :
    (∀ st ∈ [(2 : BitVec 3), 3, 4],
      let s := { unleased .installer with pwr := { linked.pwr with state := st, intlk := true } }
      powerRight s = true ∧ leased s = false ∧ s.pwr.busy = false ∧ s.pwr.state = st ∧ s.pwr.intlk = true ∧ s.sec.stage = 8 ∧
        s.link.waiting = none ∧ s.pwr.waking = [] ∧ auditRoom (newSecond s) 4 = true ∧
        auditRoom (newSecond { s with sec := { s.sec with written := 61 } }) 4 = false) ∧
    powerRight (session .maker) = true ∧ leased (session .maker) = true ∧ powerRight (session .operator) = false := by decide

theorem wit_WakeEventsComplete :
    (∀ st ∈ [(3 : BitVec 3), 4],
      let s := { linked with pwr := { linked.pwr with state := st, intlk := true } }
      s.pwr.intlk = true ∧ s.sec.stage = 8 ∧ s.pwr.busy = false ∧ s.pwr.state = st) ∧
    (let s := { linked with pwr := { linked.pwr with busy := true, goal := 4 } }
     lowering s = true ∧ s.pwr.goal = 4) ∧
    (let s := { linked with pwr := { linked.pwr with state := 2, retidle := 1 }, eth := Eth.reset }
     s.pwr.state = 2 ∧ s.pwr.busy = false ∧ s.eth.phase = .none ∧ s.pwr.retidle ≠ 0) ∧
    (∀ d ∈ [(19 : Fin 40), 31], ∀ k ∈ [WakeStep.memory, .logic],
      let s := { linked with pwr := { linked.pwr with waking := [(d.val, k)] } }
      (d.val, k) ∈ wakingNow s.pwr.waking ∧ s.pwr.positions.length = 20) ∧
    (stateDomains linked 0).getLsbD 31 = true ∧ (stateDomains linked 4).getLsbD 31 = false ∧
    ({ linked with pwr := { linked.pwr with mgmtOnly := true } }).pwr.mgmtOnly = true := by decide

theorem wit_PaceAndThermalChecksComplete :
    (∀ n ∈ [(1 : BitVec 5), 16],
      let s := { linked with pwr := { linked.pwr with pace := n, pmax := 16, plimit := 2600, tthrot := 95 } }
      1 ≤ s.pwr.pace.toNat ∧ s.pwr.pace.toNat ≤ 16 ∧ 100 ≤ s.pwr.sinceHalf ∧ s.pwr.excursion + 1 < 8000 ∧
        s.pwr.pace.toNat ≤ pmaxNow s ∧ anythingOn s = true ∧ s.pwr.tripped = false ∧ ¬ 1 * s.pwr.plimit.toNat < s.pwr.sum ∧
        ¬ (s.pwr.tthrot.toNat ≤ s.pwr.tj.toNat ∨ 90 ≤ s.pwr.tstack.toNat) ∧ paceShared s false = none ∧ paceShared s true = none ∧
        hottestLogic s [104, 105] = 105 ∧ hottestStack s [] [100, 99] = 100 ∧ hottestLogic s [104] = 104 ∧
        (let u := { s with pwr := { s.pwr with paceLast := some (epochMicro s, true, 16) } }
         paceShared u false = some 16) ∧
        (let u := { s with pwr := { s.pwr with paceLast := some (epochMicro s, false, 16) } }
         paceShared u true = some 16)) ∧
    (let s := { linked with pwr := { linked.pwr with pace := 1, pmax := 16, plimit := 2600, tthrot := 95 } }
     s.pwr.sum + 1 * 100 ≤ 1 * s.pwr.plimit.toNat ∧ s.pwr.tj.toNat + 2 < s.pwr.tthrot.toNat ∧ s.pwr.tstack.toNat < 88 ∧
       s.pwr.pace.toNat < pmaxNow s) ∧
    (let s := { linked with pwr := { linked.pwr with pace := 16, sum := 2601, samples := 1, plimit := 2600, tthrot := 95, tj := 95 } }
     1 * s.pwr.plimit.toNat < s.pwr.sum ∧ s.pwr.tthrot.toNat ≤ s.pwr.tj.toNat) := by decide

theorem wit_SupplyLossesComplete :
    linked.pwr.domains &&& railDomains .nand ≠ 0 ∧ State.reset.pwr.domains &&& railDomains .nand = 0 := by decide

theorem wit_SelfTestCommandsComplete :
    sessionIs (session .maker) .maker = true ∧ sessionIs linked .maker = false ∧
      ({ linked with mon := { Mon.reset with running := true } }).mon.running = true ∧ linked.mon.running = false ∧
      (let failed : List (Nat × Nat × Nat) := [(2, 7, 0), (2, 7, 1), (2, 9, 0)]
       failed.length < 512 ∧ (∀ x ∈ failed.take 512, x.1 ≠ 1) ∧ (failed.take 512).find? (·.1 == 2) = some (2, 7, 0)) ∧
      (let failed : List (Nat × Nat × Nat) := List.replicate 513 (3, 7, 0)
       ¬ failed.length < 512 ∧ (failed.getD 511 (10, 0, 0)).1 < 4) := by decide +kernel

/-- R467: a unit that fails at two margins counts once; a run that stops at 512 entries reaches no later test. -/
theorem test_full_results :
    fullResults [(2, 7, 0), (2, 7, 1), (2, 9, 0)] = [1, 2 + 4 * 7 + 4096 * 2, 1, 1, 1, 1, 1, 1, 1, 1] ∧
      (fullResults (List.replicate 513 (3, 7, 0))).drop 2 = [2 + 4 * 7 + 4096, 0, 0, 0, 0, 0, 0, 0] := by decide +kernel

end Sys2Proof.Tests
end

/-! PROOFS. The frame of a state: what may change in one part, in turn, and what a saturating counter holds. -/

namespace Sys2Proof.Machine

/-! ### Frames that compose -/

/-- Two changes in a row stay within the parts that both stay within. -/
theorem onlyParts.trans {ps : List Part} {s t u : State} (hst : onlyParts ps s t) (htu : onlyParts ps t u) :
    onlyParts ps s u := by
  intro p hp
  have h1 := hst p hp
  have h2 := htu p hp
  cases p <;> exact Eq.trans h2 h1

theorem onlyParts.mono {ps qs : List Part} {s t : State} (h : onlyParts ps s t) (hs : ps ⊆ qs) : onlyParts qs s t :=
  fun p hp => h p fun hps => hp (hs hps)

theorem onlyParts_sec (s : State) (x : Sec) : onlyParts [.sec] s { s with sec := x } := by
  intro p hp
  cases p <;> simp_all [samePart]

theorem onlyParts_outbox (s : State) (x : List OutMsg) : onlyParts [.outbox] s { s with outbox := x } := by
  intro p hp
  cases p <;> simp_all [samePart]

theorem onlyParts_eth (s : State) (x : Eth) : onlyParts [.eth] s { s with eth := x } := by
  intro p hp
  cases p <;> simp_all [samePart]

theorem onlyParts_time (s : State) (x : Time) : onlyParts [.time] s { s with time := x } := by
  intro p hp
  cases p <;> simp_all [samePart]

theorem onlyParts_mon (s : State) (x : Mon) : onlyParts [.mon] s { s with mon := x } := by
  intro p hp
  cases p <;> simp_all [samePart]

theorem onlyParts_pwr (s : State) (x : Pwr) : onlyParts [.pwr] s { s with pwr := x } := by
  intro p hp
  cases p <;> simp_all [samePart]

/-- A message sent after a change within some parts: the outbox changes besides. -/
theorem onlyParts.send {ps : List Part} {s t : State} (h : onlyParts ps s t) (ms : List OutMsg) (ho : .outbox ∈ ps) :
    onlyParts ps s (send t ms) :=
  h.trans ((onlyParts_outbox t _).mono (by simpa using ho))

/-! ### Saturating counters -/

theorem satAdd_lt (n a b : Nat) : satAdd n a b < 2 ^ n := by
  have := Nat.two_pow_pos n
  unfold satAdd
  omega

/-- A counter that saturates at its field's largest value fits its field. -/
theorem toNat_ofNat_satAdd (n a b : Nat) : (BitVec.ofNat n (satAdd n a b)).toNat = satAdd n a b :=
  Nat.mod_eq_of_lt (satAdd_lt n a b)

end Sys2Proof.Machine


/-! PROOFS. The Harebell chain (R426 to R430): each frame's outcome, one lemma per case. -/

namespace Sys2Proof.Machine

/-! ### Frames and answers -/

/-- From s to t one RESPONSE to the head has gone out for a frame (R427). -/
def Answered (s : State) (f : Frame) (t : State) (status : Byte) (words : List Word) : Prop :=
  ∃ g : Frame, t.outbox = s.outbox ++ [.chain g] ∧ g.status = status ∧ g.typ = 4 ∧ g.dest = 0 ∧
    g.src = s.sec.addr.setWidth 16 ∧ g.tag = f.tag ∧ g.payload = words ∧ g.crc = crc32 (frameBytes g)

/-- A response given in a state with the same outbox and chain address answers the frame. -/
theorem respond_answered {s t : State} (f : Frame) (status : Nat) (words : List Word) (ho : t.outbox = s.outbox)
    (ha : t.sec.addr = s.sec.addr) : Answered s f (respond t f status words) (BitVec.ofNat 8 status) words :=
  ⟨_, congrArg (· ++ _) ho, rfl, rfl, rfl, congrArg (BitVec.setWidth 16) ha, rfl, rfl, rfl⟩

/-- The chain reaches a device only out of reset. -/
theorem stage_ne_zero_of_chainOpen {s : State} (h : chainOpen s = true) : s.sec.stage ≠ 0 := by
  simp only [chainOpen, Bool.and_eq_true, decide_eq_true_eq] at h
  omega

/-- Other words of the same number, under a new CRC, keep a frame well formed (R426). -/
theorem frameOk_withCrc_payload {f : Frame} (hf : frameOk f = true) (ws : List Word)
    (hl : ws.length = f.payload.length) : frameOk (withCrc { f with payload := ws }) = true := by
  simp_all [frameOk, withCrc, frameBytes]

/-- A command that passes its frame on changes nothing but the outbox. -/
theorem does_forward {c : Instr} {s : State} {f : Frame} (h : exec c s = .next (forwardFrame s f)) :
    Does c s [.outbox] fun t => t.outbox = s.outbox ++ [.chain f] :=
  ⟨_, h, onlyParts_outbox s _, rfl⟩

/-- A command that drops its frame only counts it (R426). -/
theorem does_drop {c : Instr} {s : State} (h : exec c s = .next (dropFrame s)) :
    Does c s [.sec] fun t => t.sec = { s.sec with crcErr := t.sec.crcErr } ∧
      t.sec.crcErr.toNat = satAdd 16 s.sec.crcErr.toNat 1 :=
  ⟨_, h, onlyParts_sec s _, rfl, toNat_ofNat_satAdd _ _ _⟩

/-! ### ENUM (R428) -/

/-- The address given is one above the count, which goes on raised by one. -/
theorem does_enum_of_lt {s : State} {f : Frame} {n : Word} (ho : chainOpen s = true) (hf : frameOk f = true)
    (ht : f.typ = 1) (hp : f.payload = [n]) (hn : n.toNat < 4094) :
    Does (.enum f) s [.sec, .outbox] fun t => t.sec = { s.sec with addr := t.sec.addr } ∧
      t.sec.addr.toNat = n.toNat + 1 ∧
      ∃ g : Frame, t.outbox = s.outbox ++ [.chain g] ∧ g.payload = [n + 1] ∧ g.dest = f.dest ∧ frameOk g = true := by
  have hx : exec (.enum f) s = .next (send { s with sec := { s.sec with addr := BitVec.ofNat 12 (n.toNat + 1) } }
      [.chain (withCrc { f with payload := [BitVec.ofNat 32 (n.toNat + 1)] })]) := by
    simp [exec, execEnum, ho, hf, ht, hp, hn]
  refine ⟨_, hx, ((onlyParts_sec s _).mono (by simp)).send _ (by simp), rfl, ?_, _, rfl, ?_, rfl, ?_⟩
  · simp only [send, BitVec.toNat_ofNat]
    omega
  · simp [withCrc, BitVec.ofNat_add]
  · exact frameOk_withCrc_payload hf _ (by simp [hp])

/-- A count that has no address left goes on as it came, and leaves the device without one. -/
theorem does_enum_of_ge {s : State} {f : Frame} {n : Word} (ho : chainOpen s = true) (hf : frameOk f = true)
    (ht : f.typ = 1) (hp : f.payload = [n]) (hn : 4094 ≤ n.toNat) :
    Does (.enum f) s [.sec, .outbox] fun t =>
      t.sec = { s.sec with addr := 0, overflow := true } ∧ t.outbox = s.outbox ++ [.chain f] := by
  have hx : exec (.enum f) s =
      .next (send { s with sec := { s.sec with addr := 0, overflow := true } } [.chain f]) := by
    simp [exec, execEnum, ho, hf, ht, hp, Nat.not_lt.mpr hn]
  exact ⟨_, hx, ((onlyParts_sec s _).mono (by simp)).send _ (by simp), rfl, rfl⟩

/-! ### READ (R415, R416, R427) -/

/-- A read whose words are all served, and latch nothing, gives each word of the window. -/
theorem chainReadWords_of_served (s : State) (n off : Nat)
    (h : ∀ i, i < n → chainReads s (off + 4 * i) = true ∧ latchRead s (off + 4 * i) = s) :
    chainReadWords s off n = (s, (List.range n).map fun i => windowWord s (off + 4 * i), false) := by
  induction n generalizing off with
  | zero => rfl
  | succ n ih =>
    obtain ⟨hr, hl⟩ := h 0 n.succ_pos
    have hrest := ih (off + 4) fun i hi => by
      simpa [Nat.mul_add, Nat.add_assoc, Nat.add_comm 4] using h (i + 1) (Nat.succ_lt_succ hi)
    simp only [Nat.mul_zero, Nat.add_zero] at hr hl
    simp [chainReadWords, hr, hl, hrest, List.range_succ_eq_map, Function.comp_def, Nat.mul_add, Nat.add_assoc,
      Nat.add_comm 4]

/-- A read of which no word is served gives zeros, and is denied unless it is empty. -/
theorem chainReadWords_of_denied (s : State) (n off : Nat) (h : ∀ i, i < n → chainReads s (off + 4 * i) = false) :
    chainReadWords s off n = (s, List.replicate n 0, decide (n ≠ 0)) := by
  induction n generalizing off with
  | zero => rfl
  | succ n ih =>
    have hr := h 0 n.succ_pos
    have hrest := ih (off + 4) fun i hi => by
      simpa [Nat.mul_add, Nat.add_assoc, Nat.add_comm 4] using h (i + 1) (Nat.succ_lt_succ hi)
    simp only [Nat.mul_zero, Nat.add_zero] at hr
    simp [chainReadWords, hr, hrest, List.replicate_succ]

/-- An aligned READ for this device is answered with its words, and a denial counted where one is missing. -/
theorem exec_read_aligned {s : State} {f : Frame} (ho : chainOpen s = true) (hf : frameOk f = true)
    (hm : forMe s f = true) (ht : f.typ = 2) (ha : f.offset.toNat % 4 = 0) {t : State} {ws : List Word} {d : Bool}
    (hw : chainReadWords s f.offset.toNat f.len.toNat = (t, ws, d)) :
    exec (.read f) s = .next (respond (if d then countDenied t else t) f (if d then 2 else 0) ws) := by
  simp [exec, execRead, ho, hf, hm, ht, ha, hw]

theorem does_read_served {s : State} {f : Frame} (ho : chainOpen s = true) (hf : frameOk f = true)
    (hm : forMe s f = true) (ht : f.typ = 2) (ha : f.offset.toNat % 4 = 0)
    (h : ∀ i, i < f.len.toNat →
      chainReads s (f.offset.toNat + 4 * i) = true ∧ latchRead s (f.offset.toNat + 4 * i) = s) :
    Does (.read f) s [.outbox] fun t =>
      Answered s f t 0 ((List.range f.len.toNat).map fun i => windowWord s (f.offset.toNat + 4 * i)) :=
  ⟨_, exec_read_aligned ho hf hm ht ha (chainReadWords_of_served s _ _ h), onlyParts_outbox s _,
    respond_answered f 0 _ rfl rfl⟩

theorem does_read_denied {s : State} {f : Frame} (ho : chainOpen s = true) (hf : frameOk f = true)
    (hm : forMe s f = true) (ht : f.typ = 2) (ha : f.offset.toNat % 4 = 0) (hl : f.len ≠ 0)
    (h : ∀ i, i < f.len.toNat → chainReads s (f.offset.toNat + 4 * i) = false) :
    Does (.read f) s [.sec, .outbox] fun t => t.sec.denied.toNat = satAdd 8 s.sec.denied.toNat 1 ∧
      Answered s f t 2 (List.replicate f.len.toNat 0) := by
  have hn : f.len.toNat ≠ 0 := fun h0 => hl (BitVec.eq_of_toNat_eq h0)
  have hx := exec_read_aligned ho hf hm ht ha (chainReadWords_of_denied s _ _ h)
  rw [decide_eq_true hn] at hx
  exact ⟨_, hx, ((onlyParts_sec s _).mono (by simp)).send _ (by simp), toNat_ofNat_satAdd _ _ _,
    respond_answered f 2 _ rfl rfl⟩

/-- A misaligned READ is counted and answered with zeros (R9). -/
theorem does_read_misaligned {s : State} {f : Frame} (ho : chainOpen s = true) (hf : frameOk f = true)
    (hm : forMe s f = true) (ht : f.typ = 2) (ha : f.offset.toNat % 4 ≠ 0) :
    Does (.read f) s [.sec, .outbox] fun t => t.sec.align.toNat = satAdd 8 s.sec.align.toNat 1 ∧
      Answered s f t 3 (List.replicate f.len.toNat 0) := by
  have hx : exec (.read f) s = .next (respond (countAlign s) f 3 (List.replicate f.len.toNat 0)) := by
    simp [exec, execRead, ho, hf, hm, ht, ha]
  exact ⟨_, hx, ((onlyParts_sec s _).mono (by simp)).send _ (by simp), toNat_ofNat_satAdd _ _ _,
    respond_answered f 3 _ rfl rfl⟩

/-! ### WRITE (R427, R429) -/

/-- Out of reset an aligned register write is the write of its word (R10). -/
theorem exec_registerWrite_aligned {s : State} {off : Nat} (hs : s.sec.stage ≠ 0) (ha : off % 4 = 0) (v : Word) :
    exec (.registerWrite off v) s = .next (writeWord s off v).1 := by
  simp [exec, execRegisterWrite, hs, ha]

/-- A good WRITE that is no broadcast: passed on, refused as misaligned, or applied and answered. -/
theorem exec_write_unicast {s : State} {f : Frame} (ho : chainOpen s = true) (hf : frameOk f = true) (ht : f.typ = 3)
    (hb : f.dest ≠ 0xFFF) :
    exec (.write f) s =
      if !forMe s f then .next (forwardFrame s f)
      else if f.offset.toNat % 4 ≠ 0 then .next (respond (countAlign s) f 3 [])
      else
        let r := chainWriteWords s f.offset.toNat f.payload
        .next (respond r.1 f (if r.2 then 2 else 0) []) := by
  simp only [exec, execWrite, ho, hf, ht, if_neg hb, Bool.not_true, Bool.false_eq_true, ne_eq, not_true_eq_false,
    or_self, if_false]

/-- A WRITE of one word does what the register write does, and answers. -/
theorem exec_write_one {s : State} {f : Frame} {v : Word} (ho : chainOpen s = true) (hf : frameOk f = true)
    (hm : forMe s f = true) (ht : f.typ = 3) (hb : f.dest ≠ 0xFFF) (ha : f.offset.toNat % 4 = 0)
    (hp : f.payload = [v]) :
    ∃ u t, exec (.registerWrite f.offset.toNat v) s = .next u ∧ exec (.write f) s = .next t ∧
      onlyParts [.outbox] u t ∧ ∃ g : Frame, t.outbox = u.outbox ++ [.chain g] ∧ g.typ = 4 ∧ g.dest = 0 ∧
        g.tag = f.tag ∧ g.payload = [] := by
  have hx : exec (.write f) s = .next (respond (writeWord s f.offset.toNat v).1 f
      (if (writeWord s f.offset.toNat v).2 then 2 else 0) []) := by
    simp [exec_write_unicast ho hf ht hb, hm, ha, hp, chainWriteWords]
  exact ⟨_, _, exec_registerWrite_aligned (stage_ne_zero_of_chainOpen ho) ha v, hx, onlyParts_outbox _ _, _, rfl, rfl,
    rfl, rfl, rfl⟩

/-- A misaligned WRITE is counted and answered, and changes nothing else (R9). -/
theorem does_write_misaligned {s : State} {f : Frame} (ho : chainOpen s = true) (hf : frameOk f = true)
    (hm : forMe s f = true) (ht : f.typ = 3) (hb : f.dest ≠ 0xFFF) (ha : f.offset.toNat % 4 ≠ 0) :
    Does (.write f) s [.sec, .outbox] fun t => t.sec.align.toNat = satAdd 8 s.sec.align.toNat 1 ∧
      Answered s f t 3 [] := by
  have hx : exec (.write f) s = .next (respond (countAlign s) f 3 []) := by
    simp [exec_write_unicast ho hf ht hb, hm, ha]
  exact ⟨_, hx, ((onlyParts_sec s _).mono (by simp)).send _ (by simp), toNat_ofNat_satAdd _ _ _,
    respond_answered f 3 _ rfl rfl⟩

/-- A misaligned broadcast is counted and passed on. -/
theorem does_broadcast_misaligned {s : State} {f : Frame} (ho : chainOpen s = true) (hf : frameOk f = true)
    (ht : f.typ = 3) (hb : f.dest = 0xFFF) (ha : f.offset.toNat % 4 ≠ 0) :
    Does (.write f) s [.sec, .outbox] fun t => t.sec.align.toNat = satAdd 8 s.sec.align.toNat 1 ∧
      t.outbox = s.outbox ++ [.chain f] := by
  have hx : exec (.write f) s = .next (forwardFrame (countAlign s) f) := by
    simp [exec, execWrite, ho, hf, ht, hb, ha, broadcastWrite]
  exact ⟨_, hx, ((onlyParts_sec s _).mono (by simp)).send _ (by simp), toNat_ofNat_satAdd _ _ _, rfl⟩

/-! ### Frames for others, bad frames, the bypass (R426, R427, R430) -/

/-- A good frame for another address passes on, whichever command takes it. -/
theorem exec_foreign {s : State} {f : Frame} (ho : chainOpen s = true) (hf : frameOk f = true) (hm : forMe s f = false)
    {c : Instr} (hc : c = .chainForward f ∨ (c = .read f ∧ f.typ = 2) ∨ (c = .write f ∧ f.typ = 3 ∧ f.dest ≠ 0xFFF)) :
    exec c s = .next (forwardFrame s f) := by
  rcases hc with rfl | ⟨rfl, ht⟩ | ⟨rfl, ht, hb⟩
  · simp [exec, execChainForward, ho, hf, hm]
  · simp [exec, execRead, ho, hf, hm, ht]
  · simp [exec_write_unicast ho hf ht hb, hm]

/-- While the bypass is closed, or before the repeater is ready, every frame passes on. -/
theorem exec_bypassed {s : State} {f : Frame} (ho : chainOpen s = false) {c : Instr}
    (hc : c = .enum f ∨ c = .read f ∨ c = .write f ∨ c = .chainForward f ∨ ∃ r k b, c = .session f r k b) :
    exec c s = .next (forwardFrame s f) := by
  rcases hc with rfl | rfl | rfl | rfl | ⟨r, k, b, rfl⟩
  · simp [exec, execEnum, ho]
  · simp [exec, execRead, ho]
  · simp [exec, execWrite, ho]
  · simp [exec, execChainForward, ho]
  · simp [exec, execSession, ho]

/-- A bad frame is dropped, whichever command takes it. -/
theorem exec_bad_frame {s : State} {f : Frame} (ho : chainOpen s = true) (hf : frameOk f = false) {c : Instr}
    (hc : c = .enum f ∨ c = .read f ∨ c = .write f ∨ c = .chainForward f) : exec c s = .next (dropFrame s) := by
  rcases hc with rfl | rfl | rfl | rfl
  · simp [exec, execEnum, ho, hf]
  · simp [exec, execRead, ho, hf]
  · simp [exec, execWrite, ho, hf]
  · simp [exec, execChainForward, ho, hf]

theorem does_bypass_close (s : State) :
    Does (.chainBypass true) s [.sec] fun t => t.sec = { s.sec with bypass := true, addr := 0 } :=
  ⟨_, rfl, onlyParts_sec s _, rfl⟩

theorem does_bypass_open {s : State} (h : 1 ≤ s.sec.stage) :
    Does (.chainBypass false) s [.sec] fun t => t.sec = { s.sec with bypass := false } :=
  ⟨_, by simp only [exec, execChainBypass, h, if_true, Bool.false_eq_true, if_false], onlyParts_sec s _, rfl⟩

/-- Settles O54: each kind of frame, for this device, for another, bad, or past a closed bypass, by its own lemma. -/
theorem chainFramesComplete : Obligations.ChainFramesComplete := by
  intro f s answered
  refine ⟨fun ho hf => ⟨fun n ht hp => ⟨does_enum_of_lt ho hf ht hp, does_enum_of_ge ho hf ht hp⟩, fun hm => ?_,
    does_broadcast_misaligned ho hf, fun c hc hm => does_forward (exec_foreign ho hf hm hc)⟩,
    fun ho c hc => does_forward (exec_bypassed ho hc), fun ho hf c hc => does_drop (exec_bad_frame ho hf hc),
    does_bypass_close s, does_bypass_open⟩
  exact ⟨fun ht ha => ⟨does_read_served ho hf hm ht ha, does_read_denied ho hf hm ht ha⟩,
    does_read_misaligned ho hf hm, fun v ht hb ha hp => exec_write_one ho hf hm ht hb ha hp,
    does_write_misaligned ho hf hm⟩

end Sys2Proof.Machine

/-! PROOFS. The audit log as it is written (R421, R424): what the writing keeps, and entries without a WRAP. -/

namespace Sys2Proof.Machine

/-! ### What logging keeps -/

/-- The Harebell island's registers without those that the writing of the audit log moves. -/
def unlogged (x : Sec) : Sec :=
  { x with audit := [], head := 0, sealed := false, written := 0, second := 0, suppressed := [] }

@[simp] theorem unlogged_auditPut (s : State) (e : AuditEntry) : unlogged (auditPut s e).sec = unlogged s.sec := rfl

@[simp] theorem unlogged_auditWrite (s : State) (e : AuditEntry) : unlogged (auditWrite s e).sec = unlogged s.sec := by
  unfold auditWrite auditWrap
  split <;> rfl

@[simp] theorem unlogged_newSecond (s : State) : unlogged (newSecond s).sec = unlogged s.sec := by
  unfold newSecond
  split
  · rfl
  · exact foldl_keep (p := fun t : State => unlogged t.sec) (fun _ _ => unlogged_auditWrite _ _) _ _

@[simp] theorem unlogged_audit (s : State) (event : Nat) (role : Role) (path : Path) (d1 d2 : Nat) :
    unlogged (audit s event role path d1 d2).sec = unlogged s.sec := by
  unfold audit
  dsimp only
  split
  · exact (unlogged_auditWrite _ _).trans (unlogged_newSecond s)
  · exact unlogged_newSecond s

/-- A denied write is counted; the log apart nothing else of the island changes. -/
theorem unlogged_denyWrite (s : State) (off v : Nat) :
    unlogged (denyWrite s off v).sec = unlogged (countDenied s).sec := unlogged_audit ..

theorem auditWrite_suppressed (s : State) (e : AuditEntry) :
    (auditWrite s e).sec.suppressed = s.sec.suppressed := by
  unfold auditWrite auditWrap
  split <;> rfl

theorem auditWrite_second (s : State) (e : AuditEntry) : (auditWrite s e).sec.second = s.sec.second := by
  unfold auditWrite auditWrap
  split <;> rfl

/-! ### Entries before the log is full -/

/-- Before the log is full an entry needs no WRAP. -/
theorem auditWrite_of_lt {s : State} (h : s.sec.head.toNat < auditCapacity) (e : AuditEntry) :
    auditWrite s e = auditPut s e := by
  simp [auditWrite, auditWrap, wrapDue, Nat.not_le.mpr h]

/-- An entry counts the head, which is far from its field's end. -/
theorem auditPut_head {s : State} (h : s.sec.head.toNat < auditCapacity) (e : AuditEntry) :
    (auditPut s e).sec.head.toNat = s.sec.head.toNat + 1 := by
  have hput : (auditPut s e).sec.head = s.sec.head + 1 := rfl
  unfold auditCapacity at h
  rw [hput]
  bv_omega

/-- The log holds an entry with the event and the details of e. -/
def Logged (log : List AuditEntry) (e : AuditEntry) : Prop :=
  ∃ x ∈ log, x.event = e.event ∧ x.detail1 = e.detail1 ∧ x.detail2 = e.detail2

theorem logged_auditPut (s : State) (e : AuditEntry) : Logged (auditPut s e).sec.audit e :=
  ⟨_, List.mem_append_right _ (List.mem_singleton_self _), rfl, rfl, rfl⟩

theorem auditPut_audit_subset (s : State) (e : AuditEntry) : s.sec.audit ⊆ (auditPut s e).sec.audit :=
  List.subset_append_left _ _

/-- Entries that fit before the log is full: each is counted and stands in the log, and none there before is lost. -/
theorem foldl_auditWrite_log (es : List AuditEntry) (s : State) (h : s.sec.head.toNat + es.length ≤ auditCapacity) :
    (es.foldl auditWrite s).sec.head.toNat = s.sec.head.toNat + es.length ∧
      s.sec.audit ⊆ (es.foldl auditWrite s).sec.audit ∧
      ∀ e ∈ es, Logged (es.foldl auditWrite s).sec.audit e := by
  induction es generalizing s with
  | nil => exact ⟨rfl, List.Subset.refl _, fun e he => absurd he List.not_mem_nil⟩
  | cons e es ih =>
    rw [List.length_cons] at h ⊢
    have hlt : s.sec.head.toNat < auditCapacity := by omega
    have hhead := auditPut_head hlt e
    obtain ⟨hcount, hkept, hin⟩ := ih (auditPut s e) (by omega)
    rw [List.foldl_cons, auditWrite_of_lt hlt]
    refine ⟨by omega, List.Subset.trans (auditPut_audit_subset s e) hkept, fun x hx => ?_⟩
    rcases List.mem_cons.mp hx with rfl | hx
    · obtain ⟨y, hy, heq⟩ := logged_auditPut s x
      exact ⟨y, hkept hy, heq⟩
    · exact hin x hx

/-- The entry that a count of suppressed events becomes (R424). -/
def suppressedEntry (x : BitVec 16 × DWord) : AuditEntry := auditNew 4 .device .internal x.1.toNat x.2.toNat

theorem flushSuppressed_eq (s : State) :
    flushSuppressed s =
      (s.sec.suppressed.map suppressedEntry).foldl auditWrite { s with sec := { s.sec with suppressed := [] } } := by
  rw [List.foldl_map]
  rfl

/-- The flush of suppressed events changes the Harebell island alone. -/
theorem onlyParts_newSecond (s : State) : onlyParts [.sec] s (newSecond s) := by
  intro p hp
  cases p <;> simp_all [samePart]

/-- In a second without an entry each code suppressed before it gets one entry, with its count (R424). -/
theorem does_suppressedFlush {s : State} (hs : s.sec.second ≠ epochSecond s)
    (hr : s.sec.head.toNat + s.sec.suppressed.length < auditCapacity) :
    Does .auditSuppressedFlush s [.sec] fun t => t.sec.suppressed = [] ∧ t.sec.second = epochSecond s ∧
      t.sec.head.toNat = s.sec.head.toNat + s.sec.suppressed.length ∧
      ∀ x ∈ s.sec.suppressed, ∃ e ∈ t.sec.audit, e.event = 4 ∧ e.detail1.toNat = x.1.toNat ∧ e.detail2 = x.2 := by
  refine ⟨newSecond s, rfl, onlyParts_newSecond s, ?_⟩
  obtain ⟨hhead, -, hin⟩ := foldl_auditWrite_log (s.sec.suppressed.map suppressedEntry)
    { s with sec := { s.sec with second := epochSecond s, written := 0, suppressed := [] } } (by simpa only [List.length_map] using Nat.le_of_lt hr)
  rw [newSecond, if_neg hs, flushSuppressed_eq]
  refine ⟨foldl_keep (p := fun t : State => t.sec.suppressed) auditWrite_suppressed _ _,
    foldl_keep (p := fun t : State => t.sec.second) auditWrite_second _ _, hhead.trans (by simp), fun x hx => ?_⟩
  obtain ⟨e, he, hev, h1, h2⟩ := hin _ (List.mem_map_of_mem hx)
  refine ⟨e, he, hev, ?_, ?_⟩
  · have := x.1.isLt
    simp only [h1, suppressedEntry, auditNew, BitVec.toNat_ofNat]
    omega
  · simp [h2, suppressedEntry, auditNew]

end Sys2Proof.Machine

/-! PROOFS. Accesses to the management window (R8 to R13, R413, R416): writes by register, and the reads that latch. -/

namespace Sys2Proof.Machine

/-! ### Writes of commands -/

/-- A guarded write answers with its effect, or with its denial. -/
theorem next_guarded (s : State) (right : Bool) (off : Nat) (v : Word) (t : State) :
    (.next (guarded s right off v t).1 : Out) = if right then .next t else .next (denyWrite s off v.toNat) := by
  cases right <;> rfl

/-- A register write whose word is guarded answers with its effect, or with its denial. -/
theorem registerWrite_guarded {s t : State} {off : Nat} {v : Word} {right : Bool} (hs : s.sec.stage ≠ 0)
    (ha : off % 4 = 0) (hw : writeWord s off v = guarded s right off v t) :
    exec (.registerWrite off v) s = if right then .next t else .next (denyWrite s off v.toNat) := by
  rw [exec_registerWrite_aligned hs ha, hw, next_guarded]

section
variable {s : State} (hs : s.sec.stage ≠ 0)
include hs

theorem registerWrite_retain : exec (.registerWrite 0x10004 1) s = exec .retain s :=
  registerWrite_guarded hs rfl rfl

theorem registerWrite_wake : exec (.registerWrite 0x10004 4) s = exec .wake s :=
  registerWrite_guarded hs rfl rfl

theorem registerWrite_personalise : exec (.registerWrite 0x70000 0x10000) s = exec .personalise s := by
  refine (registerWrite_guarded hs rfl rfl).trans ?_
  simp [exec, execPersonalise]

theorem registerWrite_seal : exec (.registerWrite 0x70000 0x20000) s = exec .seal s :=
  registerWrite_guarded hs rfl rfl

theorem registerWrite_returnLife : exec (.registerWrite 0x70000 0x30000) s = exec .returnLife s := by
  refine (registerWrite_guarded hs rfl rfl).trans ?_
  simp [exec, execReturnLife]

theorem registerWrite_close : exec (.registerWrite 0x70004 0x100) s = exec .close s :=
  registerWrite_guarded hs rfl rfl

theorem registerWrite_stopGraceful : exec (.registerWrite 0x70008 1) s = exec .jobStopGraceful s :=
  registerWrite_guarded hs rfl rfl

theorem registerWrite_stopImmediate : exec (.registerWrite 0x70008 3) s = exec .jobStopImmediate s :=
  registerWrite_guarded hs rfl rfl

theorem registerWrite_commit : exec (.registerWrite 0x7000C 2) s = exec .commitRecord s :=
  registerWrite_guarded hs rfl rfl

theorem registerWrite_reboot : exec (.registerWrite 0x7000C 3) s = exec .reboot s :=
  registerWrite_guarded hs rfl rfl

theorem registerWrite_attest : exec (.registerWrite 0x70010 1) s = exec .attestGo s :=
  registerWrite_guarded hs rfl rfl

theorem registerWrite_fence (v : Word) : exec (.registerWrite 0x10250 v) s = exec (.coreFence v) s :=
  registerWrite_guarded hs rfl rfl

/-- BIST_CMD is not guarded as the others are: a refused FULL shows in RESULT too (R467). -/
theorem registerWrite_full : exec (.registerWrite 0x80008 1) s = exec .full s := by
  rw [exec_registerWrite_aligned hs rfl]
  cases h : sessionIs s .maker <;> simp [exec, execFull, writeWord, writeBist, h, fld]

theorem registerWrite_invalidate : exec (.registerWrite 0x80008 2) s = exec .invalidate s := by
  rw [exec_registerWrite_aligned hs rfl]
  cases h : sessionIs s .maker <;> simp [exec, execInvalidate, writeWord, writeBist, h, fld]

/-- SEC_UPDATE with PROGRAM's code and a chunk number in its field [21:8]. -/
theorem registerWrite_program (n : BitVec 14) :
    exec (.registerWrite 0x7000C (BitVec.ofNat 32 (1 + 256 * n.toNat))) s = exec (.program n) s := by
  have hn := n.isLt
  have hv : (BitVec.ofNat 32 (1 + 256 * n.toNat)).toNat = 1 + 256 * n.toNat := by
    rw [BitVec.toNat_ofNat]
    omega
  have hcode : fld (BitVec.ofNat 32 (1 + 256 * n.toNat)) 2 0 = 1 := by
    simp only [fld, hv, Nat.shiftRight_eq_div_pow]
    omega
  have hchunk : fld (BitVec.ofNat 32 (1 + 256 * n.toNat)) 21 8 = n.toNat := by
    simp only [fld, hv, Nat.shiftRight_eq_div_pow]
    omega
  have hw : writeWord s 0x7000C (BitVec.ofNat 32 (1 + 256 * n.toNat)) =
      guarded s (updateRight s) 0x7000C (BitVec.ofNat 32 (1 + 256 * n.toNat)) (programWrite s n.toNat) := by
    simp only [writeWord, writeUpdate, hcode, hchunk]
  rw [registerWrite_guarded hs rfl hw, hv]
  rfl

/-- PWR_WAKESEND names its ports in the field [6:0]. -/
theorem registerWrite_wakeSend (m : BitVec 7) :
    exec (.registerWrite 0x10024 (m.setWidth 32)) s = exec (.wakeSend m) s := by
  have hm := m.isLt
  have hv : (m.setWidth 32).toNat = m.toNat := by
    rw [BitVec.toNat_setWidth]
    omega
  have hports : BitVec.ofNat 7 (fld (m.setWidth 32) 6 0) = m := by
    apply BitVec.eq_of_toNat_eq
    simp only [fld, hv, BitVec.toNat_ofNat, Nat.shiftRight_zero]
    omega
  have hw : writeWord s 0x10024 (m.setWidth 32) =
      guarded s (powerRight s) 0x10024 (m.setWidth 32) (wakeSendWrite s m) := by
    simp only [writeWord, hports]
  rw [registerWrite_guarded hs rfl hw, hv]
  rfl

end

/-- LINK_CTRLp: a one in bit 0 trains port p again (R298). -/
theorem writeWord_linkCtrl (s : State) (p : Fin 7) (v : Word) :
    writeWord s (0x30010 + 64 * p.val) v =
      guarded s (sessionIs s .installer) (0x30010 + 64 * p.val) v (if flag v 0 then retrainPort s p.val else s) := by
  have hp := p.isLt
  unfold writeWord
  split
  case h_10 =>
    rw [if_pos (by omega), show (0x30010 + 64 * p.val - 0x30010) / 64 = p.val by omega]
  all_goals omega

theorem registerWrite_retrain {s : State} (hs : s.sec.stage ≠ 0) (p : Fin 7) :
    exec (.registerWrite (0x30010 + 64 * p.val) 1) s = exec (.retrain p) s :=
  registerWrite_guarded hs (by omega) (writeWord_linkCtrl s p 1)

/-! ### Writes of plain registers -/

/-- A misaligned register write is counted, and does nothing else (R9). -/
theorem does_registerWrite_misaligned {s : State} (hs : s.sec.stage ≠ 0) {off : Nat} (ha : off % 4 ≠ 0) (v : Word) :
    Does (.registerWrite off v) s [.sec] fun t =>
      t.sec = { s.sec with align := t.sec.align } ∧ t.sec.align.toNat = satAdd 8 s.sec.align.toNat 1 := by
  have hx : exec (.registerWrite off v) s = .next (countAlign s) := by
    simp [exec, execRegisterWrite, hs, ha]
  exact ⟨_, hx, onlyParts_sec s _, rfl, toNat_ofNat_satAdd _ _ _⟩

/-- Offsets, LINK_CTRLp apart, at which a write has an effect of its own. -/
def commandOffsets : List Nat :=
  [0x10004, 0x10024, 0x10250, 0x70000, 0x70004, 0x70008, 0x7000C, 0x70010, 0x80008]

/-- At any other offset a write is plain. -/
theorem writeWord_plain (s : State) {off : Nat} (v : Word) (hc : off ∉ commandOffsets)
    (hl : ¬ (0x30010 ≤ off ∧ off < 0x301D0 ∧ off % 64 = 16)) :
    writeWord s off v = guarded s (mayWrite s off) off v (plainWrite s off v) := by
  unfold writeWord
  split
  case h_10 => rw [if_neg hl]
  all_goals exact absurd (by decide) hc

/-- PWR_LIMIT with both fields in range, in a session with the right: both are taken. -/
theorem does_writeLimit {s : State} (hs : s.sec.stage ≠ 0) {v : Word} (hr : powerRight s = true)
    (hp : 1000 ≤ fld v 11 0 ∧ fld v 11 0 ≤ 2600) (ht : 85 ≤ fld v 18 12 ∧ fld v 18 12 ≤ 100) :
    Does (.registerWrite 0x1000C v) s [.pwr] fun t => t.pwr.plimit.toNat = fld v 11 0 ∧
      t.pwr.tthrot.toNat = fld v 18 12 ∧ t.pwr.state = s.pwr.state ∧ t.pwr.domains = s.pwr.domains ∧
      t.pwr.pace = s.pwr.pace := by
  have hx : exec (.registerWrite 0x1000C v) s = .next (writeLimit s v) :=
    (registerWrite_guarded hs rfl (right := powerRight s) rfl).trans (if_pos hr)
  refine ⟨_, hx, onlyParts_pwr s _, ?_, ?_, rfl, rfl, rfl⟩
  · simp only [writeLimit, if_pos hp, BitVec.toNat_ofNat]
    omega
  · simp only [writeLimit, if_pos ht, BitVec.toNat_ofNat]
    omega

/-- PWR_LIMIT without the right: the write is counted as denied. -/
theorem does_writeLimit_denied {s : State} (hs : s.sec.stage ≠ 0) (v : Word) (hr : powerRight s = false) :
    Does (.registerWrite 0x1000C v) s [.sec] fun t =>
      t.sec.denied.toNat = satAdd 8 s.sec.denied.toNat 1 ∧ t.sec.nor = s.sec.nor := by
  have hx : exec (.registerWrite 0x1000C v) s = .next (denyWrite s 0x1000C v.toNat) :=
    (registerWrite_guarded hs rfl (right := powerRight s) rfl).trans (if_neg (by simp [hr]))
  have hk := unlogged_denyWrite s 0x1000C v.toNat
  have hd : (denyWrite s 0x1000C v.toNat).sec.denied = (countDenied s).sec.denied := (congrArg Sec.denied hk :)
  have hn : (denyWrite s 0x1000C v.toNat).sec.nor = s.sec.nor := (congrArg Sec.nor hk :)
  exact ⟨_, hx, onlyParts_denyWrite, by rw [hd]; exact toNat_ofNat_satAdd _ _ _, hn⟩

/-- SEC_AUDIT takes the value written. -/
theorem does_writeAudit {s : State} (hs : s.sec.stage ≠ 0) (v : Word) (hr : updateRight s = true) :
    Does (.registerWrite 0x70014 v) s [.sec] fun t => t.sec = { s.sec with auditBase := v } :=
  ⟨_, (registerWrite_guarded hs rfl (right := updateRight s) rfl).trans (if_pos hr), onlyParts_sec s _, rfl⟩

/-- LINK_TIME's alarm is cleared by a one. -/
theorem does_clearAlarm {s : State} (hs : s.sec.stage ≠ 0) {v : Word} (hr : sessionIs s .installer = true)
    (hv : flag v 7 = true) :
    Does (.registerWrite 0x30308 v) s [.time] fun t => t.time = { s.time with alarm := false } :=
  ⟨_, (registerWrite_guarded hs rfl (right := sessionIs s .installer) rfl).trans
    ((if_pos hr).trans (congrArg _ (if_pos hv))), onlyParts_time s _, rfl⟩

/-- A session that acts may write SEC_ATTEST_NONCE. -/
theorem mayWrite_nonce (s : State) (k : Fin 8) : mayWrite s (0x70080 + 4 * k.val) = anySession s := by
  have hk := k.isLt
  unfold mayWrite
  repeat rw [if_neg (by omega)]

theorem plainWrite_nonce (s : State) (k : Fin 8) (v : Word) :
    plainWrite s (0x70080 + 4 * k.val) v = { s with sec := { s.sec with attNonce := s.sec.attNonce.set k.val v } } := by
  have hk := k.isLt
  unfold plainWrite
  split
  case h_7 =>
    rw [if_pos (by omega), show (0x70080 + 4 * k.val - 0x70080) / 4 = k.val by omega]
  all_goals omega

/-- A word of SEC_ATTEST_NONCE takes the value written, and the others keep theirs. -/
theorem does_writeNonce {s : State} (hs : s.sec.stage ≠ 0) (k : Fin 8) (v : Word) (hr : anySession s = true) :
    Does (.registerWrite (0x70080 + 4 * k.val) v) s [.sec] fun t =>
      t.sec.attNonce.get k.val = v ∧ ∀ i, i ≠ k.val → t.sec.attNonce.get i = s.sec.attNonce.get i := by
  have hk := k.isLt
  have hc : 0x70080 + 4 * k.val ∉ commandOffsets := by
    simp only [commandOffsets, List.mem_cons, List.not_mem_nil, or_false]
    omega
  have hw := writeWord_plain s v hc (by omega)
  rw [mayWrite_nonce, plainWrite_nonce] at hw
  exact ⟨_, (registerWrite_guarded hs (by omega) hw).trans (if_pos hr), onlyParts_sec s _, Sparse.get_set_same ..,
    fun _ hi => Sparse.get_set_other _ _ _ _ hi.symm⟩

/-! ### Reads that latch (R314, R454, R457) -/

/-- The high word of a value is its upper 32 bits. -/
theorem half_high (v : DWord) : half v true = BitVec.ofNat 32 (v.toNat / 2 ^ 32) := by
  apply BitVec.eq_of_toNat_eq
  simp [half, fld, Nat.shiftRight_eq_div_pow]

/-- A read that is served latches what its word latches. -/
theorem readBy_served {s : State} {r : Reader} {off : Nat} (h : readerReads s r off = true) :
    readBy s r off = latchRead s off := if_pos h

theorem does_epochRead {s : State} {r : Reader} (h : readerReads s r 0x30300 = true) :
    Does (.linkEpochLoRead r) s [.time] fun t =>
      t.time = { s.time with epochHi := BitVec.ofNat 32 (s.time.epoch.toNat / 2 ^ 32) } :=
  ⟨_, congrArg Host.Outcome.next (readBy_served h), onlyParts_time s _, by rw [← half_high]; rfl⟩

theorem does_beatsRead {s : State} {r : Reader} (h : readerReads s r 0x21000 = true) :
    Does (.cntBeatsLoRead r) s [.mon] fun t =>
      t.mon = { s.mon with beatsHi := BitVec.ofNat 32 (s.mon.beats.toNat / 2 ^ 32) } :=
  ⟨_, congrArg Host.Outcome.next (readBy_served h), onlyParts_mon s _, by rw [← half_high]; rfl⟩

/-- The low word of counter n latches its high word. -/
theorem latchRead_counter (s : State) (n : Fin 32) :
    latchRead s (0x20004 + 16 * n.val) =
      { s with mon := { s.mon with valHi := s.mon.valHi.set n.val (half (s.mon.val.get n.val) true) } } := by
  have hn := n.isLt
  rw [latchRead, if_neg (by omega), if_neg (by omega), if_pos (by omega)]
  simp only [show (0x20004 + 16 * n.val - 0x20000) / 16 = n.val by omega]

theorem does_counterRead {s : State} {r : Reader} {n : Fin 32} (h : readerReads s r (0x20004 + 16 * n.val) = true) :
    Does (.cntValLoRead r n) s [.mon] fun t =>
      t.mon.valHi.get n.val = BitVec.ofNat 32 ((s.mon.val.get n.val).toNat / 2 ^ 32) ∧ t.mon.val = s.mon.val ∧
      t.mon.beats = s.mon.beats ∧ ∀ i, i ≠ n.val → t.mon.valHi.get i = s.mon.valHi.get i :=
  ⟨_, congrArg Host.Outcome.next ((readBy_served h).trans (latchRead_counter s n)), onlyParts_mon s _,
    (Sparse.get_set_same ..).trans (half_high _), rfl, rfl, fun _ hi => Sparse.get_set_other _ _ _ _ hi.symm⟩

/-- Settles O55: each register's write and each latching read by its own lemma, the flush by the log's. -/
theorem registerAccessesComplete : Obligations.RegisterAccessesComplete := by
  refine ⟨fun s h1 => ?_, fun r s => ⟨does_epochRead, does_beatsRead, fun n => does_counterRead⟩,
    fun s _ => does_suppressedFlush⟩
  have hs : s.sec.stage ≠ 0 := by omega
  refine ⟨⟨registerWrite_retain hs, registerWrite_wake hs, registerWrite_personalise hs, registerWrite_seal hs,
    registerWrite_returnLife hs, registerWrite_close hs, registerWrite_stopGraceful hs,
    registerWrite_stopImmediate hs, registerWrite_commit hs, registerWrite_reboot hs, registerWrite_attest hs,
    registerWrite_full hs, registerWrite_invalidate hs, registerWrite_fence hs, registerWrite_program hs,
    registerWrite_wakeSend hs, registerWrite_retrain hs⟩, ?_⟩
  exact ⟨fun off v ha => does_registerWrite_misaligned hs ha v,
    fun v hr hp1 hp2 ht1 ht2 => does_writeLimit hs hr ⟨hp1, hp2⟩ ⟨ht1, ht2⟩, does_writeLimit_denied hs,
    does_writeAudit hs, does_writeNonce hs, fun v => does_clearAlarm hs⟩

end Sys2Proof.Machine

/-! PROOFS. The Ethernet port (R377, R379, R381): its link, requests on the network, and reads by hosts. -/

namespace Sys2Proof.Machine

/-! ### The link comes up (R377, R466) -/

/-- What says whether the port has its link and which phase the lease is in. -/
def linkPhase (s : State) : Bool × BitVec 2 × LeasePhase := (s.eth.up, s.eth.mode, s.eth.phase)

@[simp] theorem linkPhase_connect (s : State) (p : Peer) : linkPhase (connect s p) = linkPhase s := by
  unfold connect
  split <;> rfl

@[simp] theorem linkPhase_sendCapsule (s : State) (p : Peer) (target : Nat) (c : Capsule) :
    linkPhase (sendCapsule s p target c) = linkPhase s := rfl

@[simp] theorem linkPhase_connectQueue (s : State) (p : Peer) (target : Nat) :
    linkPhase (connectQueue s p target) = linkPhase s := by
  unfold connectQueue
  dsimp only
  split
  · rfl
  · split <;> simp

@[simp] theorem linkPhase_identify (s : State) (target ns : Nat) : linkPhase (identify s target ns) = linkPhase s := by
  unfold identify
  split <;> rfl

@[simp] theorem linkPhase_connectTo (s : State) (target ns : Nat) : linkPhase (connectTo s target ns) = linkPhase s := by
  unfold connectTo
  split <;> simp

@[simp] theorem linkPhase_park (s : State) (t : Pending) : linkPhase (park s t) = linkPhase s := by
  unfold park setReach
  split <;> rfl

@[simp] theorem linkPhase_issueTransfer (s : State) (t : Pending) : linkPhase (issueTransfer s t) = linkPhase s := by
  unfold issueTransfer
  split
  · rfl
  · split
    · exact linkPhase_park s t
    · exact linkPhase_connectTo s t.target t.ns

/-- The transfers that go out on a link that came up leave link and lease as they are. -/
theorem linkPhase_sendWaiting (s : State) : linkPhase (sendWaiting s) = linkPhase s :=
  foldl_keep linkPhase_issueTransfer _ s

theorem onlyParts_sendWaiting (s : State) : onlyParts [.eth, .outbox] s (sendWaiting s) := by
  intro p hp
  cases p <;> simp_all [samePart]

theorem does_linkUp {eight : Bool} {s : State} (hd : s.pwr.domains.getLsbD 39 = true) (hu : s.eth.up = false)
    (hb : s.eth.badLanes &&& modeLanes eight = 0) :
    Does (.ethernetLinkUp eight) s [.eth, .outbox] fun t => t.eth.up = true ∧
      t.eth.mode = (if eight = true then 1 else 2) ∧ t.eth.phase = s.eth.phase := by
  have hx : exec (.ethernetLinkUp eight) s =
      .next (sendWaiting { s with eth := { s.eth with up := true, mode := if eight then 1 else 2 } }) := by
    simp only [exec, execEthernetLinkUp, hd, hu, hb, Bool.not_true, Bool.false_eq_true, ne_eq, not_true_eq_false,
      or_self, if_false]
  have hk := linkPhase_sendWaiting { s with eth := { s.eth with up := true, mode := if eight then 1 else 2 } }
  simp only [linkPhase, Prod.mk.injEq] at hk
  exact ⟨_, hx, ((onlyParts_eth s _).mono (by simp)).trans (onlyParts_sendWaiting _), hk⟩

/-! ### The link goes down (R377, R383, R388, R389) -/

/-- The uses of transfers that do not outlive the link (log 48). -/
def linkUses : List TransferUse := [.leaseSlot, .claimSwap, .directory, .release, .renewal, .entryState]

theorem mem_endServices_transfers {s : State} {x : Pending} (hx : x ∈ s.eth.transfers) (hu : x.use ∉ linkUses) :
    x ∈ (endServices s).eth.transfers := by
  simp_all [endServices, endClaim, dropUses, linkUses]

/-- A renewal in flight has failed. -/
theorem endServices_fails {s : State} (h : ∃ x ∈ s.eth.transfers, x.use = .renewal) :
    (endServices s).eth.fails.toNat = satAdd 8 s.eth.fails.toNat 1 := by
  have hany : (s.eth.transfers.any fun t => t.use == .renewal) = true := by simpa using h
  simp only [endServices, hany, if_true]
  exact toNat_ofNat_satAdd _ _ _

/-- A lease held stays in its phase. -/
theorem endServices_phase {s : State} (h : leased s = true) : (endServices s).eth.phase = s.eth.phase := by
  simp only [leased, Bool.or_eq_true, beq_iff_eq] at h
  rcases h with (h | h) | h <;> simp [endServices, endClaim, dropUses, h]

/-- The port without its link: what it could not go on with has ended, its connections and its mode are gone, the loss
is counted. -/
theorem ethernetOff_eth {s : State} (h : s.eth.up = true) :
    (ethernetOff s).eth = { (endServices s).eth with
      up := false, mode := 0, conns := [], spaces := [], downs := BitVec.ofNat 8 (satAdd 8 s.eth.downs.toNat 1) } := by
  rw [ethernetOff, if_pos h]

theorem ethernetOff_time {s : State} (h : s.eth.up = true) :
    (ethernetOff s).time.ptpSeen = false ∧ (ethernetOff s).time.epoch = s.time.epoch := by
  rw [ethernetOff, if_pos h]
  exact ⟨rfl, rfl⟩

theorem onlyParts_ethernetOff (s : State) : onlyParts [.eth, .time] s (ethernetOff s) := by
  intro p hp
  cases p <;> simp_all [samePart]

/-- The command that takes the link down leaves the port as a lost link does; a device on 1588 time goes into
holdover besides. -/
theorem does_linkDown_off {s : State} (h : s.eth.up = true) :
    Does .ethernetLinkDown s [.eth, .time] fun t => t.eth = (ethernetOff s).eth ∧ t.time.ptpSeen = false ∧
      t.time.epoch = s.time.epoch := by
  obtain ⟨hseen, hepoch⟩ := ethernetOff_time h
  have hx : exec .ethernetLinkDown s = .next (if s.time.ptp then
      { ethernetOff s with time := { (ethernetOff s).time with holdover := true } } else ethernetOff s) := by
    simp [exec, execEthernetLinkDown, h]
  refine ⟨_, hx, ?_⟩
  split
  · exact ⟨(onlyParts_ethernetOff s).trans ((onlyParts_time _ _).mono (by simp)), rfl, hseen, hepoch⟩
  · exact ⟨onlyParts_ethernetOff s, rfl, hseen, hepoch⟩

theorem does_linkDown {s : State} (h : s.eth.up = true) :
    Does .ethernetLinkDown s [.eth, .time] fun t => t.eth.up = false ∧ t.eth.mode = 0 ∧ t.time.ptpSeen = false ∧
      t.eth.downs.toNat = satAdd 8 s.eth.downs.toNat 1 ∧ t.eth.conns = [] ∧
      (∀ x ∈ s.eth.transfers, x.use ∉ linkUses → x ∈ t.eth.transfers) ∧
      ((∃ x ∈ s.eth.transfers, x.use = .renewal) → t.eth.fails.toNat = satAdd 8 s.eth.fails.toNat 1) ∧
      t.time.epoch = s.time.epoch ∧ (leased s = true → t.eth.phase = s.eth.phase) := by
  obtain ⟨t, hx, hf, heth, hseen, hepoch⟩ := does_linkDown_off h
  rw [ethernetOff_eth h] at heth
  refine ⟨t, hx, hf, ?_⟩
  dsimp only
  rw [heth]
  exact ⟨rfl, rfl, hseen, toNat_ofNat_satAdd _ _ _, rfl, fun _ => mem_endServices_transfers, endServices_fails, hepoch,
    endServices_phase⟩

/-! ### Requests on the network (R377) -/

theorem does_networkRequest_bad {r : NetRequest} {address : BitVec 128} {frame : EthFrame} {s : State}
    (hu : s.eth.up = true) (hb : badFrame frame = true) :
    Does (.arpOrEchoRequest r address frame) s [.eth] fun t =>
      t.eth = { s.eth with uncorr := BitVec.ofNat 16 (satAdd 16 s.eth.uncorr.toNat 1) } := by
  have hx : exec (.arpOrEchoRequest r address frame) s = .next (countFrame s) := by
    simp [exec, execArpOrEchoRequest, hu, hb]
  exact ⟨_, hx, onlyParts_eth s _, rfl⟩

theorem does_networkRequest_own {r : NetRequest} {address : BitVec 128} {frame : EthFrame} {s : State}
    (hu : s.eth.up = true) (hb : badFrame frame = false) (ha : address.toNat = numAt (network s) 16 16) :
    Does (.arpOrEchoRequest r address frame) s [.outbox] fun t => t.outbox = s.outbox ++ [.answer r address] := by
  have hx : exec (.arpOrEchoRequest r address frame) s = .next (send s [.answer r address]) := by
    simp [exec, execArpOrEchoRequest, hu, hb, ha]
  exact ⟨_, hx, onlyParts_outbox s _, rfl⟩

theorem exec_networkRequest_foreign {r : NetRequest} {address : BitVec 128} {frame : EthFrame} {s : State}
    (hu : s.eth.up = true) (hb : badFrame frame = false) (ha : address.toNat ≠ numAt (network s) 16 16) :
    exec (.arpOrEchoRequest r address frame) s = .next s := by
  simp [exec, execArpOrEchoRequest, hu, hb, ha]

/-! ### Connections, marks and messages sent -/

/-- A connection changes the port's connections alone. -/
theorem connect_eq (s : State) (p : Peer) :
    connect s p = { s with eth := { s.eth with
      conns := (connect s p).eth.conns, nextConn := (connect s p).eth.nextConn } } := by
  unfold connect
  split <;> rfl

theorem onlyParts_connect (s : State) (p : Peer) : onlyParts [.eth] s (connect s p) := by
  intro q hq
  cases q <;> simp_all [samePart]

theorem connect_refused (s : State) (p : Peer) : (connect s p).eth.refused = s.eth.refused := by
  rw [connect_eq]

/-- No word of the window tells of a connection. -/
theorem windowWord_connect (s : State) (p : Peer) (off : Nat) : windowWord (connect s p) off = windowWord s off := by
  rw [connect_eq]
  rfl

theorem rdmaReads_connect (s : State) (p : Peer) (r : Role) (off : Nat) :
    rdmaReads (connect s p) r off = rdmaReads s r off := by
  rw [connect_eq]
  rfl

theorem accessRole_connect (s : State) (p : Peer) (i : Nat) : accessRole (connect s p) i = accessRole s i := by
  rw [connect_eq]
  rfl

/-- The messages that answer a congestion mark (R379). -/
def markMsgs (s : State) (p : Option Peer) (marked : Bool) : List OutMsg :=
  if marked = true then [.congestion (roceMark s p 0)] else []

theorem answerMark_eq (s : State) (p : Option Peer) (marked : Bool) :
    answerMark s p marked = send s (markMsgs s p marked) := by
  cases marked <;> simp [answerMark, markMsgs, send]

theorem latchRead_send (s : State) (ms : List OutMsg) (off : Nat) :
    latchRead (send s ms) off = send (latchRead s off) ms := by
  by_cases h1 : off = 0x30300
  · simp only [latchRead, if_pos h1]
    rfl
  by_cases h2 : off = 0x21000
  · simp only [latchRead, if_neg h1, if_pos h2]
    rfl
  by_cases h3 : 0x20000 ≤ off ∧ off < 0x20200 ∧ off % 16 = 4
  · simp only [latchRead, if_neg h1, if_neg h2, if_pos h3]
    rfl
  · simp only [latchRead, if_neg h1, if_neg h2, if_neg h3]

/-- What has been sent before a read changes neither its words nor what they latch. -/
theorem rdmaBytes_send (s : State) (ms : List OutMsg) (r : Role) (n off : Nat) :
    rdmaBytes (send s ms) r off n = (send (rdmaBytes s r off n).1 ms, (rdmaBytes s r off n).2) := by
  induction n generalizing s off with
  | zero => rfl
  | succ n ih =>
    have hr : rdmaReads (send s ms) r off = rdmaReads s r off := rfl
    have hw : windowWord (send s ms) off = windowWord s off := rfl
    cases h : rdmaReads s r off <;> simp [rdmaBytes, hr, hw, h, latchRead_send, ih]

/-! ### Words read for a host (R381) -/

theorem onlyParts_countAlign (s : State) : onlyParts [.sec] s (countAlign s) := onlyParts_sec s _

theorem onlyParts_rdmaBytes (s : State) (r : Role) (off n : Nat) :
    onlyParts [.time, .mon] s (rdmaBytes s r off n).1 := by
  intro p hp
  cases p <;> simp_all [samePart]

theorem latchRead_epoch (s : State) (off : Nat) : (latchRead s off).time.epoch = s.time.epoch := by
  unfold latchRead
  split
  · rfl
  split
  · rfl
  split <;> rfl

/-- A read latches words of the epoch counter and leaves the counter as it is. -/
theorem rdmaBytes_epoch (s : State) (r : Role) (n off : Nat) :
    (rdmaBytes s r off n).1.time.epoch = s.time.epoch := by
  induction n generalizing s off with
  | zero => rfl
  | succ n ih => cases h : rdmaReads s r off <;> simp [rdmaBytes, h, latchRead_epoch, ih]

/-- Outside the latching words a read changes nothing. -/
theorem latchRead_of_plain (s : State) {off : Nat} (h1 : off ≠ 0x30300) (h2 : off ≠ 0x21000)
    (h3 : off < 0x20000 ∨ 0x20200 ≤ off) : latchRead s off = s := by
  rw [latchRead, if_neg h1, if_neg h2, if_neg (by omega)]

/-- A read of one word that latches nothing gives that word, or zero without the right. -/
theorem rdmaBytes_one {s : State} {off : Nat} (h : latchRead s off = s) (r : Role) :
    rdmaBytes s r off 1 = (s, leBytes 4 (if rdmaReads s r off = true then windowWord s off else 0).toNat) := by
  simp [rdmaBytes, h]

/-! ### Requests of hosts (R381) -/

/-- In Active to Idle, with no transition in progress, a request wakes nothing (R441, R444). -/
theorem request_wakes_nothing {s : State} (hp : s.pwr.state.toNat ≤ 2) (hb : s.pwr.busy = false) :
    wakeSource (mgmtWake s) 4 0 true false = s := by
  have h3 : s.pwr.state ≠ 3#3 := fun h => by simp [h] at hp
  have h4 : s.pwr.state ≠ 4#3 := fun h => by simp [h] at hp
  have hm : mgmtWake s = s := by simp [mgmtWake, h4]
  simp [hm, wakeSource, lowering, hb, h3]

section
variable {source : BitVec 128} {key : Word} {frame : EthFrame} {s : State}
  (hu : s.eth.up = true) (hp : s.pwr.state.toNat ≤ 2) (hb : s.pwr.busy = false) (hf : badFrame frame = false)
include hu hp hb hf

/-- A request from nobody on the access list: its mark is answered, and it is refused. -/
theorem exec_rdmaRead_unlisted (hl : accessFind s source key = none) (offset length : Nat) (kind : RdmaKind) :
    exec (.rdmaRead source key offset length kind frame) s =
      .next (refuseRead (send s (markMsgs s none frame.marked)) none) := by
  simp only [exec, execRdmaRead, request_wakes_nothing hp hb, hu, hf, hl, answerMark_eq, Bool.not_true,
    Bool.false_eq_true, if_false]

/-- A request of entry i of the access list: its mark is answered on the host's connection, and it is served. -/
theorem exec_rdmaRead_listed {i : Nat} (hl : accessFind s source key = some i) (offset length : Nat) (kind : RdmaKind) :
    exec (.rdmaRead source key offset length kind frame) s =
      .next (serveHost (send (connect s (.host i)) (markMsgs (connect s (.host i)) (some (.host i)) frame.marked))
        i offset length kind) := by
  simp only [exec, execRdmaRead, request_wakes_nothing hp hb, hu, hf, hl, answerMark_eq, Bool.not_true,
    Bool.false_eq_true, if_false]

end

/-- A refusal is counted and answered with a remote access error. -/
theorem refuseRead_send (s : State) (ms : List OutMsg) (p : Option Peer) :
    onlyParts [.eth, .outbox] s (refuseRead (send s ms) p) ∧
      (refuseRead (send s ms) p).outbox = s.outbox ++ ms ++ [.refused (roceMark s p 0)] ∧
      (refuseRead (send s ms) p).eth.refused.toNat = satAdd 16 s.eth.refused.toNat 1 := by
  refine ⟨?_, rfl, toNat_ofNat_satAdd _ _ _⟩
  exact (((onlyParts_outbox s _).mono (by simp)).trans ((onlyParts_eth _ _).mono (by simp))).send _ (by simp)

/-- An aligned read within one range is answered with its words, in increasing address order. -/
theorem serveHost_read (s : State) (ms : List OutMsg) {i offset length : Nat} {r : Role}
    (hr : accessRole s i = some r) (hg : rdmaRange offset length = true) (ho : offset % 4 = 0) (hl : length % 4 = 0) :
    serveHost (send s ms) i offset length .read =
      send (send (rdmaBytes s r offset (length / 4)).1 ms)
        [.rdma (roceMark s (some (.host i)) length) i (rdmaBytes s r offset (length / 4)).2] := by
  have hr' : accessRole (send s ms) i = some r := hr
  simp only [serveHost, hg, ho, hl, hr', rdmaBytes_send, Option.getD_some, ne_eq, not_true_eq_false, Bool.not_true,
    Bool.false_eq_true, or_self, if_false]
  rfl

/-- A misaligned read within one range is counted and answered with zeros (R9). -/
theorem serveHost_misaligned (s : State) (ms : List OutMsg) {offset length : Nat} (i : Nat)
    (hg : rdmaRange offset length = true) (ha : offset % 4 ≠ 0 ∨ length % 4 ≠ 0) :
    serveHost (send s ms) i offset length .read =
      send (countAlign (send s ms)) [.rdma (roceMark s (some (.host i)) length) i (List.replicate length 0)] := by
  simp only [serveHost, hg, if_pos ha, ne_eq, not_true_eq_false, Bool.not_true, Bool.false_eq_true, or_self, if_false]
  rfl

/-- A read outside a range (log 44), a write, a Send and an atomic are refused. -/
theorem serveHost_refused (s : State) (i : Nat) {offset length : Nat} {kind : RdmaKind}
    (h : rdmaRange offset length = false ∨ kind ≠ .read) :
    serveHost s i offset length kind = refuseRead s (some (.host i)) := by
  have hc : kind ≠ .read ∨ (!rdmaRange offset length) = true := by simpa [or_comm] using h
  rw [serveHost, if_pos hc]

section
variable {source : BitVec 128} {key : Word} {frame : EthFrame} {s : State}
  (hu : s.eth.up = true) (hp : s.pwr.state.toNat ≤ 2) (hb : s.pwr.busy = false) (hf : badFrame frame = false)
include hu hp hb hf

theorem does_rdmaRead_unlisted (hl : accessFind s source key = none) (offset length : Nat) (kind : RdmaKind) :
    Does (.rdmaRead source key offset length kind frame) s [.eth, .outbox] fun t =>
      t.outbox = s.outbox ++ markMsgs s none frame.marked ++ [.refused (roceMark s none 0)] ∧
      t.eth.refused.toNat = satAdd 16 s.eth.refused.toNat 1 :=
  ⟨_, exec_rdmaRead_unlisted hu hp hb hf hl offset length kind, refuseRead_send s _ none⟩

variable {i : Nat} (hl : accessFind s source key = some i)
include hl

theorem does_rdmaRead_served {r : Role} (hr : accessRole s i = some r) {offset length : Nat}
    (hg : rdmaRange offset length = true) (ho : offset % 4 = 0) (hn : length % 4 = 0) :
    let u := connect s (.host i)
    Does (.rdmaRead source key offset length .read frame) s [.time, .eth, .mon, .outbox] fun t =>
      t.outbox = s.outbox ++ markMsgs u (some (.host i)) frame.marked ++
        [.rdma (roceMark u (some (.host i)) length) i (rdmaBytes u r offset (length / 4)).2] ∧
      t.eth = u.eth ∧ t.time.epoch = s.time.epoch := by
  intro u
  have hx := (exec_rdmaRead_listed hu hp hb hf hl offset length .read).trans
    (congrArg _ (serveHost_read u _ ((accessRole_connect s _ i).trans hr) hg ho hn))
  have hread := (onlyParts_rdmaBytes u r offset (length / 4)).mono (qs := [.time, .eth, .mon, .outbox]) (by simp)
  have hconn := (onlyParts_connect s (.host i)).mono (qs := [.time, .eth, .mon, .outbox]) (by simp)
  refine ⟨_, hx, ((hconn.trans hread).send _ (by simp)).send _ (by simp), ?_, ?_, ?_⟩
  · simp [u]
  · simp [u]
  · simp [rdmaBytes_epoch, u]

/-- One word that latches nothing is answered as it stands, or as zero without the right. -/
theorem does_rdmaRead_word {r : Role} (hr : accessRole s i = some r) {offset : Nat} (hg : rdmaRange offset 4 = true)
    (ho : offset % 4 = 0) (h1 : offset ≠ 0x30300) (h2 : offset ≠ 0x21000) (h3 : offset < 0x20000 ∨ 0x20200 ≤ offset) :
    let u := connect s (.host i)
    Does (.rdmaRead source key offset 4 .read frame) s [.eth, .outbox] fun t => t.eth = u.eth ∧
      t.outbox = s.outbox ++ markMsgs u (some (.host i)) frame.marked ++
        [.rdma (roceMark u (some (.host i)) 4) i
          (leBytes 4 (if rdmaReads s r offset = true then windowWord s offset else 0).toNat)] := by
  intro u
  have hx := (exec_rdmaRead_listed hu hp hb hf hl offset 4 .read).trans
    (congrArg _ (serveHost_read u _ ((accessRole_connect s _ i).trans hr) hg ho rfl))
  rw [rdmaBytes_one (latchRead_of_plain u h1 h2 h3), rdmaReads_connect, windowWord_connect] at hx
  have hconn := (onlyParts_connect s (.host i)).mono (qs := [.eth, .outbox]) (by simp)
  exact ⟨_, hx, (hconn.send _ (by simp)).send _ (by simp), rfl, by simp [u]⟩

theorem does_rdmaRead_misaligned {offset length : Nat} (hg : rdmaRange offset length = true)
    (ha : offset % 4 ≠ 0 ∨ length % 4 ≠ 0) :
    let u := connect s (.host i)
    Does (.rdmaRead source key offset length .read frame) s [.eth, .sec, .outbox] fun t => t.eth = u.eth ∧
      t.sec = (countAlign s).sec ∧ t.outbox = s.outbox ++ markMsgs u (some (.host i)) frame.marked ++
        [.rdma (roceMark u (some (.host i)) length) i (List.replicate length 0)] := by
  intro u
  have hx := (exec_rdmaRead_listed hu hp hb hf hl offset length .read).trans
    (congrArg _ (serveHost_misaligned u _ i hg ha))
  have hconn := (onlyParts_connect s (.host i)).mono (qs := [.eth, .sec, .outbox]) (by simp)
  have hcount := (hconn.send (markMsgs u (some (.host i)) frame.marked) (by simp)).trans
    ((onlyParts_countAlign _).mono (by simp))
  exact ⟨_, hx, hcount.send _ (by simp), rfl, by simp [u, countAlign, send], by simp [u]⟩

theorem does_rdmaRead_refused {offset length : Nat} {kind : RdmaKind}
    (h : rdmaRange offset length = false ∨ kind ≠ .read) :
    let u := connect s (.host i)
    Does (.rdmaRead source key offset length kind frame) s [.eth, .outbox] fun t =>
      t.outbox = s.outbox ++ markMsgs u (some (.host i)) frame.marked ++ [.refused (roceMark u (some (.host i)) 0)] ∧
      t.eth.refused.toNat = satAdd 16 s.eth.refused.toNat 1 := by
  intro u
  have hx := (exec_rdmaRead_listed hu hp hb hf hl offset length kind).trans
    (congrArg _ (serveHost_refused _ i h))
  obtain ⟨hframe, hout, hcount⟩ := refuseRead_send u (markMsgs u (some (.host i)) frame.marked) (some (.host i))
  refine ⟨_, hx, ((onlyParts_connect s _).mono (by simp)).trans hframe, ?_, ?_⟩
  · simpa [u] using hout
  · rwa [connect_refused] at hcount

end

/-- Settles O48: the link's changes, the network's requests, and each kind of read by its own lemma. -/
theorem ethernetCommandsComplete : Obligations.EthernetCommandsComplete := by
  refine ⟨fun _ _ => does_linkUp, fun _ => does_linkDown, fun _ _ _ _ hu => ⟨does_networkRequest_bad hu,
    does_networkRequest_own hu, exec_networkRequest_foreign hu⟩, ?_⟩
  intro source key offset length frame s hu hp hb hf listed mark
  refine ⟨fun i r hl hr => ?_, fun kind hl => does_rdmaRead_unlisted hu hp hb hf hl offset length kind⟩
  exact ⟨does_rdmaRead_served hu hp hb hf hl hr,
    fun ho _ hg h1 h2 h3 => does_rdmaRead_word hu hp hb hf hl hr hg ho h1 h2 h3,
    does_rdmaRead_misaligned hu hp hb hf hl, fun _ => does_rdmaRead_refused hu hp hb hf hl⟩

end Sys2Proof.Machine
